-- ==== Sys2Proof/Word.lean ====
section
/-! DEFINITION. The word types of the MD-4830 (01_tagged_words.md R19, R20) and the numbering of its units (00_scope.md R15). -/

namespace Sys2Proof

/-- A byte of memory. -/
abbrev Byte := BitVec 8
/-- A 64-bit payload (R19, PAYLOAD). -/
abbrev Word := BitVec 64
/-- An 8-bit tag code (R19, TAG). -/
abbrev Tag := BitVec 8
/-- A 52-bit physical (or intermediate physical) address. -/
abbrev Pa := BitVec 52

/-- R19: a tagged word, 64 bits of payload and 8 bits of tag. -/
structure TW where
  tag : Tag
  val : Word
  deriving DecidableEq, Repr

/-- The unset word: tag 0x00, payload zero (Table 1-9, reset of every register; DZL). -/
def TW.zero : TW := { tag := 0x00#8, val := 0#64 }

/-- A raw word (tag 0x05). -/
def TW.raw (v : Word) : TW := { tag := 0x05#8, val := v }

/-- A fixnum word (tag 0x01). -/
def TW.fix (v : Word) : TW := { tag := 0x01#8, val := v }

/-- A 5-bit register field of an instruction (R45). -/
abbrev Reg := BitVec 5
/-- A global core number (R15). -/
abbrev CoreId := Fin 48
/-- A pair number (R15). -/
abbrev PairId := Fin 24
/-- A cluster number c = die × 6 + cluster (R206). -/
abbrev CluId := Fin 12
/-- A memory channel number (R15). -/
abbrev ChanId := Fin 12
/-- A compute die: 0 West, 1 East (R15). -/
abbrev DieId := Fin 2
/-- A die bridge lane group (R253). -/
abbrev GroupId := Fin 4
/-- A PCIe root port. -/
abbrev PortId := Fin 16
/-- A Volley port. -/
abbrev VPortId := Fin 4

end Sys2Proof
end

