-- ==== Sys2Proof/Machine/Bits.lean ====
section
/-! DEFINITION. Bit fields, extensions and byte order. -/

namespace Sys2Proof.Machine

/-- Bits [lo + n - 1:lo] of a word, as a number. -/
def fieldN (w : Word) (lo n : Nat) : Nat := (w.toNat >>> lo) % 2 ^ n

/-- `w` with bits [lo + n - 1:lo] replaced by `v`. -/
def setField (w : Word) (lo n v : Nat) : Word :=
  let m : Word := BitVec.ofNat 64 ((2 ^ n - 1) <<< lo)
  (w &&& ~~~m) ||| (BitVec.ofNat 64 ((v % 2 ^ n) <<< lo))

/-- A flag as the word bit `i`. -/
def bitAt (b : Bool) (i : Nat) : Word := if b then BitVec.ofNat 64 (2 ^ i) else 0#64

/-- A number placed at bit `lo` of a word. -/
def placed (v lo : Nat) : Word := BitVec.ofNat 64 (v <<< lo)

/-- The sign extension of a 16-bit immediate (R58). -/
def sext16 (i : BitVec 16) : Word := i.signExtend 64

/-- The zero extension of a 16-bit immediate (R58). -/
def zext16 (i : BitVec 16) : Word := i.setWidth 64

/-- The low `n` bytes of `w`, zero-extended (R40). -/
def lowBytes (w : Word) (n : Nat) : Word := BitVec.ofNat 64 (w.toNat % 2 ^ (8 * n))

/-- The low `n` bytes of `w`, sign-extended (R40). -/
def signBytes (w : Word) (n : Nat) : Word :=
  let v := w.toNat % 2 ^ (8 * n)
  if v < 2 ^ (8 * n - 1) then BitVec.ofNat 64 v else BitVec.ofNat 64 (v + (2 ^ 64 - 2 ^ (8 * n)))

/-- Byte `i` of a payload, byte 0 at the lowest address (R20). -/
def byteOf (w : Word) (i : Nat) : Byte := BitVec.ofNat 8 (w.toNat >>> (8 * i))

/-- A payload from its bytes, the first at the lowest address (R20). -/
def ofBytes : List Byte → Nat
  | [] => 0
  | b :: t => b.toNat + 256 * ofBytes t

/-- `w` with `n` bytes from byte `i` on replaced by the low bytes of `v` (R40). -/
def mergeBytes (w : Word) (i n : Nat) (v : Word) : Word := setField w (8 * i) (8 * n) v.toNat

/-- Rotate a 64-bit word left by `k` (R282). -/
def rotl (w : Word) (k : Nat) : Word := (w <<< k) ||| (w >>> (64 - k))

/-- The alignment of an address down to a multiple of 2^k. -/
def alignDown (w : Word) (k : Nat) : Word := (w >>> k) <<< k

/-- The 56-bit address part of a word (R24). -/
def addr56 (w : Word) : Word := w &&& 0x00FFFFFFFFFFFFFF#64

/-- Whether a word has a bit set in [63:56] (R52). -/
def high56 (w : Word) : Bool := !decide (w >>> 56 = 0#64)

/-- The PA that a word's low 52 bits name. -/
def toPa (w : Word) : Pa := w.setWidth 52

/-- The line number of a PA (64-byte lines, R233). -/
def lineOf (pa : Pa) : Nat := pa.toNat / 64

/-- The word index of a PA within its line. -/
def wordIx (pa : Pa) : Fin 8 := ⟨pa.toNat / 8 % 8, Nat.mod_lt _ (by decide)⟩

/-- The first byte of line `n`. -/
def linePa (n : Nat) : Pa := BitVec.ofNat 52 (n * 64)

/-- Bits `i` down to 0 of a mask, as the list of set indices below `n`. -/
def setBits (m : Nat) (n : Nat) : List Nat := (List.range n).filter (fun i => m.testBit i)

end Sys2Proof.Machine
end

