-- ==== Sys2Proof/Machine/Flags.lean ====
section
/-! DEFINITION. Condition codes (Tables 2-7 and 5-4, R64, R80, R81, R110). -/

namespace Sys2Proof.Machine

/-- CC of a result's sign: 0 zero, 1 negative (bit 63), 2 positive (Table 2-7). -/
def ccSign (w : Word) : BitVec 2 := if w = 0#64 then 0#2 else if w.getLsbD 63 then 1#2 else 2#2

/-- Whether an exact integer fits in 64-bit two's complement. -/
def fits64 (v : Int) : Bool := decide (-(2 ^ 63) ≤ v) && decide (v < 2 ^ 63)

/-- CC of ADD, SUB, MUL and their immediate forms: 3 on signed overflow (Table 2-7). -/
def ccExact (v : Int) : BitVec 2 := if fits64 v then ccSign (BitVec.ofInt 64 v) else 3#2

/-- CC of a comparison: 0 equal, 1 lower, 2 higher (R64). -/
def ccCompare (a b : Int) : BitVec 2 := if a = b then 0#2 else if a < b then 1#2 else 2#2

/-- CC of a decimal or generic result's sign: 0 zero, 1 negative, 2 positive (Table 5-4, R81). -/
def ccInt (v : Int) : BitVec 2 := ccCompare v 0

end Sys2Proof.Machine
end

