-- ==== Sys2Proof/Machine/SysNums.lean ====
section
/-! DEFINITION. The numbers and privileges of the system registers. -/

namespace Sys2Proof.Machine

/-- The read and write privileges of a system register (0 any, 1 Supervisor, 3 Monitor); none when the number is not
implemented (Tables 2-10, 3-9, 4-10, 5-15, 6-12, 8-13, 9-9, 10-5, 11-12, 11-17, R356). -/
def sysPriv (n : Nat) : Option (Nat × Nat) :=
  if n = 0x000 then some (0, 0)
  else if n = 0x001 then some (1, 3)
  else if n = 0x002 ∨ n = 0x003 ∨ n = 0x004 ∨ n = 0x008 ∨ n = 0x009 ∨ n = 0x00A ∨ n = 0x00C then some (1, 1)
  else if n = 0x018 then some (0, 1)
  else if n = 0x019 ∨ n = 0x01A ∨ n = 0x030 ∨ n = 0x040 ∨ n = 0x041 ∨ n = 0x042 then some (0, 0)
  else if 0x100 ≤ n ∧ n < 0x140 then some (1, 1)
  else if n = 0x140 ∨ n = 0x144 ∨ n = 0x145 then some (3, 3)
  else if n = 0x141 ∨ n = 0x142 then some (1, 1)
  else if n = 0x143 then some (1, 3)
  else if n = 0x200 ∨ n = 0x201 ∨ n = 0x210 ∨ n = 0x211 then some (0, 0)
  else if n = 0x202 then some (1, 1)
  else if 0x220 ≤ n ∧ n < 0x240 ∧ n % 8 < 6 then some (1, 1)
  else if n = 0x300 ∨ n = 0x302 ∨ n = 0x303 ∨ n = 0x305 then some (1, 1)
  else if n = 0x301 ∨ n = 0x304 then some (0, 1)
  else if 0x308 ≤ n ∧ n < 0x30C then some (1, 1)
  else if 0x340 ≤ n ∧ n < 0x360 then some (3, 3)
  else if 0x400 ≤ n ∧ n < 0x405 then some (0, 0)
  else if n = 0x408 then some (0, 1)
  else if 0x420 ≤ n ∧ n < 0x424 then some (0, 0)
  else if 0x424 ≤ n ∧ n < 0x428 then some (0, 1)
  else if 0x500 ≤ n ∧ n < 0x503 then some (1, 1)
  else if n = 0x600 then some (0, 1)
  else if 0x601 ≤ n ∧ n < 0x604 then some (1, 1)
  else if 0x700 ≤ n ∧ n ≤ 0x710 then some (1, 1)
  else if 0x740 ≤ n ∧ n < 0x750 then some (1, 1)
  else none

end Sys2Proof.Machine
end

