-- ==== Sys2Proof/Syntax.lean ====
section
/-! DEFINITION. The commands of the block: one constructor of Instr per row of spec/opcode_table.json, with their operands. -/

namespace Sys2Proof

/-- The memory operand of an M-format instruction (Table 2-2): base field, addressing mode and field [11:0]. -/
structure MemOp where
  rb : Reg
  am : BitVec 2
  field : BitVec 12
  deriving DecidableEq, Repr

/-- An event that a core of a checked pair folds (Table 11-3): K, V and T. -/
structure Event where
  k : Nat
  v : Word
  t : Nat
  deriving DecidableEq, Repr

/-- The operands of an X-format instruction: three register fields and the extension word (R46). -/
structure XOp where
  rd : Reg
  ra : Reg
  rc : Reg
  ext : BitVec 32
  deriving DecidableEq, Repr

/-- Rounding and format of a floating-point instruction: the RMS field and P (Tables 4-2, 4-3). -/
structure FpMode where
  rms : BitVec 3
  p : Bool
  deriving DecidableEq, Repr

/-- A long instruction stopped at an interruption point by an interrupt (R149, R162, R66): its word, its extension
word (the repeated instruction for a prefix), and how many interruption points it completed first. -/
structure Within where
  word : BitVec 32
  ext : BitVec 32
  points : Nat
  deriving DecidableEq, Repr

/-- Where a mailbox command comes from (R403, R409): a mailbox channel, or the external channel with its CMD words. -/
inductive MSrc where
  | chan (i : Fin 64)
  | ext (cmd : Vector Word 8)
  deriving DecidableEq, Repr

/-- A coherence request of a core to the home slice (R242). -/
inductive ReqKind where
  | read | own | evict
  deriving DecidableEq, Repr

/-- A request the directory forwards to an L2 (Table 9-3). -/
inductive FwdKind where
  | read | write | inval
  deriving DecidableEq, Repr

/-- One flip of a stored DRAM symbol: the symbol and the bits that differ (13_memory_integrity.md). -/
structure SymErr where
  sym : Nat
  bits : Byte
  deriving DecidableEq, Repr

/-- How a completion of a PCIe request ends (R363). -/
inductive CplStatus where
  | sc | ur | ca | ep
  deriving DecidableEq, Repr

/-- What the checks of an image read (R195, R402): the outcomes of the signature verifications. -/
structure SigOutcome where
  ssig : Bool
  xsig : Bool
  deriving DecidableEq, Repr

/-- Module types that an SPD names (Table 12-1). -/
inductive Module where
  | rdimm | udimm | sodimm | lrdimm | mrdimm
  deriving DecidableEq, Repr

/-- A DIMM as Fisin's SPD read reports it (R306, Table 12-1): module type, whether its devices are 3DS stacks, lanes of a sub-channel,
device width in bits and density in Gb, capacity in GiB, ranks, the top rate code, whether it asks for refresh management (R315), and the
serial number. -/
structure Dimm where
  kind : Module
  stacked : Bool
  lanes : Nat
  width : Nat
  density : Nat
  gib : Nat
  ranks : Nat
  rate : BitVec 3
  rfm : Bool
  serial : BitVec 32
  deriving DecidableEq, Repr

/-- A record of the configuration block in flash (R401). -/
structure CfgRecord where
  id : BitVec 16
  value : Word
  deriving DecidableEq, Repr

/-- The next instruction of a core: its word and the extension word that follows it. -/
structure NextInsn where
  c : CoreId
  word : BitVec 32
  ext : BitVec 32
  deriving DecidableEq, Repr

/-- The line that a miss buffer fetched, and the virtual address of the load that missed where translation is on (R243). -/
structure MissLine where
  pa : Pa
  va : Option Word
  deriving DecidableEq, Repr

/-- How a fill ends: whether its load has been squashed (R243), and whether the array holding the line has an error (R237). -/
structure FillEnd where
  squashed : Bool
  arrayErr : Bool
  deriving DecidableEq, Repr

/-- What the trailing column of a window did besides its signature: how many stores it made, and the events it folded (R285). -/
structure Trailing where
  stores : Nat
  events : List Event
  deriving DecidableEq, Repr

/-- A step of a commit at cluster `clu`, and the cores that stand inside an instruction as it completes (R203). -/
structure CluStep where
  clu : CluId
  cut : List (CoreId × Within)
  deriving DecidableEq, Repr

/-- A refresh of channel `ch` that falls due: whether requests postpone it, and whether it is a refresh management command (R315). -/
structure Refresh where
  ch : ChanId
  busy : Bool
  manage : Bool
  deriving DecidableEq, Repr

/-- A rank of a channel. -/
structure RankOf where
  ch : ChanId
  rank : Fin 4
  deriving DecidableEq, Repr

/-- The nodes of a message: SRC and DST of its header (R378). -/
structure Route where
  src : BitVec 5
  dst : BitVec 5
  deriving DecidableEq, Repr

/-- A message of node 0 that names an epoch: its DST and the epoch (R353). -/
structure EpochTo where
  dst : BitVec 5
  n : BitVec 48
  deriving DecidableEq, Repr

/-- SRC, DST and MSGID of a message's header (R378). -/
structure MsgId where
  src : BitVec 5
  dst : BitVec 5
  id : Nat
  deriving DecidableEq, Repr

/-- A CTAG and DST of the message that carries it (R387). -/
structure TagTo where
  ctag : Byte
  dst : BitVec 5
  deriving DecidableEq, Repr

/-- An error that AER reports: its status bits and the requester ID of the request (R372, R411). -/
structure AerReport where
  status : Word
  rid : BitVec 16
  deriving DecidableEq, Repr

/-- A flit that port `q` receives: its sequence number, none where the flit's CRC is wrong (R379). -/
structure RxFlit where
  q : VPortId
  seqno : Option Nat
  deriving DecidableEq, Repr

/-- The straps sampled as RESET_N rises (R396). -/
structure Straps where
  role : Bool
  bootsrc : Bool
  pairsafe : Bool
  deriving DecidableEq, Repr

/-- Outcomes of the signature verifications of the primary and the alternate image (R195). -/
structure TwoSigs where
  primary : Bool
  alternate : Bool
  deriving DecidableEq, Repr

/-- A store buffer's drain: the core, and whether the array holding the line has an error (R237, R239). -/
structure DrainOf where
  c : CoreId
  arrayErr : Bool
  deriving DecidableEq, Repr

/-- Every command of spec/opcode_table.json, in the table's order. `c` is the physical core that executes an
instruction, `p` a pair, `g` a lane group, `ch` a channel, `q` a Volley port. -/
inductive Instr where
  -- raw integer arithmetic, compares and moves (02, R58–R64)
  | add (c : CoreId) (dst a b : Reg)
  | sub (c : CoreId) (dst a b : Reg)
  | and (c : CoreId) (dst a b : Reg)
  | or (c : CoreId) (dst a b : Reg)
  | xor (c : CoreId) (dst a b : Reg)
  | shl (c : CoreId) (dst a b : Reg)
  | shr (c : CoreId) (dst a b : Reg)
  | sar (c : CoreId) (dst a b : Reg)
  | mul (c : CoreId) (dst a b : Reg)
  | mulw (c : CoreId) (a b : Reg)
  | mulwu (c : CoreId) (a b : Reg)
  | div (c : CoreId) (dst a b : Reg)
  | divu (c : CoreId) (dst a b : Reg)
  | rem (c : CoreId) (dst a b : Reg)
  | remu (c : CoreId) (dst a b : Reg)
  | cmp (c : CoreId) (a b : Reg)
  | cmpu (c : CoreId) (a b : Reg)
  | cmpw (c : CoreId) (a b : Reg)
  | mov (c : CoreId) (dst a : Reg)
  | addi (c : CoreId) (dst a : Reg) (imm : BitVec 16)
  | andi (c : CoreId) (dst a : Reg) (imm : BitVec 16)
  | ori (c : CoreId) (dst a : Reg) (imm : BitVec 16)
  | xori (c : CoreId) (dst a : Reg) (imm : BitVec 16)
  | shi (c : CoreId) (dst a : Reg) (kind : BitVec 2) (count : BitVec 6)
  | muli (c : CoreId) (dst a : Reg) (imm : BitVec 16)
  | cmpi (c : CoreId) (a : Reg) (imm : BitVec 16)
  | cmpui (c : CoreId) (a : Reg) (imm : BitVec 16)
  | ldi (c : CoreId) (dst : Reg) (imm : BitVec 16)
  | ldih (c : CoreId) (dst : Reg) (k : BitVec 2) (imm : BitVec 16)
  -- binary floating point (04)
  | fadd (c : CoreId) (dst a b : Reg) (m : FpMode)
  | fsub (c : CoreId) (dst a b : Reg) (m : FpMode)
  | fmul (c : CoreId) (dst a b : Reg) (m : FpMode)
  | fdiv (c : CoreId) (dst a b : Reg) (m : FpMode)
  | fsqrt (c : CoreId) (dst a : Reg) (m : FpMode)
  | fcmp (c : CoreId) (a b : Reg) (p : Bool)
  | fneg (c : CoreId) (dst a : Reg) (p : Bool)
  | fabs (c : CoreId) (dst a : Reg) (p : Bool)
  | fcvtS (c : CoreId) (dst a : Reg) (rms : BitVec 3)
  | fcvtD (c : CoreId) (dst a : Reg) (rms : BitVec 3)
  | fcvtX (c : CoreId) (dst a : Reg) (m : FpMode)
  | fcvtF (c : CoreId) (dst a : Reg) (m : FpMode)
  | fmadd (c : CoreId) (dst a b cc : Reg) (m : FpMode)
  | fmsub (c : CoreId) (dst a b cc : Reg) (m : FpMode)
  | fnmadd (c : CoreId) (dst a b cc : Reg) (m : FpMode)
  | fnmsub (c : CoreId) (dst a b cc : Reg) (m : FpMode)
  -- generic arithmetic and lists (03)
  | gadd (c : CoreId) (dst a b : Reg)
  | gsub (c : CoreId) (dst a b : Reg)
  | gmul (c : CoreId) (dst a b : Reg)
  | gdiv (c : CoreId) (dst a b : Reg)
  | gcmp (c : CoreId) (a b : Reg)
  | gneg (c : CoreId) (dst a : Reg)
  | head (c : CoreId) (dst a : Reg)
  | tail (c : CoreId) (dst a : Reg)
  | cons (c : CoreId) (dst a b : Reg)
  | seth (c : CoreId) (a b : Reg)
  | sett (c : CoreId) (a b : Reg)
  -- tags (02, R69, R70)
  | tagof (c : CoreId) (dst a : Reg)
  | tagset (c : CoreId) (dst a : Reg) (tag : Tag)
  -- memory (02, R51–R57)
  | ld (c : CoreId) (rt : Reg) (sz : BitVec 2) (m : MemOp)
  | lds (c : CoreId) (rt : Reg) (sz : BitVec 2) (m : MemOp)
  | st (c : CoreId) (rt : Reg) (sz : BitVec 2) (m : MemOp)
  | ldt (c : CoreId) (rt : Reg) (m : MemOp)
  | cas (c : CoreId) (dst a b : Reg)
  -- cache instructions (02 R71, 09 R246, R247)
  | dzl (c : CoreId) (m : MemOp)
  | cpre (c : CoreId) (m : MemOp)
  | cflush (c : CoreId) (m : MemOp)
  | cinvLine (c : CoreId) (m : MemOp)
  | cinvAll (c : CoreId)
  | wlock (c : CoreId) (icache : Bool) (mask : Byte)
  | wunlock (c : CoreId) (icache : Bool) (mask : Byte)
  -- repeat prefixes with the word that follows (02, R66–R68)
  | rep (c : CoreId) (follow : BitVec 32)
  | repn (c : CoreId) (follow : BitVec 32)
  -- branches (02 R65, 06 R159)
  | b (c : CoreId) (off : BitVec 26)
  | call (c : CoreId) (off : BitVec 26)
  | bc (c : CoreId) (mask : BitVec 4) (off : BitVec 22)
  | jmpr (c : CoreId) (a : Reg)
  | callr (c : CoreId) (a : Reg)
  | ret (c : CoreId)
  -- windows and contexts (06)
  | save (c : CoreId)
  | restore (c : CoreId)
  | ctxsw (c : CoreId) (a b : Reg)
  -- system (02 R73, 03 R93, 06 R172, 08 R227)
  | trap (c : CoreId) (n : BitVec 6)
  | rtt (c : CoreId)
  | rttTd (c : CoreId)
  | rttTs (c : CoreId)
  | rttTr (c : CoreId)
  | fbar (c : CoreId)
  | mbar (c : CoreId)
  | tlbi (c : CoreId) (a : Reg) (form : BitVec 4)
  | mfs (c : CoreId) (dst : Reg) (n : BitVec 12)
  | mts (c : CoreId) (a : Reg) (n : BitVec 12)
  | mfp (c : CoreId) (dst : Reg) (high : Bool)
  -- journal instructions (14)
  | jappend (c : CoreId) (a b : Reg)
  | jwait (c : CoreId) (a : Reg)
  | jstamp (c : CoreId) (dst : Reg)
  -- decimal and string engine (05)
  | dadd (c : CoreId) (x : XOp)
  | dsub (c : CoreId) (x : XOp)
  | dmul (c : CoreId) (x : XOp)
  | ddiv (c : CoreId) (x : XOp)
  | dcmp (c : CoreId) (x : XOp)
  | dshr (c : CoreId) (x : XOp)
  | dzad (c : CoreId) (x : XOp)
  | dcvb (c : CoreId) (x : XOp)
  | dcvd (c : CoreId) (x : XOp)
  | fmt (c : CoreId) (x : XOp)
  | fmtf (c : CoreId) (x : XOp)
  | mvst (c : CoreId) (x : XOp)
  | mvtr (c : CoreId) (x : XOp)
  | cmps (c : CoreId) (x : XOp)
  | srch (c : CoreId) (x : XOp)
  | customerExtensionFunction (c : CoreId) (dst a b : Reg) (fn : BitVec 11)
  -- MTS to registers with behaviour of their own
  | hdtbWrite (c : CoreId) (a : Reg)
  | spanRegisterWrite (c : CoreId) (span : Fin 16) (which : BitVec 2) (a : Reg)
  | s2rootWrite (c : CoreId) (a : Reg)
  | ttinfoWrite (c : CoreId) (a : Reg)
  | productRegisterWrite (c : CoreId) (high : Bool) (a : Reg)
  | cswWrite (c : CoreId) (a : Reg)
  | gcctlWrite (c : CoreId) (a : Reg)
  | ctxctlSpill (c : CoreId) (a : Reg)
  | ctxctlDiscard (c : CoreId) (a : Reg)
  | tlbctlFlush (c : CoreId) (a : Reg)
  | l2Disable (c : CoreId) (a : Reg)
  | l2Enable (c : CoreId) (a : Reg)
  | l2FlushAndDisable (c : CoreId) (a : Reg)
  | victimCacheDisable (c : CoreId) (a : Reg)
  | windowEndRequest (c : CoreId) (a : Reg)
  | debugSkip (c : CoreId) (a : Reg)
  -- DCS accesses at Supervisor privilege or above, by offset in the window (00, R9–R13)
  | dcsRegisterWrite (c : CoreId) (off : BitVec 28) (v : Word)
  | rcRegisterRead (c : CoreId) (dst : Reg) (off : BitVec 28)
  | level0Doorbell (c : CoreId) (p : PairId) (odd : Bool) (v : Word)
  | pairStart (c : CoreId) (p : PairId) (v : Word)
  | debugHalt (c : CoreId) (p : PairId) (v : Word)
  | debugStep (c : CoreId) (p : PairId) (v : Word)
  | debugHoldAtMismatch (c : CoreId) (p : PairId) (v : Word)
  | debugReplay (c : CoreId) (p : PairId) (v : Word)
  | debuggerWrite (c : CoreId) (p : PairId) (v : Word)
  | sealnow (c : CoreId) (v : Word)
  | iommuInvalidate (c : CoreId) (v : Word)
  | volleyPortRetrain (c : CoreId) (q : VPortId) (v : Word)
  | frequencyRequest (c : CoreId) (clu : CluId) (v : Word)
  | sendQueueTailWrite (c : CoreId) (v : Word)
  -- mailbox commands (17, Table 17-10)
  | getReadiness (m : MSrc)
  | declareOperational (m : MSrc)
  | getPaircfg (m : MSrc)
  | retirePair (m : MSrc)
  | microcodeStage (m : MSrc)
  | microcodeCommit (m : MSrc)
  | microcodeVerify (m : MSrc)
  | firmwareStage (m : MSrc)
  | firmwareSwap (m : MSrc)
  | integrityRegionSet (m : MSrc)
  | scrubRateSet (m : MSrc)
  | channelRetrain (m : MSrc)
  | remapQuery (m : MSrc)
  | errorLogRead (m : MSrc)
  | counterRuleSet (m : MSrc)
  | ageingReport (m : MSrc)
  | marginPlanGet (m : MSrc)
  | marginPlanApply (m : MSrc)
  | volleyConfig (m : MSrc)
  | domainStatus (m : MSrc)
  | journalConfig (m : MSrc)
  | debugAttach (m : MSrc)
  | enterDormant (m : MSrc)
  -- boundary events of a core (06)
  | interruptEntry (c : CoreId) (within : Option Within)
  | fdqDelivery (i : NextInsn)
  | spillBufferDrain (c : CoreId)
  | spillDrainFaultEntry (c : CoreId)
  | reserveRefillMove (c : CoreId)
  | machineCheckEntry (c : CoreId)
  | pfailEdge (d : DieId)
  -- coherence and the die bridge (09)
  | missFillArrival (c : CoreId) (line : MissLine) (how : FillEnd)
  | homeSliceRequest (c : CoreId) (pa : Pa) (kind : ReqKind) (arrayErr : Bool)
  | forwardedRequest (c : CoreId) (pa : Pa) (kind : FwdKind) (arrayErr : Bool)
  | l2FlushDisableDone (c : CoreId)
  | tlbiReceive (receiver : Option CoreId) (issuer : CoreId)
  | tlbiComplete (c : CoreId)
  | coherenceTimeout (c : CoreId) (pa : Pa) (viaHub : Bool)
  | dieBridgeCrcError (g : GroupId)
  | dieBridgeReplayDone (g : GroupId)
  | dieBridgeReplayTimeout (g : GroupId)
  | dieBridgeRetrainDone (g : GroupId) (ok : Bool)
  | detourExit
  | hubBridgeLost (d : DieId)
  | uncontainedError (die : Option DieId)
  -- checked pairs (11)
  | windowIdleTimeout (p : PairId)
  | umpireVerdict (p : PairId) (sig : Word) (n : BitVec 48) (u : BitVec 8) (trail : Trailing) (umpireBad thirdBad : Bool)
  | rallyBudgetExpiry (p : PairId)
  | casDeferralTimeout (p : PairId)
  | pairWatchdogExpiry (p : PairId)
  | pairRetiredTrap (c : CoreId)
  -- microcode (07)
  | microwordRepairDone (clu : CluId) (bank : Bool) (addr : BitVec 14) (c : CoreId) (ok : Bool)
  | commitClusterStepDone (step : CluStep) (ok : Bool)
  | microcodeLoadDone (boot alternate : SigOutcome) (bankOk : BitVec 24)
  | periodicVerifyDue
  -- memory channels and integrity (12, 13)
  | channelTrainingDone (ch : ChanId) (pass selftest : Bool)
  | channelTrainingTimeout (ch : ChanId)
  | zeroFillDone (ch : ChanId)
  | memoryRead (pa : Pa) (flips : List SymErr) (stuck : List SymErr)
  | memoryWrite (pa : Pa)
  | rowRemapCopyDone (ch : ChanId) (e : Fin 32)
  | agateConversionDone
  | caParityAlert (ch : ChanId) (wcrc : Bool)
  | commandRetryDone (ch : ChanId)
  | commandRetryBudgetExpiry (ch : ChanId)
  | llcMissTimeout (c : CoreId) (pa : Pa)
  | refreshDue (r : Refresh)
  | dimmThermalRead (ch : ChanId) (temp : Int)
  | dqsMicroRetrain (ch : ChanId) (rank : Fin 4)
  | zqCalibrationDue (r : RankOf)
  | sweeperInterval (ch : ChanId) (idle : Nat)
  -- journal (14)
  | epochEnd
  | appendNotice (c : CoreId)
  | ringDrain
  | journalCompletionWrite (rid : BitVec 16) (addr : Word) (data : Word)
  | journalTargetTimeout
  | jwaitWake (c : CoreId)
  | ppsInEdge
  -- time and epoch messages (14, 16)
  | openEpoch (e : EpochTo) (start : Word)
  | durable (route : Route) (n : BitVec 48)
  | closed (e : EpochTo)
  | heartbeat (route : Route) (d : BitVec 48) (cl : BitVec 48)
  | heartbeatDue
  | rejoin (route : Route) (prov : BitVec 48) (h : BitVec 48)
  | admission (e : EpochTo) (firstFree : BitVec 48) (start : Word)
  | sealEpoch (route : Route)
  | absenceTimeout (node : BitVec 5)
  | detachTimeout
  | syncPeriod
  | sync (t1 : Word)
  | dreq (q : VPortId)
  | dresp (t4 : Word)
  -- Volley (16)
  | ack (q : VPortId) (seqno : Nat)
  | flitCrcError (f : RxFlit)
  | nakReceived (q : VPortId)
  | hold (q : VPortId) (link : Nat)
  | holdRepeatDue (q : VPortId)
  | holdFreezeExpiry (link : Nat)
  | resume (q : VPortId) (link : Nat)
  | hello (q : VPortId) (node : BitVec 5) (port : BitVec 2) (manager : Bool)
  | volleyTrainingAttempt (q : VPortId)
  | volleyTrainingDone (q : VPortId) (pass : Bool)
  | volleyReplayDone (q : VPortId)
  | volleyReplayTimeout (q : VPortId)
  | volleyRetrainDone (q : VPortId)
  | volleyRetryBudgetExpiry (q : VPortId)
  | messageTimeout (msgid : Nat)
  | bulkDescriptorSend
  | bulkWrite (route : Route) (win : Nat) (off : Nat) (words : List TW) (msgid : Nat)
  | bulkAcknowledgement (msg : MsgId) (code : BitVec 8)
  | raise (route : Route) (irt : Nat) (count : Nat) (msgid : Nat)
  | acki (msg : MsgId)
  | mailboxRequest (route : Route) (cmd : Vector Word 8)
  | mailboxResponse (tag : TagTo) (node : BitVec 5) (result : Byte) (rsp : Vector Word 8)
  -- PCIe, IOMMU and interrupt routing (15)
  | inboundMemoryRead (port : PortId) (rid : BitVec 16) (addr : Word) (len : Nat)
  | inboundMemoryWrite (port : PortId) (rid : BitVec 16) (addr : Word) (bytes : List Byte) (ep : Bool)
  | msiWrite (port : PortId) (rid : BitVec 16) (addr : Word) (data : BitVec 32)
  | irtDelivery (i : Fin 2048)
  | outboundCompletion (c : CoreId) (status : CplStatus) (data : Word)
  | completionTimeout (c : CoreId)
  | pcieLinkUp (port : PortId) (rate : BitVec 3) (width : BitVec 5)
  | pcieLinkDown (port : PortId)
  | rootPortL0Timeout (port : PortId)
  | aerError (port : PortId) (status : AerReport) (journalWrite : Bool)
  -- reset, bring-up and Dormant (17, 18, 19)
  | resetNRise (straps : Straps) (record selfTest : Bool)
  | resetAssert (pwrgoodFell : Bool)
  | wakeNEdge
  | pwrgoodRiseInDormant
  | fisinFirmwareReady (sigs : TwoSigs) (cfgSig : Bool) (uart : List Byte) (dimms : Vector (Option Dimm) 12)
  | bootFirmwareRelease (primarySig alternateSig : Bool)
  | logicalmapWrite
  | fisinWatchdogExpiry
  | fisinSramError
  | errorLogFlush
  | swapHandoverReady
  | swapHandoverTimeout
  | dormantEntryComplete
  -- clocks, heat and ageing (18)
  | frequencyChangeDone (clu : CluId)
  | hotAssert (d : DieId) (temp : Byte)
  | hotRelease (d : DieId) (temp : Byte)
  | thermcapStep (d : DieId)
  | thermtrip (d : DieId)
  | ageingMonitorRead (slacks : Vector (BitVec 16) 64)
  | marginPlanCompute
  -- core and Fisin events
  | reservedOpcode (c : CoreId) (word : BitVec 32) (ext : BitVec 32)
  | unknownCommand (m : MSrc)
  | storeBufferDrain (d : DrainOf)
  | microcodeStageDone (sig : SigOutcome)
  | microcodeVerifyDone (ssig xsig : Bool) (mismatch : BitVec 24)
  | firmwareStageDone (ok : Bool)
  | rescueAreaWritten (p : PairId) (agree : Bool)
  | channelDrainDone (ch : ChanId)
  | hubUnitsReady
  | fabricBringUpDone (fabW fabE : Bool) (groupsOk : BitVec 4)
  | iommuInvalidationDone
  | vstbyApplied
  | vstbyRemoved
  | hubBridgeCrcError (d : DieId)
  | hubBridgeReplayDone (d : DieId)
  | hubBridgeReplayTimeout (d : DieId)
  | hubBridgeRetrainDone (d : DieId)
  | pfailRelease (d : DieId)
  deriving DecidableEq, Repr

end Sys2Proof
end

