-- ==== Sys2Proof/WellFormed.lean ====
section
/-! DEFINITION. Which instruction rows are reserved encodings by their own words (R47, R48); rows without an encoding are always well formed. -/

namespace Sys2Proof

/-- Whether field [11:0] has its unused bits zero for its addressing mode (Table 2-4). -/
def MemOp.fieldOk (m : MemOp) : Bool :=
  if m.am = 0#2 then true
  else if m.am = 1#2 then decide (m.field.toNat % 32 = 0)
  else decide (m.field.toNat % 1024 = 0)

/-- Auto-increment form (Table 2-4). -/
def MemOp.autoInc (m : MemOp) : Bool := decide (m.am = 3#2)

/-- A load whose index register is not also its destination in auto-increment form (R57). -/
def MemOp.loadOk (m : MemOp) (rt : Reg) : Bool := m.fieldOk && !(m.autoInc && decide (rt = m.rb))

/-- An RMS code that is not reserved (Table 4-2). -/
def rmsOk (r : BitVec 3) : Bool := decide (r.toNat ≤ 4)

/-- The memory operand in an instruction word of format M (Table 2-2). -/
def memOpOf (w : BitVec 32) : MemOp := { rb := w.extractLsb' 16 5, am := w.extractLsb' 14 2, field := w.extractLsb' 0 12 }

/-- Whether a word may follow a repeat prefix (R66). -/
def repeatable (w : BitVec 32) : Bool :=
  let op := w.extractLsb' 26 6
  let rt : Reg := w.extractLsb' 21 5
  let sz := w.extractLsb' 12 2
  let m := memOpOf w
  if op = 0x11#6 then m.autoInc && m.loadOk rt
  else if op = 0x12#6 then m.autoInc && m.loadOk rt && decide (sz ≠ 3#2)
  else if op = 0x13#6 then m.autoInc && m.fieldOk
  else if op = 0x14#6 then m.autoInc && m.loadOk rt && decide (sz = 3#2)
  else decide (op = 0x16#6) && decide (rt.toNat < 4) && decide (m.am = 0#2) && decide (sz = 3#2)

namespace XOp

/-- Extension word fields (Table 5-2). -/
def ld (x : XOp) : Nat := x.ext.toNat / 2 ^ 26 % 64
/-- Length of A. -/
def la (x : XOp) : Nat := x.ext.toNat / 2 ^ 20 % 64
/-- Length of B. -/
def lb (x : XOp) : Nat := x.ext.toNat / 2 ^ 14 % 64
/-- D is zoned. -/
def zd (x : XOp) : Bool := x.ext.getLsbD 13
/-- A is zoned. -/
def za (x : XOp) : Bool := x.ext.getLsbD 12
/-- B is zoned. -/
def zb (x : XOp) : Bool := x.ext.getLsbD 11
/-- Overflow raises cause 0x15. -/
def ovt (x : XOp) : Bool := x.ext.getLsbD 10
/-- SHIFT as its 7 bits. -/
def shiftBits (x : XOp) : Nat := x.ext.toNat / 8 % 128
/-- SHIFT, signed. -/
def shift (x : XOp) : Int := if x.shiftBits < 64 then (x.shiftBits : Int) else (x.shiftBits : Int) - 128
/-- RND. -/
def rnd (x : XOp) : Nat := x.ext.toNat / 2 % 4
/-- REM. -/
def rem (x : XOp) : Bool := x.ext.getLsbD 0
/-- Register fields of the string extension word (Table 5-6). -/
def rl1 (x : XOp) : Reg := x.ext.extractLsb' 27 5
/-- RL2. -/
def rl2 (x : XOp) : Reg := x.ext.extractLsb' 22 5
/-- BYTE. -/
def byte (x : XOp) : Byte := x.ext.extractLsb' 14 8
/-- NE. -/
def ne (x : XOp) : Bool := x.ext.getLsbD 13
/-- PLEN in bytes, 0 meaning 256 (Table 5-8). -/
def plen (x : XOp) : Nat := if x.ext.toNat / 2 ^ 24 = 0 then 256 else x.ext.toNat / 2 ^ 24
/-- MINUS. -/
def minus (x : XOp) : Byte := x.ext.extractLsb' 16 8
/-- PLUS. -/
def plus (x : XOp) : Byte := x.ext.extractLsb' 8 8
/-- FILL. -/
def fill (x : XOp) : Byte := x.ext.extractLsb' 0 8

/-- A used decimal operand's length (R124). -/
def usedOk (len : Nat) (z : Bool) : Bool := decide (1 ≤ len) && decide (len ≤ (if z then 63 else 32))

/-- An unused operand's register, length and Z bit (R124). -/
def unusedOk (r : Reg) (len : Nat) (z : Bool) : Bool := decide (r = 0#5) && decide (len = 0) && !z

/-- R124 for a decimal instruction: which operands it uses, and which of SHIFT, RND, REM and OVT it may set. -/
def decimalOk (x : XOp) (useD useA useB isShr isDiv isCmp : Bool) : Bool :=
  (if useD then usedOk x.ld x.zd else unusedOk x.rd x.ld x.zd) &&
  (if useA then usedOk x.la x.za else unusedOk x.ra x.la x.za) &&
  (if useB then usedOk x.lb x.zb else unusedOk x.rc x.lb x.zb) &&
  (if isShr then decide (x.rnd ≠ 3) && (decide (x.shift < 0) || decide (x.rnd = 0)) else decide (x.shiftBits = 0) && decide (x.rnd = 0)) &&
  (isDiv || !x.rem) && !(isCmp && x.ovt)

/-- R133 for a string instruction: whether it uses rc, RL2, BYTE and NE. -/
def stringOk (x : XOp) (useRc useRl2 useByte useNe : Bool) : Bool :=
  (useRc || decide (x.rc = 0#5)) && (useRl2 || decide (x.rl2 = 0#5)) && (useByte || decide (x.byte = 0#8)) && (useNe || !x.ne) &&
  decide (x.ext.toNat % 2 ^ 13 = 0)

end XOp

/-- Whether an instruction row's words are an encoding of Table 2-3 with every unused field zero. SAVE and the like at FAULTDEPTH 2, and the
3E functions, are judged when they execute. -/
def Instr.wellFormed : Instr → Bool
  | .shi _ _ _ kind _ => decide (kind ≠ 3#2)
  | .fadd _ _ _ _ m => rmsOk m.rms
  | .fsub _ _ _ _ m => rmsOk m.rms
  | .fmul _ _ _ _ m => rmsOk m.rms
  | .fdiv _ _ _ _ m => rmsOk m.rms
  | .fsqrt _ _ _ m => rmsOk m.rms
  | .fcvtS _ _ _ r => rmsOk r
  | .fcvtD _ _ _ r => rmsOk r
  | .fcvtX _ _ _ m => rmsOk m.rms
  | .fcvtF _ _ _ m => rmsOk m.rms
  | .fmadd _ _ _ _ _ m => rmsOk m.rms
  | .fmsub _ _ _ _ _ m => rmsOk m.rms
  | .fnmadd _ _ _ _ _ m => rmsOk m.rms
  | .fnmsub _ _ _ _ _ m => rmsOk m.rms
  | .ld _ rt _ m => m.loadOk rt
  | .lds _ rt sz m => m.loadOk rt && decide (sz ≠ 3#2)
  | .st _ _ _ m => m.fieldOk
  | .ldt _ rt m => m.loadOk rt
  | .dzl _ m => m.fieldOk
  | .cpre _ m => m.fieldOk
  | .cflush _ m => m.fieldOk
  | .cinvLine _ m => m.fieldOk
  | .rep _ follow => repeatable follow
  | .repn _ follow => repeatable follow
  | .tlbi _ _ form => decide (form.toNat ≤ 5)
  | .mfs _ _ n => (Machine.sysPriv n.toNat).isSome
  | .mts _ _ n => (Machine.sysPriv n.toNat).isSome
  | .dadd _ x => x.decimalOk true true true false false false
  | .dsub _ x => x.decimalOk true true true false false false
  | .dmul _ x => x.decimalOk true true true false false false
  | .ddiv _ x => x.decimalOk true true true false true false
  | .dcmp _ x => x.decimalOk false true true false false true
  | .dshr _ x => x.decimalOk true true false true false false
  | .dzad _ x => x.decimalOk true true false false false false
  | .dcvb _ x => x.decimalOk false true false false false false
  | .dcvd _ x => x.decimalOk true false false false false false
  | .mvst _ x => x.stringOk false false false false
  | .mvtr _ x => x.stringOk false true false false
  | .cmps _ x => x.stringOk true true true false
  | .srch _ x => x.stringOk false false true true
  | .reservedOpcode .. => false
  | _ => true

end Sys2Proof
end

