-- ==== Sys2Proof/Decode.lean ====
section
/-! DEFINITION. Words and commands. No row of spec/opcode_table.json gives bits, so no word spells a command by the table. The processor
instructions among the rows have the words of Table 2-3, which this file writes and reads. -/

namespace Sys2Proof

/-- The command that a word spells by the bits of the opcode table: no row gives bits. -/
def decodeTableWord (_nbits _w : Nat) : Option Instr := none

/-! ### Formats (Table 2-2) -/

/-- Format A. -/
def fmtA (op : BitVec 6) (d a b : Reg) (fn : BitVec 11) : BitVec 32 := op ++ d ++ a ++ b ++ fn
/-- Format Q. -/
def fmtQ (op : BitVec 6) (d a b cc : Reg) (fn : BitVec 6) : BitVec 32 := op ++ d ++ a ++ b ++ cc ++ fn
/-- Format I. -/
def fmtI (op : BitVec 6) (d a : Reg) (imm : BitVec 16) : BitVec 32 := op ++ d ++ a ++ imm
/-- Format M. -/
def fmtM (op : BitVec 6) (rt : Reg) (sz : BitVec 2) (m : MemOp) : BitVec 32 := op ++ rt ++ m.rb ++ m.am ++ sz ++ m.field
/-- Format S. -/
def fmtS (d a : Reg) (arg : BitVec 12) (fn : BitVec 4) : BitVec 32 := 0x1D#6 ++ d ++ a ++ arg ++ fn
/-- fn of major opcode 0x0C (Table 4-2). -/
def fpFn (m : FpMode) (op : BitVec 6) : BitVec 11 := 0#1 ++ m.rms ++ BitVec.ofBool m.p ++ op
/-- fn of major opcode 0x0D (Table 4-3). -/
def fmaFn (m : FpMode) (form : BitVec 2) : BitVec 6 := m.rms ++ form ++ BitVec.ofBool m.p
/-- A decimal or string instruction's words. -/
def fmtX (op : BitVec 6) (x : XOp) (fn : BitVec 11) : BitVec 32 × BitVec 32 := (fmtA op x.rd x.ra x.rc fn, x.ext)

/-- The REP prefix word. -/
def repWord : BitVec 32 := 0x5C000000#32
/-- The REPN prefix word. -/
def repnWord : BitVec 32 := 0x5C200000#32

/-- The memory operand with no address (CINV.ALL, WLOCK, WUNLOCK). -/
def noAddr (field : BitVec 12) : MemOp := { rb := 0#5, am := 0#2, field := field }
/-- The field of WLOCK and WUNLOCK (R71). -/
def lockField (icache : Bool) (mask : Byte) : BitVec 12 := BitVec.ofBool icache ++ 0#3 ++ mask
/-- The MTS word for system register `n`. -/
def mtsWord (a : Reg) (n : BitVec 12) : BitVec 32 := fmtS 0#5 a n 6#4

/-- The words of an instruction row (Table 2-3): the instruction word, and the extension word or the word a prefix repeats (0 when there is
none). A row that is no instruction, or that stands for several, has none. -/
def encodeInsn : Instr → Option (BitVec 32 × BitVec 32)
  | .add _ d a b => some (fmtA 0x01#6 d a b 0x00#11, 0#32)
  | .sub _ d a b => some (fmtA 0x01#6 d a b 0x01#11, 0#32)
  | .and _ d a b => some (fmtA 0x01#6 d a b 0x02#11, 0#32)
  | .or _ d a b => some (fmtA 0x01#6 d a b 0x03#11, 0#32)
  | .xor _ d a b => some (fmtA 0x01#6 d a b 0x04#11, 0#32)
  | .shl _ d a b => some (fmtA 0x01#6 d a b 0x05#11, 0#32)
  | .shr _ d a b => some (fmtA 0x01#6 d a b 0x06#11, 0#32)
  | .sar _ d a b => some (fmtA 0x01#6 d a b 0x07#11, 0#32)
  | .mul _ d a b => some (fmtA 0x01#6 d a b 0x08#11, 0#32)
  | .mulw _ a b => some (fmtA 0x01#6 0#5 a b 0x09#11, 0#32)
  | .mulwu _ a b => some (fmtA 0x01#6 0#5 a b 0x0A#11, 0#32)
  | .div _ d a b => some (fmtA 0x01#6 d a b 0x0B#11, 0#32)
  | .divu _ d a b => some (fmtA 0x01#6 d a b 0x0C#11, 0#32)
  | .rem _ d a b => some (fmtA 0x01#6 d a b 0x0D#11, 0#32)
  | .remu _ d a b => some (fmtA 0x01#6 d a b 0x0E#11, 0#32)
  | .cmp _ a b => some (fmtA 0x01#6 0#5 a b 0x10#11, 0#32)
  | .cmpu _ a b => some (fmtA 0x01#6 0#5 a b 0x11#11, 0#32)
  | .cmpw _ a b => some (fmtA 0x01#6 0#5 a b 0x12#11, 0#32)
  | .mov _ d a => some (fmtA 0x01#6 d a 0#5 0x13#11, 0#32)
  | .addi _ d a i => some (fmtI 0x02#6 d a i, 0#32)
  | .andi _ d a i => some (fmtI 0x03#6 d a i, 0#32)
  | .ori _ d a i => some (fmtI 0x04#6 d a i, 0#32)
  | .xori _ d a i => some (fmtI 0x05#6 d a i, 0#32)
  | .shi _ d a k n => some (fmtI 0x06#6 d a (0#8 ++ k ++ n), 0#32)
  | .muli _ d a i => some (fmtI 0x07#6 d a i, 0#32)
  | .cmpi _ a i => some (fmtI 0x08#6 0#5 a i, 0#32)
  | .cmpui _ a i => some (fmtI 0x09#6 0#5 a i, 0#32)
  | .ldi _ d i => some (fmtI 0x0A#6 d 0#5 i, 0#32)
  | .ldih _ d k i => some (fmtI 0x0B#6 d (0#3 ++ k) i, 0#32)
  | .fadd _ d a b m => some (fmtA 0x0C#6 d a b (fpFn m 0x00#6), 0#32)
  | .fsub _ d a b m => some (fmtA 0x0C#6 d a b (fpFn m 0x01#6), 0#32)
  | .fmul _ d a b m => some (fmtA 0x0C#6 d a b (fpFn m 0x02#6), 0#32)
  | .fdiv _ d a b m => some (fmtA 0x0C#6 d a b (fpFn m 0x03#6), 0#32)
  | .fsqrt _ d a m => some (fmtA 0x0C#6 d a 0#5 (fpFn m 0x04#6), 0#32)
  | .fcmp _ a b p => some (fmtA 0x0C#6 0#5 a b (fpFn { rms := 0#3, p := p } 0x05#6), 0#32)
  | .fneg _ d a p => some (fmtA 0x0C#6 d a 0#5 (fpFn { rms := 0#3, p := p } 0x06#6), 0#32)
  | .fabs _ d a p => some (fmtA 0x0C#6 d a 0#5 (fpFn { rms := 0#3, p := p } 0x07#6), 0#32)
  | .fcvtS _ d a r => some (fmtA 0x0C#6 d a 0#5 (fpFn { rms := r, p := false } 0x08#6), 0#32)
  | .fcvtD _ d a r => some (fmtA 0x0C#6 d a 0#5 (fpFn { rms := r, p := true } 0x09#6), 0#32)
  | .fcvtX _ d a m => some (fmtA 0x0C#6 d a 0#5 (fpFn m 0x0A#6), 0#32)
  | .fcvtF _ d a m => some (fmtA 0x0C#6 d a 0#5 (fpFn m 0x0B#6), 0#32)
  | .fmadd _ d a b cc m => some (fmtQ 0x0D#6 d a b cc (fmaFn m 0#2), 0#32)
  | .fmsub _ d a b cc m => some (fmtQ 0x0D#6 d a b cc (fmaFn m 1#2), 0#32)
  | .fnmadd _ d a b cc m => some (fmtQ 0x0D#6 d a b cc (fmaFn m 2#2), 0#32)
  | .fnmsub _ d a b cc m => some (fmtQ 0x0D#6 d a b cc (fmaFn m 3#2), 0#32)
  | .gadd _ d a b => some (fmtA 0x0E#6 d a b 0#11, 0#32)
  | .gsub _ d a b => some (fmtA 0x0E#6 d a b 1#11, 0#32)
  | .gmul _ d a b => some (fmtA 0x0E#6 d a b 2#11, 0#32)
  | .gdiv _ d a b => some (fmtA 0x0E#6 d a b 3#11, 0#32)
  | .gcmp _ a b => some (fmtA 0x0E#6 0#5 a b 4#11, 0#32)
  | .gneg _ d a => some (fmtA 0x0E#6 d a 0#5 5#11, 0#32)
  | .head _ d a => some (fmtA 0x0F#6 d a 0#5 0#11, 0#32)
  | .tail _ d a => some (fmtA 0x0F#6 d a 0#5 1#11, 0#32)
  | .cons _ d a b => some (fmtA 0x0F#6 d a b 2#11, 0#32)
  | .seth _ a b => some (fmtA 0x0F#6 0#5 a b 3#11, 0#32)
  | .sett _ a b => some (fmtA 0x0F#6 0#5 a b 4#11, 0#32)
  | .tagof _ d a => some (fmtI 0x10#6 d a 0#16, 0#32)
  | .tagset _ d a t => some (fmtI 0x10#6 d a (t ++ 1#8), 0#32)
  | .ld _ rt sz m => some (fmtM 0x11#6 rt sz m, 0#32)
  | .lds _ rt sz m => some (fmtM 0x12#6 rt sz m, 0#32)
  | .st _ rt sz m => some (fmtM 0x13#6 rt sz m, 0#32)
  | .ldt _ rt m => some (fmtM 0x14#6 rt 3#2 m, 0#32)
  | .cas _ d a b => some (fmtA 0x15#6 d a b 0#11, 0#32)
  | .dzl _ m => some (fmtM 0x16#6 0#5 3#2 m, 0#32)
  | .cpre _ m => some (fmtM 0x16#6 1#5 3#2 m, 0#32)
  | .cflush _ m => some (fmtM 0x16#6 2#5 3#2 m, 0#32)
  | .cinvLine _ m => some (fmtM 0x16#6 3#5 3#2 m, 0#32)
  | .cinvAll _ => some (fmtM 0x16#6 4#5 3#2 (noAddr 0#12), 0#32)
  | .wlock _ ic mask => some (fmtM 0x16#6 5#5 3#2 (noAddr (lockField ic mask)), 0#32)
  | .wunlock _ ic mask => some (fmtM 0x16#6 6#5 3#2 (noAddr (lockField ic mask)), 0#32)
  | .rep _ w => some (repWord, w)
  | .repn _ w => some (repnWord, w)
  | .b _ o => some (0x18#6 ++ o, 0#32)
  | .call _ o => some (0x19#6 ++ o, 0#32)
  | .bc _ m o => some (0x1A#6 ++ m ++ o, 0#32)
  | .jmpr _ a => some (fmtA 0x1B#6 0#5 a 0#5 0#11, 0#32)
  | .callr _ a => some (fmtA 0x1B#6 0#5 a 0#5 1#11, 0#32)
  | .ret _ => some (fmtA 0x1B#6 0#5 0#5 0#5 2#11, 0#32)
  | .save _ => some (fmtA 0x1C#6 0#5 0#5 0#5 0#11, 0#32)
  | .restore _ => some (fmtA 0x1C#6 0#5 0#5 0#5 1#11, 0#32)
  | .ctxsw _ a b => some (fmtA 0x1C#6 0#5 a b 2#11, 0#32)
  | .trap _ n => some (fmtS 0#5 0#5 (0#6 ++ n) 0#4, 0#32)
  | .rtt _ => some (fmtS 0#5 0#5 0#12 1#4, 0#32)
  | .rttTd _ => some (fmtS 0#5 0#5 1#12 1#4, 0#32)
  | .rttTs _ => some (fmtS 0#5 0#5 2#12 1#4, 0#32)
  | .rttTr _ => some (fmtS 0#5 0#5 3#12 1#4, 0#32)
  | .fbar _ => some (fmtS 0#5 0#5 0#12 2#4, 0#32)
  | .mbar _ => some (fmtS 0#5 0#5 0#12 3#4, 0#32)
  | .tlbi _ a form => some (fmtS 0#5 a (0#8 ++ form) 4#4, 0#32)
  | .mfs _ d n => some (fmtS d 0#5 n 5#4, 0#32)
  | .mts _ a n => some (mtsWord a n, 0#32)
  | .mfp _ d high => some (fmtS d 0#5 (0#11 ++ BitVec.ofBool high) 7#4, 0#32)
  | .jappend _ a b => some (fmtA 0x1E#6 0#5 a b 0#11, 0#32)
  | .jwait _ a => some (fmtA 0x1E#6 0#5 a 0#5 1#11, 0#32)
  | .jstamp _ d => some (fmtA 0x1E#6 d 0#5 0#5 2#11, 0#32)
  | .dadd _ x => some (fmtX 0x20#6 x 0#11)
  | .dsub _ x => some (fmtX 0x20#6 x 1#11)
  | .dmul _ x => some (fmtX 0x20#6 x 2#11)
  | .ddiv _ x => some (fmtX 0x20#6 x 3#11)
  | .dcmp _ x => some (fmtX 0x20#6 x 4#11)
  | .dshr _ x => some (fmtX 0x20#6 x 5#11)
  | .dzad _ x => some (fmtX 0x20#6 x 6#11)
  | .dcvb _ x => some (fmtX 0x21#6 x 0#11)
  | .dcvd _ x => some (fmtX 0x21#6 x 1#11)
  | .fmt _ x => some (fmtX 0x22#6 x 0#11)
  | .fmtf _ x => some (fmtX 0x22#6 x 1#11)
  | .mvst _ x => some (fmtX 0x23#6 x 0#11)
  | .mvtr _ x => some (fmtX 0x23#6 x 1#11)
  | .cmps _ x => some (fmtX 0x23#6 x 2#11)
  | .srch _ x => some (fmtX 0x23#6 x 3#11)
  | .customerExtensionFunction _ d a b fn => some (fmtA 0x3E#6 d a b fn, 0#32)
  | .hdtbWrite _ a => some (mtsWord a 0x001#12, 0#32)
  | .spanRegisterWrite _ i k a => some (mtsWord a (0x100#12 + BitVec.ofNat 12 (4 * i.val + k.toNat)), 0#32)
  | .s2rootWrite _ a => some (mtsWord a 0x140#12, 0#32)
  | .ttinfoWrite _ a => some (mtsWord a 0x01A#12, 0#32)
  | .productRegisterWrite _ high a => some (mtsWord a (if high then 0x211#12 else 0x210#12), 0#32)
  | .cswWrite _ a => some (mtsWord a 0x000#12, 0#32)
  | .gcctlWrite _ a => some (mtsWord a 0x404#12, 0#32)
  | .ctxctlSpill _ a => some (mtsWord a 0x305#12, 0#32)
  | .ctxctlDiscard _ a => some (mtsWord a 0x305#12, 0#32)
  | .tlbctlFlush _ a => some (mtsWord a 0x143#12, 0#32)
  | .l2Disable _ a => some (mtsWord a 0x500#12, 0#32)
  | .l2Enable _ a => some (mtsWord a 0x500#12, 0#32)
  | .l2FlushAndDisable _ a => some (mtsWord a 0x500#12, 0#32)
  | .victimCacheDisable _ a => some (mtsWord a 0x500#12, 0#32)
  | .windowEndRequest _ a => some (mtsWord a 0x600#12, 0#32)
  | .debugSkip _ a => some (mtsWord a 0x710#12, 0#32)
  | _ => none

/-! ### Reading the words -/

/-- The fields of an instruction word. -/
structure Fields where
  op : Nat
  d : Reg
  a : Reg
  b : Reg
  fn : Nat
  imm : BitVec 16
  deriving DecidableEq, Repr

/-- The fields of a word (Table 2-2). -/
def fieldsOf (w : BitVec 32) : Fields :=
  { op := (w.extractLsb' 26 6).toNat, d := w.extractLsb' 21 5, a := w.extractLsb' 16 5, b := w.extractLsb' 11 5
    fn := (w.extractLsb' 0 11).toNat, imm := w.extractLsb' 0 16 }

/-- The rounding and format of a word of major opcode 0x0C. -/
def fpModeOf (w : BitVec 32) : FpMode := { rms := w.extractLsb' 7 3, p := w.getLsbD 6 }
/-- The rounding and format of a word of major opcode 0x0D. -/
def fmaModeOf (w : BitVec 32) : FpMode := { rms := w.extractLsb' 3 3, p := w.getLsbD 0 }

/-- Raw arithmetic (major opcode 0x01). -/
def decodeAlu (c : CoreId) (f : Fields) : Option Instr :=
  match f.fn with
  | 0x00 => some (.add c f.d f.a f.b) | 0x01 => some (.sub c f.d f.a f.b) | 0x02 => some (.and c f.d f.a f.b)
  | 0x03 => some (.or c f.d f.a f.b) | 0x04 => some (.xor c f.d f.a f.b) | 0x05 => some (.shl c f.d f.a f.b)
  | 0x06 => some (.shr c f.d f.a f.b) | 0x07 => some (.sar c f.d f.a f.b) | 0x08 => some (.mul c f.d f.a f.b)
  | 0x09 => if f.d = 0#5 then some (.mulw c f.a f.b) else none
  | 0x0A => if f.d = 0#5 then some (.mulwu c f.a f.b) else none
  | 0x0B => some (.div c f.d f.a f.b) | 0x0C => some (.divu c f.d f.a f.b) | 0x0D => some (.rem c f.d f.a f.b)
  | 0x0E => some (.remu c f.d f.a f.b)
  | 0x10 => if f.d = 0#5 then some (.cmp c f.a f.b) else none
  | 0x11 => if f.d = 0#5 then some (.cmpu c f.a f.b) else none
  | 0x12 => if f.d = 0#5 then some (.cmpw c f.a f.b) else none
  | 0x13 => if f.b = 0#5 then some (.mov c f.d f.a) else none
  | _ => none

/-- Binary floating point (major opcode 0x0C, R102). -/
def decodeFp (c : CoreId) (w : BitVec 32) (f : Fields) : Option Instr :=
  let m := fpModeOf w
  if w.getLsbD 10 then none
  else match f.fn % 64 with
  | 0x00 => some (.fadd c f.d f.a f.b m) | 0x01 => some (.fsub c f.d f.a f.b m) | 0x02 => some (.fmul c f.d f.a f.b m)
  | 0x03 => some (.fdiv c f.d f.a f.b m)
  | 0x04 => if f.b = 0#5 then some (.fsqrt c f.d f.a m) else none
  | 0x05 => if f.d = 0#5 ∧ m.rms = 0#3 then some (.fcmp c f.a f.b m.p) else none
  | 0x06 => if f.b = 0#5 ∧ m.rms = 0#3 then some (.fneg c f.d f.a m.p) else none
  | 0x07 => if f.b = 0#5 ∧ m.rms = 0#3 then some (.fabs c f.d f.a m.p) else none
  | 0x08 => if f.b = 0#5 ∧ m.p = false then some (.fcvtS c f.d f.a m.rms) else none
  | 0x09 => if f.b = 0#5 ∧ m.p = true then some (.fcvtD c f.d f.a m.rms) else none
  | 0x0A => if f.b = 0#5 then some (.fcvtX c f.d f.a m) else none
  | 0x0B => if f.b = 0#5 then some (.fcvtF c f.d f.a m) else none
  | _ => none

/-- Fused multiply-add (major opcode 0x0D). -/
def decodeFma (c : CoreId) (w : BitVec 32) (f : Fields) : Option Instr :=
  let m := fmaModeOf w
  let cc : Reg := w.extractLsb' 6 5
  match f.fn / 2 % 4 with
  | 0 => some (.fmadd c f.d f.a f.b cc m) | 1 => some (.fmsub c f.d f.a f.b cc m)
  | 2 => some (.fnmadd c f.d f.a f.b cc m) | _ => some (.fnmsub c f.d f.a f.b cc m)

/-- Generic arithmetic (major opcode 0x0E). -/
def decodeGeneric (c : CoreId) (f : Fields) : Option Instr :=
  match f.fn with
  | 0 => some (.gadd c f.d f.a f.b) | 1 => some (.gsub c f.d f.a f.b) | 2 => some (.gmul c f.d f.a f.b)
  | 3 => some (.gdiv c f.d f.a f.b)
  | 4 => if f.d = 0#5 then some (.gcmp c f.a f.b) else none
  | 5 => if f.b = 0#5 then some (.gneg c f.d f.a) else none
  | _ => none

/-- Lists (major opcode 0x0F). -/
def decodeList (c : CoreId) (f : Fields) : Option Instr :=
  match f.fn with
  | 0 => if f.b = 0#5 then some (.head c f.d f.a) else none
  | 1 => if f.b = 0#5 then some (.tail c f.d f.a) else none
  | 2 => some (.cons c f.d f.a f.b)
  | 3 => if f.d = 0#5 then some (.seth c f.a f.b) else none
  | 4 => if f.d = 0#5 then some (.sett c f.a f.b) else none
  | _ => none

/-- Tags (major opcode 0x10). -/
def decodeTag (c : CoreId) (f : Fields) : Option Instr :=
  if f.imm = 0#16 then some (.tagof c f.d f.a)
  else if f.imm.extractLsb' 0 8 = 1#8 then some (.tagset c f.d f.a (f.imm.extractLsb' 8 8))
  else none

/-- Cache instructions (major opcode 0x16, R71). -/
def decodeCache (c : CoreId) (w : BitVec 32) : Option Instr :=
  let m := memOpOf w
  let lockOk := decide (m.rb = 0#5) && decide (m.am = 0#2) && decide (m.field.extractLsb' 8 3 = 0#3)
  if w.extractLsb' 12 2 ≠ 3#2 then none
  else match (w.extractLsb' 21 5).toNat with
  | 0 => some (.dzl c m) | 1 => some (.cpre c m) | 2 => some (.cflush c m) | 3 => some (.cinvLine c m)
  | 4 => if m = noAddr 0#12 then some (.cinvAll c) else none
  | 5 => if lockOk then some (.wlock c (w.getLsbD 11) (w.extractLsb' 0 8)) else none
  | 6 => if lockOk then some (.wunlock c (w.getLsbD 11) (w.extractLsb' 0 8)) else none
  | _ => none

/-- Jumps, windows and the journal (major opcodes 0x1B, 0x1C, 0x1E). -/
def decodeFlow (c : CoreId) (f : Fields) : Option Instr :=
  match f.op, f.fn with
  | 0x1B, 0 => if f.d = 0#5 ∧ f.b = 0#5 then some (.jmpr c f.a) else none
  | 0x1B, 1 => if f.d = 0#5 ∧ f.b = 0#5 then some (.callr c f.a) else none
  | 0x1B, 2 => if f.d = 0#5 ∧ f.a = 0#5 ∧ f.b = 0#5 then some (.ret c) else none
  | 0x1C, 0 => if f.d = 0#5 ∧ f.a = 0#5 ∧ f.b = 0#5 then some (.save c) else none
  | 0x1C, 1 => if f.d = 0#5 ∧ f.a = 0#5 ∧ f.b = 0#5 then some (.restore c) else none
  | 0x1C, 2 => if f.d = 0#5 then some (.ctxsw c f.a f.b) else none
  | 0x1E, 0 => if f.d = 0#5 then some (.jappend c f.a f.b) else none
  | 0x1E, 1 => if f.d = 0#5 ∧ f.b = 0#5 then some (.jwait c f.a) else none
  | 0x1E, 2 => if f.a = 0#5 ∧ f.b = 0#5 then some (.jstamp c f.d) else none
  | _, _ => none

/-- System instructions (major opcode 0x1D). -/
def decodeSystem (c : CoreId) (w : BitVec 32) (f : Fields) : Option Instr :=
  let arg : BitVec 12 := w.extractLsb' 4 12
  let none2 := decide (f.d = 0#5) && decide (f.a = 0#5)
  match f.imm.toNat % 16 with
  | 0 => if none2 ∧ arg.toNat < 64 then some (.trap c (arg.setWidth 6)) else none
  | 1 => if none2 then (match arg.toNat with
      | 0 => some (.rtt c) | 1 => some (.rttTd c) | 2 => some (.rttTs c) | 3 => some (.rttTr c) | _ => none) else none
  | 2 => if none2 ∧ arg = 0#12 then some (.fbar c) else none
  | 3 => if none2 ∧ arg = 0#12 then some (.mbar c) else none
  | 4 => if f.d = 0#5 ∧ arg.toNat < 16 then some (.tlbi c f.a (arg.setWidth 4)) else none
  | 5 => if f.a = 0#5 then some (.mfs c f.d arg) else none
  | 6 => if f.d = 0#5 then some (.mts c f.a arg) else none
  | 7 => if f.a = 0#5 ∧ arg.toNat < 2 then some (.mfp c f.d (arg.getLsbD 0)) else none
  | _ => none

/-- Decimal and string instructions (major opcodes 0x20–0x23). -/
def decodeDse (c : CoreId) (f : Fields) (ext : BitVec 32) : Option Instr :=
  let x : XOp := { rd := f.d, ra := f.a, rc := f.b, ext := ext }
  match f.op, f.fn with
  | 0x20, 0 => some (.dadd c x) | 0x20, 1 => some (.dsub c x) | 0x20, 2 => some (.dmul c x) | 0x20, 3 => some (.ddiv c x)
  | 0x20, 4 => some (.dcmp c x) | 0x20, 5 => some (.dshr c x) | 0x20, 6 => some (.dzad c x)
  | 0x21, 0 => some (.dcvb c x) | 0x21, 1 => some (.dcvd c x)
  | 0x22, 0 => some (.fmt c x) | 0x22, 1 => some (.fmtf c x)
  | 0x23, 0 => some (.mvst c x) | 0x23, 1 => some (.mvtr c x) | 0x23, 2 => some (.cmps c x) | 0x23, 3 => some (.srch c x)
  | _, _ => none

/-- The instruction row of core `c` that two words spell, before the checks of wellFormed. -/
def decodeRaw (c : CoreId) (w ext : BitVec 32) : Option Instr :=
  let f := fieldsOf w
  match f.op with
  | 0x01 => decodeAlu c f
  | 0x02 => some (.addi c f.d f.a f.imm) | 0x03 => some (.andi c f.d f.a f.imm) | 0x04 => some (.ori c f.d f.a f.imm)
  | 0x05 => some (.xori c f.d f.a f.imm)
  | 0x06 => if f.imm.extractLsb' 8 8 = 0#8 then some (.shi c f.d f.a (f.imm.extractLsb' 6 2) (f.imm.extractLsb' 0 6)) else none
  | 0x07 => some (.muli c f.d f.a f.imm)
  | 0x08 => if f.d = 0#5 then some (.cmpi c f.a f.imm) else none
  | 0x09 => if f.d = 0#5 then some (.cmpui c f.a f.imm) else none
  | 0x0A => if f.a = 0#5 then some (.ldi c f.d f.imm) else none
  | 0x0B => if f.a.toNat < 4 then some (.ldih c f.d (f.a.setWidth 2) f.imm) else none
  | 0x0C => decodeFp c w f
  | 0x0D => decodeFma c w f
  | 0x0E => decodeGeneric c f
  | 0x0F => decodeList c f
  | 0x10 => decodeTag c f
  | 0x11 => some (.ld c f.d (w.extractLsb' 12 2) (memOpOf w))
  | 0x12 => some (.lds c f.d (w.extractLsb' 12 2) (memOpOf w))
  | 0x13 => some (.st c f.d (w.extractLsb' 12 2) (memOpOf w))
  | 0x14 => if w.extractLsb' 12 2 = 3#2 then some (.ldt c f.d (memOpOf w)) else none
  | 0x15 => if f.fn = 0 then some (.cas c f.d f.a f.b) else none
  | 0x16 => decodeCache c w
  | 0x17 => if w = repWord then some (.rep c ext) else if w = repnWord then some (.repn c ext) else none
  | 0x18 => some (.b c (w.extractLsb' 0 26))
  | 0x19 => some (.call c (w.extractLsb' 0 26))
  | 0x1A => some (.bc c (w.extractLsb' 22 4) (w.extractLsb' 0 22))
  | 0x1D => decodeSystem c w f
  | 0x3E => some (.customerExtensionFunction c f.d f.a f.b (w.extractLsb' 0 11))
  | op => if 0x20 ≤ op ∧ op ≤ 0x23 then decodeDse c f ext else decodeFlow c f

/-- The instruction row of core `c` that two words spell: none for a reserved encoding (R48). -/
def decodeInsn (c : CoreId) (w ext : BitVec 32) : Option Instr :=
  match decodeRaw c w ext with
  | some i => if i.wellFormed then some i else none
  | none => none

end Sys2Proof
end

