-- ==== Sys2Proof/Config.lean ====
section
/-! DEFINITION. What the spec leaves open: free values, which nothing in Lean can evaluate. Each is drawn by its position in the count `State.free`. -/

namespace Sys2Proof.Config

/-- Free 64-bit values: results and contents the spec leaves undefined (R186, R295, R443; u.dse of Table 7-3). -/
opaque freeWord : Nat → BitVec 64

/-- Free choices among replaceable entries (random replacement, R217, R368; the entry of a full directory set, R242; points within an instruction, R203). -/
opaque freeChoice : Nat → Nat

/-- Free counts: CCLK cycles and mispredicted branches of the performance counters (Table 11-16, 0x01 and 0x03). -/
opaque freeCount : Nat → Nat

/-- Supply voltages in millivolts that the fused V(f) tables give a cluster at a frequency code (R418). -/
opaque fusedMv : Nat → Nat → Nat

/-- The LLC set of a line within its slice: R233 gives the number of sets and no index function. -/
opaque llcSet : Nat → Nat

/-- The slack in ps that a monitor would show at 3.0 GHz or below: of the monitor, its measured slack, the guardband in force,
the guardband tried and the frequency tried (R425 compares these slacks and gives no law for them). -/
opaque slackAt : Nat → Nat → Nat → Nat → Nat → Nat

/-- Days to a margin floor of a cluster, fabric or PHY from its monitors' fits (R425: the law is not stated). -/
opaque floorDays : Nat → Nat → Nat → Nat

/-- DRIFT fitted to readings of slack against powered hours (R424 names no fit). -/
opaque driftFit : List (Nat × Nat) → BitVec 16

/-- Whether the signature of the image at a flash offset verifies (R395), of the flash contents and the offset. -/
opaque imageSigned : List (Nat × BitVec 8) → Nat → Bool

/-- Whether u.sub and u.cmp set C on a borrow; without it they set C when there is none (Table 7-3 names C and states no convention). -/
opaque borrowCarry : Bool

/-- The K of a load's VA in the signature: R279 folds the VA, Table 11-3 has no event for it (log entry 79). -/
opaque loadEventK : Nat

/-- The directory set of a line: R242 speaks of directory sets and gives no index function. -/
opaque dirSet : Nat → Nat

/-- How many ways beyond 16 a directory set has (R242 gives no number; log entry 46). -/
opaque dirExtra : Nat

/-- Whether u.shf's rotate goes left (Table 7-3 gives no direction). -/
opaque rotateLeft : Bool

end Sys2Proof.Config
end

