-- ==== Sys2Proof/Machine/Tab.lean ====
section
/-! DEFINITION. Finite tables with a default: lists of (key, value) with strictly rising keys, and fixed vectors of units. -/

namespace Sys2Proof.Machine

/-- A sparse table: keys strictly rising, one canonical list per content. -/
abbrev Tab (α : Type) := List (Nat × α)

/-- The entry of key `k`, when one is listed. -/
def Tab.look {α : Type} : Tab α → Nat → Option α
  | [], _ => none
  | (k', v) :: t, k => if k' = k then some v else Tab.look t k

/-- `t` with key `k` listed as `v`; the order of the keys is kept. -/
def Tab.put {α : Type} : Tab α → Nat → α → Tab α
  | [], k, v => [(k, v)]
  | (k', v') :: t, k, v =>
    if k < k' then (k, v) :: (k', v') :: t
    else if k' = k then (k, v) :: t
    else (k', v') :: Tab.put t k v

/-- `t` with key `k` not listed. -/
def Tab.drop {α : Type} : Tab α → Nat → Tab α
  | [], _ => []
  | (k', v') :: t, k => if k' = k then t else (k', v') :: Tab.drop t k

/-- Whether key `k` is listed. -/
def Tab.has {α : Type} (t : Tab α) (k : Nat) : Bool := (Tab.look t k).isSome

/-- What `t` holds at `k`, an unlisted key holding `d`. -/
def Tab.getD {α : Type} (t : Tab α) (k : Nat) (d : α) : α := (Tab.look t k).getD d

/-- `t` with `v` at `k`, an unlisted key holding `d`: a value equal to `d` is not listed (the canonical form). -/
def Tab.setD {α : Type} [DecidableEq α] (t : Tab α) (k : Nat) (v d : α) : Tab α :=
  if v = d then Tab.drop t k else Tab.put t k v

/-- The keys are strictly rising from `lo`. -/
def Tab.risingFrom {α : Type} : Nat → Tab α → Bool
  | _, [] => true
  | lo, (k, _) :: t => decide (lo ≤ k) && Tab.risingFrom (k + 1) t

/-- The canonical form of a table whose unlisted keys hold `d`. -/
def Tab.wf {α : Type} [DecidableEq α] (t : Tab α) (d : α) : Bool :=
  Tab.risingFrom 0 t && t.all (fun e => decide (e.2 ≠ d))

/-- The unit of index `i`. -/
def unit {α : Type} {n : Nat} (v : Vector α n) (i : Fin n) : α := v.get i

/-- `v` with the unit of index `i` replaced. -/
def setUnit {α : Type} {n : Nat} (v : Vector α n) (i : Fin n) (x : α) : Vector α n := v.set i.val x i.isLt

/-- `v` with the unit of index `i` changed, when there is one. -/
def modUnit {α : Type} {n : Nat} (v : Vector α n) (i : Nat) (f : α → α) : Vector α n :=
  if h : i < n then setUnit v ⟨i, h⟩ (f (unit v ⟨i, h⟩)) else v

end Sys2Proof.Machine
end

