-- ==== Sys2Proof/Machine/StateCore.lean ====
section
/-! DEFINITION. The state of one core and of one pair, as plain data. -/

namespace Sys2Proof.Machine

/-- CSW (Table 6-3). -/
structure Csw where
  priv : BitVec 2
  cc : BitVec 2
  earlyprod : Bool
  quiet : Bool
  fd : BitVec 2
  ilm : BitVec 4
  key : BitVec 4
  ublk : Bool
  deriving DecidableEq, Repr

/-- WSTAT (Table 6-10) but for SBUF, which counts the core's spill slots. -/
structure Wstat where
  cw : BitVec 5
  ow : BitVec 5
  owed : Bool
  sspan : BitVec 4
  ttw : BitVec 5
  ttv : Bool
  deriving DecidableEq, Repr

/-- One span (Tables 8-1, 8-2), each register as it reads. -/
structure Span where
  base : Word
  limit : Word
  xlat : Word
  attr : Word
  deriving DecidableEq, Repr

/-- One context bank: the registers of Table 6-2, the windows of R155 and the pc at which the context resumes. -/
structure Ctx where
  id : BitVec 16
  csa : Pa
  pc : Word
  csw : Csw
  wstat : Wstat
  wsp : Word
  shadowsp : Word
  loopcnt : Word
  pl : Word
  ph : Word
  proga : Word
  progb : Word
  progc : Word
  fpctl : Word
  fpflags : BitVec 5
  tttb : Word
  ttra : Word
  ttinfo : Word
  modbase : Vector Word 4
  modsize : Vector Word 4
  allocptr : Word
  alloclim : Word
  remlog : Word
  satblog : Word
  gcctl : Word
  jstat : Word
  globals : Vector TW 8
  /-- Shale entries by window × 16 + i: i < 8 the kept entries, 8–15 the parameter entries (R155); unlisted is unset. -/
  shale : Tab TW
  spans : Vector Span 16
  /-- When the bank was last current, for the least recently used bank of R164. -/
  stamp : Nat
  deriving DecidableEq, Repr

/-- An entry of the deferred queue (Table 4-9), with the bank of its recorded window. -/
structure FdqEntry where
  iword : BitVec 32
  flags : BitVec 5
  assist : Bool
  repl : Bool
  priv : BitVec 2
  rm : BitVec 2
  cw : BitVec 5
  addr : Word
  opa : Word
  opb : Word
  opc : Word
  result : Word
  bank : Fin 4
  deriving DecidableEq, Repr

/-- A frame in the window spill buffer (R161): its bank, its window, k0–k7 then a0–a7. -/
structure SpillSlot where
  bank : Fin 4
  win : BitVec 5
  frame : Vector TW 16
  deriving DecidableEq, Repr

/-- A handler descriptor's four words (Table 6-4). -/
structure Desc where
  w0 : Word
  w1 : Word
  w2 : Word
  w3 : Word
  deriving DecidableEq, Repr

/-- An address and a control register of a breakpoint or watchpoint (Table 11-14). -/
structure DbgPair where
  addr : Word
  ctl : Word
  deriving DecidableEq, Repr

/-- What a fault drain of the spill buffer will report (R161, REASON 2). -/
structure DrainFault where
  bank : Fin 4
  info : Word
  faddr : Word
  fstat : Option (Pa × Bool)
  deriving DecidableEq, Repr

/-- The registers of a core that a checkpoint of a checked pair restores (R281, R291). -/
structure Regs where
  banks : Vector Ctx 4
  cur : Fin 4
  /-- The interrupted guest bank while the monitor bank runs (R166). -/
  guest : Fin 4
  /-- A CTXSW in the monitor bank has selected a guest context (R166). -/
  guestSel : Bool
  fault : Vector TW 16
  /-- The product written at the last retired instruction, not yet visible (R62). -/
  prod : Option (Word × Word)
  /-- The product of the instruction now executing (R62). -/
  prodNew : Option (Word × Word)
  trapcause : BitVec 8
  trapaddr : Word
  trapinfo : Word
  faddr : Word
  fstat : Word
  /-- TRAPINFO of the last double-fault entry, for the report of a triple fault (R178). -/
  dblInfo : Word
  hdtb : Word
  pinned : Vector Desc 16
  ctxctlBank : BitVec 2
  mbank : Bool
  uctl : Word
  s2root : Word
  s1en : Bool
  keyen : Bool
  wcen : Bool
  keybase : Word
  keylim : Word
  fdq : List FdqEntry
  /-- REPL and RESULT of the entries that are not occupied, as software last wrote them. -/
  fdqIdle : Vector (Bool × Word) 4
  deliv : Bool
  fdqra : Word
  /-- Instructions retired after the oldest queued entry (R111, item 7). -/
  fdqCount : Nat
  spill : List SpillSlot
  drainFault : Option DrainFault
  /-- A drain fault was entered and its handler has not returned: the drain waits for its RTT (R161). -/
  drainHeld : Bool
  ib : Vector DbgPair 4
  dw : Vector DbgPair 4
  skip : Bool
  sstep : Bool
  /-- The boundary at which a single step is due (R304). -/
  stepDue : Option Word
  /-- Position (R277). -/
  posN : BitVec 48
  posU : Nat
  deriving DecidableEq, Repr

/-- A TLB entry (R217): what stage 2 and the key byte gave for a page, found again through its span. -/
structure TlbEntry where
  vpage : Nat
  /-- log2 of the bytes covered: 12, 21 or 30 (R218). -/
  size : Nat
  ctxid : BitVec 16
  vmid : BitVec 16
  span : Fin 16
  /-- The span register contents the entry was made from: rights, GEN, COND, SHADOW and JRNL (R217). -/
  attr : Word
  ipage : Nat
  ppage : Nat
  r : Bool
  w : Bool
  x : Bool
  d : Bool
  c : Bool
  se : Bool
  /-- The stage-2 level of the leaf, for TRAPINFO.LEVEL (Table 8-8). -/
  level : Nat
  /-- PA of the leaf descriptor, none when stage 2 did not apply. -/
  leaf : Option Pa
  key : Option Byte
  deriving DecidableEq, Repr

/-- A walk cache entry (R219): the next table that the descriptor of `level` over the IPA prefix gives. -/
structure WalkEntry where
  vmid : BitVec 16
  level : Nat
  ipre : Nat
  table : Pa
  deriving DecidableEq, Repr

/-- L2 line states (R242); I is "not listed". -/
inductive Mesi where
  | m | e | s
  deriving DecidableEq, Repr

/-- A 64-byte line with its tags. -/
abbrev Line := Vector TW 8

/-- A line in a core's L2 and the way of its set that holds it (R233). -/
structure L2Line where
  st : Mesi
  data : Line
  way : Nat
  deriving DecidableEq, Repr

/-- A miss buffer (R243): the fill of a load that has not retired, in the state the L2 would take it. -/
structure Miss where
  line : Nat
  st : Mesi
  data : Line
  deriving DecidableEq, Repr

/-- A store waiting in the store buffer or the commit gate (R239, R284). -/
inductive StoreOp where
  /-- A full tagged word. -/
  | word (pa : Pa) (w : TW) (uncached : Bool)
  /-- The `n` low bytes of `v` at `pa`, the word taking tag 0x05 (R40). -/
  | part (pa : Pa) (n : Nat) (v : Word) (uncached : Bool)
  /-- DZL of the line (R246). -/
  | zline (pa : Pa)
  /-- A whole line written without a fetch: half of a frame (R160). -/
  | wholeLine (pa : Pa) (l : Line)
  /-- A CINV.LINE effect leaving a checked pair (R284). -/
  | drop (pa : Pa)
  /-- A CINV.ALL effect leaving a checked pair (R284). -/
  | dropAll
  /-- The append notice of a JAPPEND (R345): ring, epoch, the record's bytes and the new HEAD. -/
  | notice (ring : Byte) (epoch : BitVec 48) (bytes : Nat) (head : BitVec 32)
  deriving DecidableEq, Repr

/-- A TLBI that its issuer waits on (R228). -/
structure TlbiWait where
  form : BitVec 4
  operand : Word
  vmid : BitVec 16
  /-- Who has still to acknowledge: cores, and the IOMMU as 48. -/
  left : List Nat
  deriving DecidableEq, Repr

/-- A read of a core beyond a root port (R362–R364): where it goes, its size, and the retained completion data. -/
structure PcieWait where
  pa : Pa
  n : Nat
  done : Option Word
  deriving DecidableEq, Repr

/-- An asynchronous exception due at a boundary: machine check 0x20 or pair retired 0x1F (R182, R296). -/
structure Async where
  cause : BitVec 8
  info : Word
  faddr : Word
  deriving DecidableEq, Repr

/-- PAIRSTAT.STATE codes (Table 11-11). -/
inductive RunState where
  | stopped | running | rallying | halted | retiring | retired
  deriving DecidableEq, Repr

/-- A performance counter (Table 11-14). -/
structure PmCounter where
  ctl : Word
  cnt : BitVec 48
  deriving DecidableEq, Repr

/-- One physical core. -/
structure Core where
  run : RunState
  regs : Regs
  /-- IPEND0/1 with the level each pending vector carries, by vector (R173). -/
  ipend : Tab (BitVec 4)
  async : List Async
  tlb : List TlbEntry
  walk : List WalkEntry
  /-- L1D and L1I residency: set × 8 + way to line number (R233, R234). -/
  l1d : Tab Nat
  l1i : Tab Nat
  /-- Victim cache, oldest first, and string buffer, least recently used first: line numbers (R233, R145). -/
  victim : List Nat
  strbuf : List Nat
  /-- L2 by line number (R233). -/
  l2 : Tab L2Line
  l2en : Bool
  vcen : Bool
  fdbusy : Bool
  fddone : Bool
  held : Bool
  dirtyheld : Nat
  lockD : Byte
  lockI : Byte
  stbuf : List StoreOp
  /-- Miss buffers: lines filled for loads that have not retired (R243). -/
  miss : List Miss
  /-- Tree pseudo-LRU bits of the L1D, L1I and L2 by set (R233): bit j is node j of the tree. -/
  l1dlru : Tab Nat
  l1ilru : Tab Nat
  l2lru : Tab Nat
  mregs : Vector TW 32
  /-- The microsequencer's flags TE, V, C, N, Z from bit 4 down (R189), as the last extension routine left them. -/
  uflags : BitVec 5
  tlbi : Option TlbiWait
  /-- The epoch a JWAIT waits for (R349). -/
  jwait : Option Word
  /-- Reads outstanding beyond root ports, or completed and retained, oldest first (R364). -/
  pcie : List PcieWait
  /-- The core's copy of the open epoch number and whether it has still to acknowledge a seal (R345). -/
  epoch : BitVec 48
  /-- Uncached values and inputs that earlier attempts of the instruction at the boundary have taken, in order (R286),
  and how many of them the attempt in progress has used. -/
  kept : List TW
  used : Nat
  /-- The last value JSTAMP returned on the core, which later ones never go below (R343). -/
  lastStamp : Word
  pm : Vector PmCounter 8
  deriving DecidableEq, Repr

/-- What a delivery log entry records (Table 11-5). -/
inductive Delivered where
  | interrupt (vec : Byte) (level : BitVec 4)
  | uncached (w : TW)
  | input (reg : BitVec 12) (w : TW)
  | async (a : Async)
  | debugger (sel : BitVec 13) (w : TW)
  | stop (kind : Nat)
  deriving DecidableEq, Repr

/-- A delivery log entry with its position (R288). -/
structure DEntry where
  n : BitVec 48
  u : Nat
  what : Delivered
  deriving DecidableEq, Repr

/-- An entry of the load value queue (R279). -/
structure LoadEntry where
  va : Word
  pa : Pa
  bytes : Nat
  word : TW
  /-- Cause, FADDR and FSTAT of a fault from order 3 of Table 8-7 on. -/
  fault : Option (BitVec 8 × Word × Option (Pa × Bool))
  /-- The payload of poison that was read. -/
  poison : Option Word
  deriving DecidableEq, Repr

/-- What a checkpoint restores beside the core's registers (R291): SLIP, WINLEN, CACHECTL's enables, the locks and PMCTL. -/
structure Side where
  slip : BitVec 10
  winlen : BitVec 11
  l2en : Bool
  vcen : Bool
  lockD : Byte
  lockI : Byte
  pmctl : Vector Word 8
  deriving DecidableEq, Repr

/-- An unreleased check window of a checked pair (R280–R284). -/
structure Window where
  startN : BitVec 48
  startU : Nat
  checkpoint : Regs
  side : Side
  sig : Word
  /-- Gated stores, oldest first. -/
  gate : List StoreOp
  /-- Its load value queue entries, oldest first (R279). -/
  loads : List LoadEntry
  logged : Nat
  writes : Nat
  retired : Nat
  /-- The events of a single position that a held pair re-executes, oldest first (R301). -/
  events : List Event
  /-- The end position, once the window has ended. -/
  ended : Option (BitVec 48 × Nat)
  /-- The window ended for an uncached access that waits for its verdict (R286). -/
  access : Bool
  /-- The line that its CAS or SATB exchange took and whose forwarded requests the leading L2 defers (R287). -/
  line : Option Nat
  /-- Where a re-executed window ends: the end position it had before the rally (R291). -/
  goal : Option (BitVec 48 × Nat)
  deriving DecidableEq, Repr

/-- A pair: its checker, its external block (Table 11-11) and its debugger. -/
structure Pair where
  checked : Bool
  failed : Bool
  slip : BitVec 10
  winlen : BitVec 11
  slipNext : BitVec 10
  winlenNext : BitVec 11
  windows : List Window
  /-- An MTS to CHKCTL has asked for the open window's end (R280). -/
  winend : Bool
  dlog : List DEntry
  /-- Entries a rally replays, oldest first (R289). -/
  replay : List DEntry
  suspect : Bool
  hard : Bool
  reason : BitVec 4
  rallies : BitVec 16
  /-- Times of the rallies in the counting window (R293). -/
  rallyTimes : List Nat
  /-- Start of the window that last mismatched and has not yet matched (R291). -/
  mismatched : Option (BitVec 48 × Nat)
  /-- Retry-hold (R292). -/
  retryHold : Bool
  /-- The position whose uncached access has its matching verdict (R286). -/
  cleared : Option (BitVec 48 × Nat)
  /-- A stop the pair takes at its next window end: 0 commit, 1 Fenced, 2 debugger. -/
  stopDue : Option Nat
  /-- BANKUSE as it was before the commit stop that is due: the pair's bank until the stop is covered by verdicts (R204). -/
  bank : Option (BitVec 2)
  rettgt : BitVec 6
  start0 : Word
  start1 : Word
  rescue : Word
  misinfo : Word
  siglead : Word
  sigtrail : Word
  attached : Bool
  dbghalt : Bool
  holdmis : Bool
  dbgreplay : Bool
  halted : Bool
  heldmis : Bool
  replaystop : Bool
  /-- Single positions still to execute before halting (DBGCTL.STEP). -/
  stepping : Bool
  dbgsel : BitVec 13
  /-- DBGTAG as software last wrote it; none while it reads as the selected register's tag. -/
  dbgtag : Option Byte
  dbgtkind : Word
  dbgtval : Word
  dbglval : Word
  /-- Cores (bit 0 even, bit 1 odd) and REASON of a retirement whose rescue Fisin is writing (R294). -/
  rescuing : Option (BitVec 2 × BitVec 4)
  deriving DecidableEq, Repr

end Sys2Proof.Machine
end

