-- ==== Sys2Proof/Machine/StateUnits.lean ====
section
/-! DEFINITION. The state of the units outside the cores, as plain data. -/

namespace Sys2Proof.Machine

/-- The contents of memory: payload bytes by byte address, tag bytes by word address (PA / 8); an unlisted cell
reads zero, the zero-fill every readable frame has had (R311). -/
structure Memory where
  bytes : List Host.Cell
  tags : List Host.Cell
  deriving DecidableEq, Repr

/-- A line in an LLC slice (R233): its data and whether memory is older. -/
structure LlcLine where
  dirty : Bool
  data : Line
  /-- The way of its set that holds it. -/
  way : Nat
  deriving DecidableEq, Repr

/-- A directory entry (R242); Uncached is "not listed". -/
inductive DirEntry where
  | shared (cores : BitVec 48)
  | owned (c : CoreId)
  deriving DecidableEq, Repr

/-- A die bridge lane group or a hub bridge (Table 9-6): 0 Up, 1 Replay, 2 Retrain, 3 Disabled. -/
structure BridgeLane where
  st : BitVec 2
  crc : BitVec 16
  /-- Times of the CRC errors and of the retrains in their windows. -/
  crcTimes : List Nat
  retrainTimes : List Nat
  deriving DecidableEq, Repr

/-- The coherence fabric of both dies (R251–R256). -/
structure Fabric where
  llcen : Vector Bool 2
  groups : Vector BridgeLane 4
  detour : Bool
  /-- Hub bridges West and East. -/
  hubs : Vector BridgeLane 2
  deriving DecidableEq, Repr

/-- A microcode image (R194): its header, the standard words at 0x0000 + key, the customer extension area at 0x2C00 + key, unlisted words being
zero, and the two signatures. -/
structure Image where
  pfv : BitVec 16
  xfv : BitVec 16
  stdver : BitVec 32
  xver : BitVec 32
  xkey : Byte
  stepmin : BitVec 16
  part : BitVec 16
  magic : BitVec 32
  std : Tab (BitVec 32)
  ext : Tab (BitVec 32)
  ssig : BitVec 768
  xsig : BitVec 768
  /-- The reserved bytes 0x15–0x3F are zero. -/
  reservedZero : Bool
  deriving DecidableEq, Repr

/-- A cluster's control store (Tables 7-8, 7-9). -/
structure Cluster where
  bankuse : BitVec 2
  phase : BitVec 3
  abad : Bool
  bbad : Bool
  parcnt : Byte
  bankA : Option Image
  bankB : Option Image
  /-- Addresses of the stored microwords whose parity bit does not agree with their word (R183, R193); every other one agrees. -/
  parityA : List Nat
  parityB : List Nat
  deriving DecidableEq, Repr

/-- A repair that a verify pass makes (R200): the signatures' outcome, the banks found different, those repaired, and the banks still to
rewrite with the image they take. -/
structure VerifyFix where
  sigOk : Bool
  mismatch : BitVec 24
  fixed : BitVec 24
  left : List (CluId × Bool × Option Image)
  deriving DecidableEq, Repr

/-! ### Memory channels (12, 13) -/

/-- A remap entry (R332); `copying` while its row is being copied. -/
structure RemapEntry where
  v : Bool
  row : Bool
  addr : Nat
  copying : Bool
  deriving DecidableEq, Repr

/-- An entry of the error frame list (R336). -/
structure EflEntry where
  lines : Nat
  pa : Word
  poison : Word
  deriving DecidableEq, Repr

/-- A parity line in the parity cache (R328): its channel address / 64, whether it is still to be written back, and how it differs from
the parity of its frame's data lines. -/
structure ParityLine where
  n : Nat
  dirty : Bool
  diff : List SymErr
  deriving DecidableEq, Repr

/-- A memory channel: its controller (Table 12-5), its integrity block (Table 13-7) and its DIMM. -/
structure Channel where
  /-- CHSTAT.STATE (Table 12-3): 0 Absent, 1 Identify, 2 Training, 3 Ready, 4 Failed, 5 Draining. -/
  st : Nat
  /-- Training follows CHANNEL_RETRAIN (R319). -/
  retrain : Bool
  rate : BitVec 3
  x8 : Bool
  /-- Ranks of the DIMM: 1, 2 or 4; 0 while no DIMM is known. -/
  ranks : Nat
  gib : Nat
  /-- CHMAP (Table 12-5): the channel's set. -/
  mode : BitVec 2
  pos : Nat
  n : Nat
  base : Nat
  cap : Nat
  /-- CHINIT.WM. -/
  wm : Nat
  retryact : Bool
  hot : Bool
  /-- Refreshes issued, those postponed (at most 4), whether the DIMM's SPD asks for refresh management, and its commands (R315). -/
  refreshes : Nat
  postponed : Nat
  rfm : Bool
  rfms : Nat
  /-- Of each rank: its read and write delays, how often its DQS oscillator was read, and how often it was ZQ-calibrated (R316). -/
  delays : Vector (Word × Word) 4
  retrims : Vector Nat 4
  zqcals : Vector Nat 4
  /-- Lines whose reads and writes wait in the request queues, by PA / 64: CHQUEUE.RDOCC and WROCC count them (R313, R317). -/
  rdq : List Nat
  wrq : List Nat
  /-- The command under way needs a request that waits (the model's own; false between commands). -/
  waits : Bool
  capar : BitVec 16
  wcrc : BitVec 16
  /-- Which kind of event the retry in progress replays: true for a write CRC error. -/
  retryWcrc : Bool
  selftest : BitVec 2
  faildev : Vector Nat 8
  /-- The devices whose rule fired in a group that had a marked device (R340). -/
  second : Vector (List Nat) 8
  failovf : Bool
  corr : BitVec 24
  rebuilt : BitVec 16
  poisoned : BitVec 16
  recalled : Byte
  pfirq : Bool
  ieirq : Bool
  injctl : Word
  injaddr : Word
  agwm : Nat
  swen : Bool
  boost : Nat
  lapmin : Nat
  swpos : Nat
  /-- Lines of the frame being swept that were corrected or erasure-decoded in this pass (R338). -/
  suspects : List Nat
  /-- Intervals (ms) spent in the current lap. -/
  lapClock : Nat
  lapms : BitVec 40
  laps : BitVec 24
  behind : Bool
  remap : Vector RemapEntry 32
  /-- Entries reapplied from flash at Staging (REMAP_QUERY W5). -/
  reapplied : BitVec 32
  serial : BitVec 32
  eflhead : BitVec 6
  eflovf : Bool
  efltail : BitVec 6
  efl : Vector EflEntry 64
  /-- Stored symbol errors by channel address / 64: position and differing bits (R321). -/
  errs : Tab (List SymErr)
  /-- How each parity line in DRAM differs from the parity of its frame's data lines, byte by byte, by channel address / 64 (R326; the
  note after R323): an unlisted line agrees with them. -/
  pdiff : Tab (List SymErr)
  /-- The parity cache, least recently used first (R328). -/
  pcache : List ParityLine
  /-- Times of the last events of each device rule (group × 16 + device) and row rule (R339). -/
  devTimes : Tab (List Nat)
  rowTimes : Tab (List Nat)
  deriving DecidableEq, Repr

/-- An integrity region (R324). -/
structure Region where
  v : Bool
  s : Nat
  base : Nat
  n : Nat
  deriving DecidableEq, Repr

/-- Who waits for a mailbox command's result: a channel, the external channel or another node (R387, R403, R409). -/
inductive Reply where
  | chan (i : Fin 64)
  | ext
  | remote (node : BitVec 5) (cmd0 : Word)
  deriving DecidableEq, Repr

/-- A conversion of a region's strength (R330): the region, its earlier contents and who waits. -/
structure Convert where
  region : Fin 64
  old : Region
  reply : Reply
  deriving DecidableEq, Repr

/-- What all channels share (R307, R324, R325). -/
structure Integrity where
  agatemax : Nat
  defs : Nat
  regions : Vector Region 64
  conv : Option Convert
  deriving DecidableEq, Repr

/-! ### The journal sequencer (14) -/

/-- The states of an epoch that is not Closed (Table 14-1). -/
inductive EpochSt where
  | opened | sealing | draining | committing | reported
  deriving DecidableEq, Repr

/-- An unclosed epoch: its number, state, start time, and the record bytes it has in the stream. -/
structure Epoch where
  n : BitVec 48
  st : EpochSt
  start : Word
  bytes : Nat
  deriving DecidableEq, Repr

/-- A record whose append notice has arrived (R346): its ring, epoch, length and the HEAD after it. -/
structure JRec where
  ring : Byte
  epoch : BitVec 48
  bytes : Nat
  head : BitVec 32
  deriving DecidableEq, Repr

/-- A registered ring (Table 14-8). -/
structure Ring where
  base : Word
  log2 : BitVec 5
  en : Bool
  trapfull : Bool
  drained : BitVec 32
  /-- RELEASE as the sequencer last wrote it. -/
  released : BitVec 32
  deriving DecidableEq, Repr

/-- A marker of the target stream still to be written (Table 14-4): its type, EPOCH and words 2 and 3. -/
structure Mark where
  typ : Nat
  epoch : BitVec 48
  w2 : Word
  w3 : Word
  deriving DecidableEq, Repr

/-- The journal sequencer (Table 14-8). -/
structure Journal where
  jlen : Nat
  role : Nat
  first : BitVec 48
  epochs : List Epoch
  err : Bool
  detached : Bool
  durable : BitVec 48
  closed : BitVec 48
  jcompl : BitVec 48
  time : Word
  src : BitVec 2
  lock : Bool
  offset : BitVec 32
  /-- Nanoseconds still to be removed by slewing, signed (R342). -/
  slew : Int
  prov : BitVec 48
  restamp : BitVec 48
  tgtbase : Word
  tgtsize : Nat
  tgtdb : Word
  tgthead : Word
  tgtrel : Word
  tgttmo : Nat
  tgtrid : BitVec 16
  rings : Tab Ring
  /-- Records notified and not yet drained, in arrival order. -/
  queue : List JRec
  /-- Records drained whose ring space is not yet released, in drain order. -/
  kept : List JRec
  /-- Markers of a detachment or rejoin still to be written, oldest first (R354, R355). -/
  marks : List Mark
  /-- Ranges of epochs voided at rejoins, and the epoch that holds their records. -/
  voided : List (BitVec 48 × BitVec 48 × BitVec 48)
  /-- Highest DURABLE n from each worker (manager). -/
  durableOf : Tab (BitVec 48)
  /-- A rejoin that waits for the next epoch boundary: the worker, p and h (R355). -/
  rejoins : List (BitVec 5 × BitVec 48 × BitVec 48)
  /-- The first global epoch that closed without each absent worker. -/
  absentFrom : Tab (BitVec 48)
  /-- t1, t2 and t3 of the SYNC exchange in progress (R389). -/
  sync : Option (Word × Word × Word)
  /-- A worker's first exchange has completed, or SETTIME has been made (R342). -/
  stepped : Bool
  settime : Bool
  /-- A worker has ever attached (R388). -/
  everAttached : Bool
  /-- DECLARE_OPERATIONAL has frozen the configuration (R408). -/
  frozen : Bool
  deriving DecidableEq, Repr

/-! ### PCIe, IOMMU and interrupt routing (15) -/

/-- A root port (Table 15-6). -/
structure RootPort where
  present : Bool
  l0 : Bool
  rate : BitVec 3
  width : BitVec 5
  cto : BitVec 16
  /-- AER status bits reported so far. -/
  aer : Word
  deriving DecidableEq, Repr

/-- A cached IOMMU context (R368): its requester, MODE, FPD, VMID and root table. -/
structure IoCtx where
  rid : BitVec 16
  mode : Nat
  fpd : Bool
  vmid : BitVec 16
  root : Pa
  deriving DecidableEq, Repr

/-- An IOTLB entry (R368). -/
structure IoTlb where
  rid : BitVec 16
  vmid : BitVec 16
  ipage : Nat
  ppage : Nat
  /-- log2 of the bytes covered. -/
  size : Nat
  r : Bool
  w : Bool
  d : Bool
  se : Bool
  deriving DecidableEq, Repr

/-- A posted write that left the device on PCIe: its address, its bytes' words and how many bytes. -/
structure Posted where
  addr : Word
  words : List Word
  bytes : Nat
  deriving DecidableEq, Repr

/-- The root complex, the IOMMU and the IRT (Table 15-6). -/
structure Pcie where
  bifurc : Byte
  ports : Vector RootPort 16
  ioctxbase : Pa
  invRid : BitVec 16
  invAll : Bool
  invBusy : Bool
  fltbase : Pa
  fltsize : BitVec 5
  flthead : BitVec 16
  fltovf : Bool
  flttail : BitVec 16
  ctxs : List IoCtx
  iotlb : List IoTlb
  iowalk : List WalkEntry
  /-- IRT entries by number, as the register word without ERR, and what an unlisted entry holds: retirement of the pair that backs logical
  core 0 rewrites every entry that names it (R294 step 3). -/
  irt : Tab Word
  irtRest : Word
  /-- Posted writes that left the device, oldest first (an output). -/
  posted : List Posted
  /-- Completions sent for inbound reads, oldest first: requester, status (0 SC, 1 UR, 2 EP) and data (an output). -/
  completed : List (BitVec 16 × Nat × List Byte)
  deriving DecidableEq, Repr

/-! ### Volley (16) -/

/-- A flit (Table 16-1) as its class, kind, ends, message number and body words. -/
structure Flit where
  cls : Nat
  kind : Nat
  src : BitVec 5
  dst : BitVec 5
  msgid : Nat
  body : List TW
  deriving DecidableEq, Repr

/-- A Volley port (Tables 16-2, 16-6). -/
structure VPort where
  st : Nat
  peer : BitVec 5
  /-- A HELLO has identified the peer: it is above this device (upstream). -/
  up : Bool
  miswire : BitVec 3
  crccnt : BitVec 16
  retrains : Byte
  en : Bool
  hold : Bool
  naks : Nat
  /-- Next sequence number to send and next expected. -/
  txseq : Nat
  rxseq : Nat
  /-- Unacknowledged flits with their sequence numbers (R379). -/
  replay : List (Nat × Flit)
  /-- Flits that wait for room in the replay buffer, or for the port to return to Up (R379, R382). -/
  waitq : List Flit
  deriving DecidableEq, Repr

/-- A message that waits for its response (R381): its number, destination, what it is, and whether its timer is frozen. -/
structure VMsg where
  msgid : Nat
  dst : BitVec 5
  /-- The send descriptor's byte offset in the ring, or the mailbox channel. -/
  desc : Option Nat
  chan : Option (Fin 64)
  /-- Links whose retry-hold freezes the timer. -/
  frozen : List Nat
  deriving DecidableEq, Repr

/-- A send descriptor in flight (R383). -/
structure VDesc where
  off : Nat
  w0 : Word
  w1 : Word
  w2 : Word
  /-- Words acknowledged and words sent. `msgids` are the messages not yet acknowledged, with their words. -/
  acked : Nat
  sent : Nat
  raised : Bool
  code : Nat
  done : Bool
  msgids : List (Nat × Nat)
  deriving DecidableEq, Repr

/-- A landing window (Table 16-6). -/
structure LandWin where
  base : Pa
  frames : Nat
  en : Bool
  srcmask : BitVec 17
  refused : BitVec 32
  deriving DecidableEq, Repr

/-- The Volley block. -/
structure Volley where
  node : BitVec 5
  expect : BitVec 17
  absentMs : Nat
  msgUs : Nat
  present : BitVec 17
  attached : Bool
  ports : Vector VPort 4
  sqbase : Pa
  sqsize : BitVec 5
  sqhead : BitVec 15
  sqtail : BitVec 15
  wins : Vector LandWin 16
  descs : List VDesc
  msgs : List VMsg
  nextMsg : Nat
  /-- Links frozen by a HOLD from elsewhere (R381). -/
  frozen : List Nat
  /-- WRITE flits sent to each node, and landed from each node (R386). -/
  sentTo : Tab Nat
  landedFrom : Tab Nat
  /-- RAISEs that wait for their WRITE count: source, entry, count, message. -/
  raises : List (BitVec 5 × Nat × Nat × Nat)
  /-- Flits sent, oldest first, with their port (an output). -/
  sent : List (VPortId × Flit)
  deriving DecidableEq, Repr

/-! ### Fisin (17) -/

/-- A mailbox channel (Table 17-8). -/
structure Mbox where
  cmd : Vector Word 8
  rsp : Vector Word 8
  irqen : Bool
  result : Byte
  active : Bool
  done : Bool
  owner : Word
  deriving DecidableEq, Repr

/-- An error log entry (R410). -/
structure LogEntry where
  time : Word
  seq : BitVec 32
  unit : Nat
  inst : Nat
  event : Nat
  d0 : Word
  d1 : Word
  deriving DecidableEq, Repr

/-- An event that needs Fisin's firmware, as the event FIFO of a firmware swap holds it, with its time (R427 step 3): an entry for the error
log (its SEQ comes when it is appended), or a corrected or undecodable line that counts against a device or a row (R339). -/
inductive FwEvent where
  | log (e : LogEntry)
  | device (ch : ChanId) (g d at_ : Nat)
  | row (ch : ChanId) (addr at_ : Nat)
  deriving DecidableEq, Repr

/-- A microcode commit in progress (R202): who waits, the clusters left, committed and left single-store. -/
structure Commit where
  reply : Reply
  left : List CluId
  done : BitVec 12
  single : BitVec 12
  deriving DecidableEq, Repr

/-- Fisin and the identity block. -/
structure Fisin where
  rdy0 : Word
  rdy1 : Word
  fail0 : Word
  fail1 : Word
  lmap : Vector Byte 48
  lcount : Nat
  lvalid : Bool
  chans : Vector Mbox 64
  ext : Mbox
  /-- Channels whose doorbell waits to be served, in doorbell order (R406). -/
  bells : List (Fin 64)
  /-- Configuration parameters with a record (R397). -/
  params : Tab Word
  role : Bool
  bootsrc : Bool
  pairsafe : Bool
  /-- Fuse SVNs of the image kinds 1–3, and the programmed key slots (R393). -/
  svn : Vector Nat 3
  keys : BitVec 4
  /-- Flash bytes that are not erased (R394). -/
  flash : List Host.Cell
  /-- The running firmware slot (false A), the mapped boot slot, and whether one is mapped. -/
  fwslot : Bool
  bootslot : Bool
  bootmap : Bool
  /-- VERSION and SVN of the running firmware, and the SVN of the configuration block read at this Staging (R395). -/
  fwver : Nat
  fwsvn : Nat
  cfgsvn : Nat
  /-- What the boot record names (R396): firmware slot, boot firmware slot and microcode image; and whether a copy of it passed its CRC at this
  Staging (else slot A of each kind and image 0 are used). -/
  fwnamed : Bool
  bootnamed : Bool
  ucimage : Bool
  recordOk : Bool
  pairsReleased : BitVec 24
  staged : Option Image
  sram : List LogEntry
  flashlog : List LogEntry
  /-- How many SRAM entries have been copied to flash. -/
  flushed : Nat
  seq : BitVec 32
  rules : Vector (Nat × Nat) 5
  /-- The memory repair record (R332): by channel, the DIMM's serial number, its remap entries and device marks. -/
  repairs : Tab (BitVec 32 × Vector RemapEntry 32 × Vector Nat 8)
  stageOp : Option (Reply × Word × Pa)
  commitOp : Option Commit
  verifyOp : Option Reply
  verifyPeriod : Nat
  verifyDue : Bool
  /-- A periodic pass is running. -/
  verifyRun : Bool
  verifyFix : Option VerifyFix
  fwOp : Option (Reply × Nat × Pa × Nat)
  swapOp : Option Reply
  /-- The event FIFO of a firmware swap, of 256 entries, oldest first, and whether it has overflowed (R427). -/
  events : List FwEvent
  eventsOver : Bool
  /-- Requests of other nodes that wait for the end of a swap, oldest first (R406). -/
  reqs : List (BitVec 5 × Vector Word 8)
  retrainOp : Option (Reply × ChanId)
  retireOp : Option (Reply × PairId)
  dormantOp : Option Word
  deriving DecidableEq, Repr

/-! ### Modes, clocks, ageing and the standby domain (00, 18) -/

/-- A cluster's clock and margin plan (Table 18-7). -/
structure Clock where
  req : Nat
  freq : Nat
  /-- The cap of the plan and the voltage (R419, R425), and the thermal cap. -/
  plancap : Nat
  thermcap : Nat
  mv : Nat
  busy : Bool
  /-- The change in progress and the request that waits (R418). -/
  target : Nat
  waiting : Option Nat
  gb : Nat
  cap : Nat
  pgb : Nat
  pcap : Nat
  pend : Bool
  /-- The plan whose application is the change in progress, and whether one waits for the change in progress to end (R418, R426). -/
  applying : Option (Nat × Nat)
  planWait : Bool
  /-- Powered hours when the proposal was computed (MARGIN_PLAN_GET). -/
  phours : Nat
  deriving DecidableEq, Repr

/-- An ageing monitor (Table 18-7). -/
structure AgeMon where
  slack : BitVec 16
  floor : BitVec 16
  drift : BitVec 16
  reads : BitVec 16
  /-- Readings so far for the fit: powered hours and slack. -/
  points : List (Nat × Nat)
  deriving DecidableEq, Repr

/-- The power block. -/
structure Power where
  tj : Vector Byte 2
  hot : Vector Bool 2
  pfail : Vector Bool 2
  hours : Nat
  wake0 : Word
  wakeReason : BitVec 3
  wakeValid : Bool
  clocks : Vector Clock 12
  mons : Vector AgeMon 64
  deriving DecidableEq, Repr

/-- The standby domain and the pins (R421, R422, R434). -/
structure Standby where
  vstby : Bool
  token : Word
  reason : BitVec 3
  valid : Bool
  armed : Bool
  wakePending : Bool
  pwrReq : Bool
  pwrgood : Bool
  resetN : Bool
  faultN : Bool
  thermtrip : Bool
  /-- PE_PERST_N asserted (R417, R421). -/
  perst : Bool
  /-- DIMMs in self-refresh (R417). -/
  selfRefresh : Bool
  deriving DecidableEq, Repr

/-- DEVMODE (Table 0-10): the mode and the service flags. -/
structure Dev where
  mode : Nat
  ucode : Bool
  fwswap : Bool
  retrain : Bool
  agate : Bool
  cause : BitVec 2
  die : BitVec 1
  deriving DecidableEq, Repr

end Sys2Proof.Machine
end

