-- ==== Sys2Proof/Machine/Memory.lean ====
section
/-! DEFINITION. Memory as cells: payload bytes and word tags, an unlisted cell reading zero (R311), in canonical form. -/

namespace Sys2Proof.Machine

/-- The payload byte at byte address `a`. -/
def Memory.byte (m : Memory) (a : Nat) : Byte := Tab.getD m.bytes a 0#8

/-- The tag of the word at word address `w` (PA / 8). -/
def Memory.tag (m : Memory) (w : Nat) : Tag := Tab.getD m.tags w 0#8

/-- `m` with one payload byte written. -/
def Memory.setByte (m : Memory) (a : Nat) (b : Byte) : Memory := { m with bytes := Tab.setD m.bytes a b 0#8 }

/-- `m` with one tag written. -/
def Memory.setTag (m : Memory) (w : Nat) (t : Tag) : Memory := { m with tags := Tab.setD m.tags w t 0#8 }

/-- The tagged word at word address `w`: eight bytes, little-endian (R20), and its tag. -/
def Memory.word (m : Memory) (w : Nat) : TW :=
  { tag := m.tag w, val := BitVec.ofNat 64 (ofBytes ((List.range 8).map (fun i => m.byte (8 * w + i)))) }

/-- `m` with the bytes `i`, `i + 1`, … of the word at `w` written from `v`. -/
def Memory.setBytes (m : Memory) (w : Nat) (v : Word) : List Nat → Memory
  | [] => m
  | i :: t => Memory.setBytes (m.setByte (8 * w + i) (byteOf v i)) w v t

/-- `m` with the tagged word at word address `w` written. -/
def Memory.setWord (m : Memory) (w : Nat) (x : TW) : Memory :=
  (m.setBytes w x.val (List.range 8)).setTag w x.tag

/-- The 64-byte line number `n` with its tags. -/
def Memory.line (m : Memory) (n : Nat) : Line := Vector.ofFn (fun i => m.word (8 * n + i.val))

/-- `m` with words `is` of line `n` written from `l`. -/
def Memory.setLineWords (m : Memory) (n : Nat) (l : Line) : List (Fin 8) → Memory
  | [] => m
  | i :: t => Memory.setLineWords (m.setWord (8 * n + i.val) (l.get i)) n l t

/-- `m` with the line number `n` written. -/
def Memory.setLine (m : Memory) (n : Nat) (l : Line) : Memory := m.setLineWords n l [0, 1, 2, 3, 4, 5, 6, 7]

/-- The canonical form: addresses strictly rising and no cell equal to what an unlisted one reads as. -/
def Memory.wf (m : Memory) : Bool := Tab.wf m.bytes 0#8 && Tab.wf m.tags 0#8

end Sys2Proof.Machine
end

