-- ==== Sys2Proof/Machine/State.lean ====
section
/-! DEFINITION. The state of the MD-4830 as a block, its state right after reset, and the reasons a step can stop. -/

namespace Sys2Proof.Machine

/-- The whole device. -/
structure State where
  cores : Vector Core 48
  pairs : Vector Pair 24
  mem : Memory
  /-- LLC lines by line number (PA / 64), in the slice of their home (R236). -/
  llc : Tab LlcLine
  /-- Tree pseudo-LRU bits of the LLC sets, by slice × 8192 + set (R233). -/
  llclru : Tab Nat
  /-- Directories by line number (R242). -/
  dir : Tab DirEntry
  fabric : Fabric
  clusters : Vector Cluster 12
  chans : Vector Channel 12
  integ : Integrity
  jrnl : Journal
  pcie : Pcie
  volley : Volley
  fisin : Fisin
  power : Power
  standby : Standby
  dev : Dev
  /-- How many free values have been drawn (the model's own). -/
  free : Nat
  /-- Device time in ns since reset, for counting windows (the model's own). -/
  now : Nat
  /-- Commands waiting, first in first out (the block's form). -/
  pending : List Instr
  deriving DecidableEq, Repr

/-- Why a step of this model stops with a fault: never. The spec gives every command of the table an effect, so no
meaning raises one; the constructor names the one thing that would be a fault, a queue with no block behind it. Safe. -/
inductive Fault where
  /-- Raised by nothing: no step of this model faults. Safe. -/
  | none
  deriving DecidableEq, Repr

/-- Why a step refuses a command. -/
inductive Refusal where
  /-- The command has no meaning in this model yet: raised by the dispatch arm of that command only. Safe. -/
  | notModelled (mnemonic : String)
  deriving DecidableEq, Repr

namespace Reset

/-- CSW after reset (Table 6-3): Monitor privilege, everything else zero. -/
def csw : Csw :=
  { priv := 3#2, cc := 0#2, earlyprod := false, quiet := false, fd := 0#2, ilm := 0#4, key := 0#4, ublk := false }

/-- WSTAT after reset (Table 6-10). -/
def wstat : Wstat := { cw := 0#5, ow := 0#5, owed := false, sspan := 0#4, ttw := 0#5, ttv := false }

/-- A span after reset (Tables 8-1, 8-2): LIMIT[11:0] reads 0xFFF. -/
def span : Span := { base := 0#64, limit := 0xFFF#64, xlat := 0#64, attr := 0#64 }

/-- A context bank after reset: empty (CTXSTAT 0), every register at its reset value. The resume address has none
(DESIGN CHOICE, log entry 5: 0). -/
def ctx : Ctx :=
  { id := 0#16, csa := 0#52, pc := 0#64, csw := csw, wstat := wstat, wsp := 0#64, shadowsp := 0#64, loopcnt := 0#64,
    pl := 0#64, ph := 0#64, proga := 0#64, progb := 0#64, progc := 0#64, fpctl := 0#64, fpflags := 0#5,
    tttb := 0#64, ttra := 0#64, ttinfo := 0#64, modbase := Vector.replicate 4 0#64, modsize := Vector.replicate 4 0#64,
    allocptr := 0#64, alloclim := 0#64, remlog := 0#64, satblog := 0#64, gcctl := 0#64, jstat := 0#64,
    globals := Vector.replicate 8 TW.zero, shale := [], spans := Vector.replicate 16 span, stamp := 0 }

/-- An invalid descriptor (R169: the pinned cache after reset). -/
def desc : Desc := { w0 := 0#64, w1 := 0#64, w2 := 0#64, w3 := 0#64 }

/-- A breakpoint or watchpoint after reset (Table 11-14). -/
def dbg : DbgPair := { addr := 0#64, ctl := 0#64 }

/-- The registers of a core after reset or at a start (R298). -/
def regs : Regs :=
  { banks := Vector.replicate 4 ctx, cur := 0, guest := 0, guestSel := false, fault := Vector.replicate 16 TW.zero,
    prod := none, prodNew := none, trapcause := 0#8, trapaddr := 0#64, trapinfo := 0#64, faddr := 0#64, fstat := 0#64,
    dblInfo := 0#64, hdtb := 0#64, pinned := Vector.replicate 16 desc, ctxctlBank := 0#2, mbank := false, uctl := 0#64, s2root := 0#64,
    s1en := false, keyen := false, wcen := true, keybase := 0#64, keylim := 0#64, fdq := [], fdqIdle := Vector.replicate 4 (false, 0#64), deliv := false,
    fdqra := 0#64, fdqCount := 0, spill := [], drainFault := none, drainHeld := false, ib := Vector.replicate 4 dbg,
    dw := Vector.replicate 4 dbg, skip := false, sstep := false, stepDue := none, posN := 0#48, posU := 0 }

/-- A core after reset: stopped (R298), caches empty, the L2 and the victim cache enabled (Table 9-7). -/
def core : Core :=
  { run := .stopped, regs := regs, ipend := [], async := [], tlb := [], walk := [], l1d := [], l1i := [], victim := [],
    strbuf := [], l2 := [], l2en := true, vcen := true, fdbusy := false, fddone := false, held := false, dirtyheld := 0,
    lockD := 0#8, lockI := 0#8, stbuf := [], miss := [], l1dlru := [], l1ilru := [], l2lru := [], mregs := Vector.replicate 32 TW.zero, uflags := 0#5, tlbi := none,
    jwait := none, pcie := [], epoch := 0#48, kept := [], used := 0, lastStamp := 0#64, pm := Vector.replicate 8 { ctl := 0#64, cnt := 0#48 } }

/-- A pair after reset (Tables 11-10, 11-11): SLIP 128, WINLEN 256. -/
def pair : Pair :=
  { checked := false, failed := false, slip := 128#10, winlen := 256#11, slipNext := 128#10, winlenNext := 256#11,
    windows := [], winend := false, dlog := [], replay := [], suspect := false, hard := false, reason := 0#4, rallies := 0#16,
    rallyTimes := [], mismatched := none, retryHold := false, cleared := none, stopDue := none, bank := none,
    rettgt := 0#6, start0 := 0#64, start1 := 0#64, rescue := 0#64, misinfo := 0#64, siglead := 0#64, sigtrail := 0#64,
    attached := false, dbghalt := false, holdmis := false, dbgreplay := false, halted := false, heldmis := false,
    replaystop := false, stepping := false, dbgsel := 0#13, dbgtag := none, dbgtkind := 0#64, dbgtval := 0#64,
    dbglval := 0#64, rescuing := none }

/-- A lane group or hub bridge after reset: Up (Tables 9-6, 9-8). -/
def lane : BridgeLane := { st := 0#2, crc := 0#16, crcTimes := [], retrainTimes := [] }

/-- The fabric after reset (Table 9-8). -/
def fabric : Fabric :=
  { llcen := Vector.replicate 2 true, groups := Vector.replicate 4 lane, detour := false, hubs := Vector.replicate 2 lane }

/-- A cluster after reset (Table 7-8): no image loaded. -/
def cluster : Cluster :=
  { bankuse := 0#2, phase := 0#3, abad := false, bbad := false, parcnt := 0#8, bankA := none, bankB := none, parityA := [], parityB := [] }

/-- An unused remap entry (Table 13-7). -/
def remapEntry : RemapEntry := { v := false, row := false, addr := 0, copying := false }

/-- A memory channel after reset (Tables 12-5, 13-7): Identify, nothing trained. -/
def channel : Channel :=
  { st := 1, retrain := false, rate := 0#3, x8 := false, ranks := 1, gib := 0, mode := 2#2, pos := 0, n := 0, base := 0,
    cap := 0, wm := 0, retryact := false, hot := false, refreshes := 0, postponed := 0, rfm := false, rfms := 0,
    delays := Vector.replicate 4 (0#64, 0#64), retrims := Vector.replicate 4 0, zqcals := Vector.replicate 4 0, rdq := [], wrq := [],
    waits := false, capar := 0#16,
    wcrc := 0#16, retryWcrc := false, selftest := 0#2, faildev := Vector.replicate 8 0, second := Vector.replicate 8 [],
    failovf := false, corr := 0#24, rebuilt := 0#16, poisoned := 0#16, recalled := 0#8, pfirq := false, ieirq := false,
    injctl := 0#64, injaddr := 0#64, agwm := 0, swen := true, boost := 0, lapmin := 1440, swpos := 0, suspects := [], lapClock := 0,
    lapms := 0#40, laps := 0#24, behind := false, remap := Vector.replicate 32 remapEntry, reapplied := 0#32,
    serial := 0#32, eflhead := 0#6, eflovf := false, efltail := 0#6,
    efl := Vector.replicate 64 { lines := 0, pa := 0#64, poison := 0#64 }, errs := [], pdiff := [], pcache := [],
    devTimes := [], rowTimes := [] }

/-- Regions and strengths after reset (Table 13-7): AGATEMAX and DEFS 4. -/
def integrity : Integrity :=
  { agatemax := 4, defs := 4, regions := Vector.replicate 64 { v := false, s := 0, base := 0, n := 0 }, conv := none }

/-- The journal sequencer after reset (Table 14-8); the first epoch is 1 by default. -/
def journal : Journal :=
  { jlen := 1000, role := 0, first := 1#48, epochs := [], err := false, detached := false, durable := 0#48,
    closed := 0#48, jcompl := 0#48, time := 0#64, src := 0#2, lock := false, offset := 0#32, slew := 0, prov := 0#48,
    restamp := 0#48, tgtbase := 0#64, tgtsize := 0, tgtdb := 0#64, tgthead := 0#64, tgtrel := 0#64, tgttmo := 10000,
    tgtrid := 0#16, rings := [], queue := [], kept := [], marks := [], voided := [], durableOf := [], rejoins := [],
    absentFrom := [], sync := none, stepped := false, settime := false, everAttached := false, frozen := false }

/-- A root port after reset (Table 15-6): completion timeout 50 ms. -/
def rootPort : RootPort := { present := false, l0 := false, rate := 0#3, width := 0#5, cto := 50#16, aer := 0#64 }

/-- The root complex, IOMMU and IRT after reset (Table 15-6). -/
def pcie : Pcie :=
  { bifurc := 0#8, ports := Vector.replicate 16 rootPort, ioctxbase := 0#52, invRid := 0#16, invAll := false,
    invBusy := false, fltbase := 0#52, fltsize := 12#5, flthead := 0#16, fltovf := false, flttail := 0#16, ctxs := [],
    iotlb := [], iowalk := [], irt := [], irtRest := 0#64, posted := [], completed := [] }

/-- A Volley port after reset (Table 16-6): Down, enabled. -/
def vport : VPort :=
  { st := 0, peer := 0#5, up := false, miswire := 0#3, crccnt := 0#16, retrains := 0#8, en := true, hold := false,
    naks := 0, txseq := 0, rxseq := 0, replay := [], waitq := [] }

/-- The Volley block after reset (Table 16-6). -/
def volley : Volley :=
  { node := 0#5, expect := 0#17, absentMs := 50, msgUs := 2000, present := 0#17, attached := false,
    ports := Vector.replicate 4 vport, sqbase := 0#52, sqsize := 12#5, sqhead := 0#15, sqtail := 0#15,
    wins := Vector.replicate 16 { base := 0#52, frames := 0, en := false, srcmask := 0#17, refused := 0#32 },
    descs := [], msgs := [], nextMsg := 0, frozen := [], sentTo := [], landedFrom := [], raises := [], sent := [] }

/-- A mailbox channel after reset (Table 17-8): owned by Monitor. -/
def mbox : Mbox :=
  { cmd := Vector.replicate 8 0#64, rsp := Vector.replicate 8 0#64, irqen := false, result := 0#8, active := false,
    done := false, owner := 3#64 }

/-- The default counting rules (Tables 13-6, 9-6, 11-6), as threshold and window in ns. -/
def rules : Vector (Nat × Nat) 5 :=
  #v[(16, 86400000000000), (3, 3600000000000), (64, 1000000), (4, 60000000000), (3, 1000000000)]

/-- Fisin after reset (Tables 17-5, 17-8). Flash reads erased, every fuse SVN is 0 and the four key slots are programmed
(DESIGN CHOICE, log entry 6). -/
def fisin : Fisin :=
  { rdy0 := 0#64, rdy1 := 0#64, fail0 := 0#64, fail1 := 0#64, lmap := Vector.replicate 48 0#8, lcount := 0,
    lvalid := false, chans := Vector.replicate 64 mbox, ext := mbox, bells := [], params := [], role := false,
    bootsrc := false, pairsafe := false, svn := Vector.replicate 3 0, keys := 15#4, flash := [], fwslot := false,
    bootslot := false, bootmap := false, fwver := 0, fwsvn := 0, cfgsvn := 0, fwnamed := false, bootnamed := false, ucimage := false, recordOk := false, pairsReleased := 0#24, staged := none, sram := [],
    flashlog := [], flushed := 0, seq := 0#32, rules := rules, repairs := [], stageOp := none, commitOp := none, verifyOp := none,
    verifyPeriod := 0, verifyDue := false, verifyRun := false, verifyFix := none, fwOp := none, swapOp := none, events := [], eventsOver := false, reqs := [], retrainOp := none,
    retireOp := none, dormantOp := none }

/-- A cluster's clock after reset (Table 18-7): 3.0 GHz. -/
def clock : Clock :=
  { req := 30, freq := 30, plancap := 30, thermcap := 30, mv := 0, busy := false, target := 30, waiting := none, gb := 0,
    cap := 30, pgb := 0, pcap := 30, pend := false, applying := none, planWait := false, phours := 0 }

/-- The power block after reset (Table 18-7). -/
def power : Power :=
  { tj := Vector.replicate 2 0#8, hot := Vector.replicate 2 false, pfail := Vector.replicate 2 false, hours := 0,
    wake0 := 0#64, wakeReason := 0#3, wakeValid := false, clocks := Vector.replicate 12 clock,
    mons := Vector.replicate 64 { slack := 0#16, floor := 0#16, drift := 0#16, reads := 0#16, points := [] } }

/-- The standby domain after a cold start (R422) and the pins out of reset. -/
def standby : Standby :=
  { vstby := true, token := 0#64, reason := 0#3, valid := false, armed := false, wakePending := false, pwrReq := true,
    pwrgood := true, resetN := true, faultN := false, thermtrip := false, perst := false, selfRefresh := false }

/-- DEVMODE after reset (Table 0-10): Staging. -/
def dev : Dev :=
  { mode := 1, ucode := false, fwswap := false, retrain := false, agate := false, cause := 0#2, die := 0#1 }

end Reset

/-- The device right after reset: RESET_N has risen and Staging begins (DEVMODE.MODE 1, R396). -/
def State.reset : State :=
  { cores := Vector.replicate 48 Reset.core, pairs := Vector.replicate 24 Reset.pair, mem := { bytes := [], tags := [] },
    llc := [], llclru := [], dir := [], fabric := Reset.fabric, clusters := Vector.replicate 12 Reset.cluster,
    chans := Vector.replicate 12 Reset.channel, integ := Reset.integrity, jrnl := Reset.journal, pcie := Reset.pcie,
    volley := Reset.volley, fisin := Reset.fisin, power := Reset.power, standby := Reset.standby, dev := Reset.dev, free := 0, now := 0,
    pending := [] }

end Sys2Proof.Machine
end

