-- ==== Sys2Proof/Machine/Ops.lean ====
section
/-! DEFINITION. How meanings are written: the step monad, the registers of a core, signatures and counters. -/

namespace Sys2Proof.Machine

/-- What an exception records (R170 step 3). -/
structure Exc where
  cause : BitVec 8
  info : Word
  faddr : Word
  fstat : Option (Pa × Bool)
  deriving DecidableEq, Repr

/-- Why an instruction does not retire. -/
inductive Stop where
  /-- It takes an exception through the HDT (R170). -/
  | exc (e : Exc)
  /-- It takes a tag trap (R91): its class, the SRCAF field when it is not the instruction's own (class 12), and the
  words copied to k0 and k1 when they are not the source registers' (R96, R267). -/
  | tag (cls : BitVec 5) (srcaf : Option Reg) (k : Option (TW × TW))
  /-- SAVE at FAULTDEPTH 1: a double-fault entry with WHY 3 (R176). -/
  | saveDepth
  /-- It cannot go on yet: nothing that it did stands, and the command is issued again later (R252, R283, R348). -/
  | hold
  /-- A queue of the checked pair is full: nothing that it did stands, and its window ends before it (R283). -/
  | full
  /-- An uncached access of a checked pair needs its window's verdict (R286): its address, size and store data. The registers and the
  gated stores of the attempt do not stand, and the instruction is issued again after the verdict. -/
  | access (va : Word) (n : Nat) (data : Option TW)
  /-- A read beyond a root port is issued and the core waits for its completion (R362, R364). -/
  | read (pa : Pa) (n : Nat)
  /-- It waits with the pc where it is; what it has done so far stands (JWAIT, TLBI, a window end at an interruption point). -/
  | wait
  /-- An event that is due is taken at the interruption point reached (R67, R68). -/
  | event
  /-- A debugger halt match (R304): the pair halts before the instruction. -/
  | halt
  deriving DecidableEq, Repr

/-- State transformers. -/
abbrev M := StateM State
/-- The execution of one instruction: it completes, or stops for a reason; what it changed before stopping stays. -/
abbrev Exec := ExceptT Stop M

/-- An exception with TRAPINFO and FADDR zero. -/
def exc0 (cause : BitVec 8) : Stop := .exc { cause := cause, info := 0#64, faddr := 0#64, fstat := none }
/-- An exception with TRAPINFO zero and FADDR an address. -/
def excA (cause : BitVec 8) (a : Word) : Stop := .exc { cause := cause, info := 0#64, faddr := a, fstat := none }
/-- An exception with TRAPINFO and FADDR. -/
def excI (cause : BitVec 8) (info a : Word) : Stop := .exc { cause := cause, info := info, faddr := a, fstat := none }

/-- Core `c`. -/
def State.core (s : State) (c : CoreId) : Core := unit s.cores c
/-- The state with core `c` replaced. -/
def State.setCore (s : State) (c : CoreId) (k : Core) : State := { s with cores := setUnit s.cores c k }
/-- The registers of core `c`. -/
def State.regs (s : State) (c : CoreId) : Regs := (s.core c).regs
/-- The state with the registers of core `c` replaced. -/
def State.setRegs (s : State) (c : CoreId) (r : Regs) : State := s.setCore c { s.core c with regs := r }
/-- The current context of a core's registers. -/
def Regs.ctx (r : Regs) : Ctx := unit r.banks r.cur
/-- Registers with the current context replaced. -/
def Regs.setCtx (r : Regs) (x : Ctx) : Regs := { r with banks := setUnit r.banks r.cur x }
/-- The current context of core `c`. -/
def State.ctx (s : State) (c : CoreId) : Ctx := (s.regs c).ctx
/-- Pair `p`. -/
def State.pair (s : State) (p : PairId) : Pair := unit s.pairs p
/-- The state with pair `p` replaced. -/
def State.setPair (s : State) (p : PairId) (x : Pair) : State := { s with pairs := setUnit s.pairs p x }

/-- The pair of a core (R15). -/
def pairOf (c : CoreId) : PairId := ⟨c.val / 2, Nat.div_lt_of_lt_mul (by have := c.isLt; omega)⟩
/-- The even (leading) core of a pair (R15). -/
def evenOf (p : PairId) : CoreId := ⟨p.val * 2, by have := p.isLt; omega⟩
/-- The odd (trailing) core of a pair (R15). -/
def oddOf (p : PairId) : CoreId := ⟨p.val * 2 + 1, by have := p.isLt; omega⟩
/-- Whether a core is its pair's odd one. -/
def isOdd (c : CoreId) : Bool := c.val % 2 = 1
/-- The die of a core (R15). -/
def dieOf (c : CoreId) : DieId := if c.val < 24 then 0 else 1
/-- The cluster of a core, die × 6 + cluster (R15, R206). -/
def clusterOf (c : CoreId) : CluId := ⟨c.val / 4, Nat.div_lt_of_lt_mul (by have := c.isLt; omega)⟩

/-- Read a core. -/
def getCore (c : CoreId) : M Core := do return (← get).core c
/-- Change a core. -/
def modCore (c : CoreId) (f : Core → Core) : M Unit := modify (fun s => s.setCore c (f (s.core c)))
/-- Read a core's registers. -/
def getRegs (c : CoreId) : M Regs := do return (← get).regs c
/-- Change a core's registers. -/
def modRegs (c : CoreId) (f : Regs → Regs) : M Unit := modify (fun s => s.setRegs c (f (s.regs c)))
/-- Read a core's current context. -/
def getCtx (c : CoreId) : M Ctx := do return (← get).ctx c
/-- Change a core's current context. -/
def modCtx (c : CoreId) (f : Ctx → Ctx) : M Unit := modRegs c (fun r => r.setCtx (f r.ctx))
/-- Read a pair. -/
def getPair (p : PairId) : M Pair := do return (← get).pair p
/-- Change a pair. -/
def modPair (p : PairId) (f : Pair → Pair) : M Unit := modify (fun s => s.setPair p (f (s.pair p)))

/-- Draw the next free word. -/
def drawWord : M Word := do
  let s ← get
  set { s with free := s.free + 1 }
  return Config.freeWord s.free

/-- Draw a free choice below `n` (`n` > 0). -/
def drawBelow (n : Nat) : M Nat := do
  let s ← get
  set { s with free := s.free + 1 }
  return Config.freeChoice s.free % n

/-- The least significant bit of a word, as a condition. -/
def Word.isSet (w : Word) (i : Nat) : Bool := w.getLsbD i

/-! ### Windows and registers (R45, R155, R177) -/

/-- The Shale key of kept (`i` < 8) or parameter (`i` 8–15) entry `i` of window `w`. -/
def shaleKey (w : BitVec 5) (i : Nat) : Nat := w.toNat * 16 + i

/-- A Shale entry. -/
def Ctx.entry (x : Ctx) (w : BitVec 5) (i : Nat) : TW := Tab.getD x.shale (shaleKey w i) TW.zero

/-- A context with a Shale entry written. -/
def Ctx.setEntry (x : Ctx) (w : BitVec 5) (i : Nat) (v : TW) : Ctx :=
  { x with shale := Tab.setD x.shale (shaleKey w i) v TW.zero }

/-- The register that field `f` names in window `w` of a context (Table 2-1). -/
def Ctx.readIn (x : Ctx) (w : BitVec 5) (f : Reg) : TW :=
  if h : f.toNat < 8 then x.globals.get ⟨f.toNat, h⟩
  else if f.toNat < 16 then x.entry (w - 1#5) f.toNat
  else if f.toNat < 24 then x.entry w (f.toNat - 16)
  else x.entry w (f.toNat - 16)

/-- A context with the register that field `f` names in window `w` written (Table 2-1). -/
def Ctx.writeIn (x : Ctx) (w : BitVec 5) (f : Reg) (v : TW) : Ctx :=
  if h : f.toNat < 8 then { x with globals := x.globals.set f.toNat v h }
  else if f.toNat < 16 then x.setEntry (w - 1#5) f.toNat v
  else x.setEntry w (f.toNat - 16) v

/-- A context with the kept and parameter entries of window `w` unset (R39, SAVE). -/
def Ctx.clearWindow (x : Ctx) (w : BitVec 5) : Ctx :=
  { x with shale := x.shale.filter (fun e => !decide (e.1 / 16 = w.toNat)) }

/-- The register that field `f` names now: at FAULTDEPTH 2, fields 16–31 name the fault bank and fields 8–15 the kept
entries of window CW (R177). -/
def Regs.read (r : Regs) (f : Reg) : TW :=
  let x := r.ctx
  if x.csw.fd = 2#2 then
    if h : 16 ≤ f.toNat then r.fault.get ⟨f.toNat - 16, by have := f.isLt; omega⟩
    else if 8 ≤ f.toNat then x.entry x.wstat.cw (f.toNat - 8)
    else x.readIn x.wstat.cw f
  else x.readIn x.wstat.cw f

/-- The registers with the one that field `f` names written. -/
def Regs.write (r : Regs) (f : Reg) (v : TW) : Regs :=
  let x := r.ctx
  if x.csw.fd = 2#2 then
    if h : 16 ≤ f.toNat then { r with fault := r.fault.set (f.toNat - 16) v (by have := f.isLt; omega) }
    else if 8 ≤ f.toNat then r.setCtx (x.setEntry x.wstat.cw (f.toNat - 8) v)
    else r.setCtx (x.writeIn x.wstat.cw f v)
  else r.setCtx (x.writeIn x.wstat.cw f v)

/-! ### Signatures of a checked pair (R282) -/

/-- SIG := ROTL(SIG, 7) XOR V XOR (T << 56) XOR (K << 61) (R282). -/
def foldSig (sig : Word) (k : Nat) (v : Word) (t : Nat) : Word :=
  rotl sig 7 ^^^ v ^^^ placed t 56 ^^^ placed k 61

/-- The last window of a list changed, the newest one. -/
def lastWindow (f : Window → Window) : List Window → List Window
  | [] => []
  | [w] => [f w]
  | w :: t => w :: lastWindow f t

/-- Whether core `c` leads a checked pair. -/
def State.leads (s : State) (c : CoreId) : Bool := (s.pair (pairOf c)).checked && !isOdd c

/-- Fold a retired event into the open window's signature when the core leads a checked pair (Table 11-3). -/
def foldEvent (c : CoreId) (k : Nat) (v : Word) (t : Nat) : M Unit := do
  let s ← get
  if s.leads c then
    modPair (pairOf c) (fun p => { p with windows := lastWindow (fun w =>
      { w with sig := foldSig w.sig k v t, writes := if k = 1 then w.writes + 1 else w.writes
               events := if p.heldmis then w.events ++ [{ k := k, v := v, t := t }] else w.events }) p.windows })

/-- Fold a system register's write (Table 11-3, K = 1). -/
def foldSys (c : CoreId) (v : Word) : M Unit := foldEvent c 1 v 0x05

/-- Fold the writes of several system registers, in order. -/
def foldAll (c : CoreId) : List Word → M Unit
  | [] => pure ()
  | v :: t => do
    foldSys c v
    foldAll c t

/-- Write a register: its new word, and a K = 1 event (Table 11-3). -/
def writeReg (c : CoreId) (f : Reg) (v : TW) : M Unit := do
  modRegs c (fun r => r.write f v)
  foldEvent c 1 v.val v.tag.toNat

/-- Read a register. -/
def readReg (c : CoreId) (f : Reg) : M TW := do return (← getRegs c).read f

/-- A write that the checkpoint log records and no event of Table 11-3 folds (Table 11-2). -/
def countWrite (c : CoreId) : M Unit := do
  if (← get).leads c then
    modPair (pairOf c) (fun p => { p with windows := lastWindow (fun w => { w with writes := w.writes + 1 }) p.windows })

/-- Set CSW.CC. It is no event of Table 11-3 (DEDUCED, log entry 12: K = 1 covers writes that name a register), and it enters the checkpoint log. -/
def setCc (c : CoreId) (cc : BitVec 2) : M Unit := do
  modCtx c (fun x => { x with csw := { x.csw with cc := cc } })
  countWrite c

/-! ### Performance counters (R305) -/

/-- The PMCTL bit that enables counting at a privilege (Table 11-14). -/
def pmPriv (ctl : Word) (priv : BitVec 2) : Bool :=
  if priv = 0#2 then ctl.getLsbD 9 else if priv = 1#2 then ctl.getLsbD 10 else ctl.getLsbD 11

/-- Counter `k` after `n` more events `ev` at privilege `priv`: it wraps at 2^48 and sets OVF (R305). -/
def PmCounter.count (k : PmCounter) (priv : BitVec 2) (ev n : Nat) : PmCounter :=
  if fieldN k.ctl 0 8 = ev ∧ ev ≠ 0 ∧ k.ctl.getLsbD 8 = true ∧ pmPriv k.ctl priv = true then
    { ctl := if 2 ^ 48 ≤ k.cnt.toNat + n then k.ctl ||| 0x1000#64 else k.ctl
      cnt := BitVec.ofNat 48 (k.cnt.toNat + n) }
  else k

/-- Count `n` events `ev` of core `c` (Table 11-16). -/
def pmEvent (c : CoreId) (ev : Nat) (n : Nat := 1) : M Unit :=
  modCore c (fun k => { k with pm := k.pm.map (fun p => p.count k.regs.ctx.csw.priv ev n) })

/-- The current privilege of core `c`. -/
def privOf (c : CoreId) : M (BitVec 2) := do return (← getCtx c).csw.priv

/-- An execution that never stops. -/
def lift {α : Type} (m : M α) : Exec α := ExceptT.lift m

/-- Stop when a condition fails. -/
def require (b : Bool) (e : Stop) : Exec Unit := if b then pure () else throw e

end Sys2Proof.Machine
end

