-- ==== Sys2Proof/Machine/Phys.lean ====
section
/-! DEFINITION. The units outside the cores: access, domain time, Fisin's log, IRT events, and the physical address map (R442, R307, R308). -/

namespace Sys2Proof.Machine

/-- Channel `ch`. -/
def State.chan (s : State) (ch : ChanId) : Channel := unit s.chans ch
/-- Change a channel. -/
def modChan (ch : ChanId) (f : Channel → Channel) : M Unit :=
  modify (fun s => { s with chans := setUnit s.chans ch (f (s.chan ch)) })
/-- Change the journal sequencer. -/
def modJ (f : Journal → Journal) : M Unit := modify (fun s => { s with jrnl := f s.jrnl })
/-- Change the root complex, IOMMU and IRT. -/
def modPcie (f : Pcie → Pcie) : M Unit := modify (fun s => { s with pcie := f s.pcie })
/-- Change the Volley block. -/
def modVolley (f : Volley → Volley) : M Unit := modify (fun s => { s with volley := f s.volley })
/-- Change Fisin. -/
def modFisin (f : Fisin → Fisin) : M Unit := modify (fun s => { s with fisin := f s.fisin })
/-- Change the power block. -/
def modPower (f : Power → Power) : M Unit := modify (fun s => { s with power := f s.power })
/-- Change the standby domain and the pins. -/
def modStandby (f : Standby → Standby) : M Unit := modify (fun s => { s with standby := f s.standby })
/-- Change DEVMODE. -/
def modDev (f : Dev → Dev) : M Unit := modify (fun s => { s with dev := f s.dev })
/-- Change a cluster's control store. -/
def modCluster (c : CluId) (f : Cluster → Cluster) : M Unit :=
  modify (fun s => { s with clusters := setUnit s.clusters c (f (unit s.clusters c)) })
/-- Change the fabric. -/
def modFabric (f : Fabric → Fabric) : M Unit := modify (fun s => { s with fabric := f s.fabric })

/-- JTIME (R342). -/
def jtime (s : State) : Word := s.jrnl.time

/-- Whether a bit of READYMAP word 0 is set (Table 17-5). -/
def State.ready0 (s : State) (i : Nat) : Bool := s.fisin.rdy0.getLsbD i
/-- Whether a bit of READYMAP word 1 is set (Table 17-5). -/
def State.ready1 (s : State) (i : Nat) : Bool := s.fisin.rdy1.getLsbD i

/-- A word with bit `i` set or cleared. -/
def withBit (w : Word) (i : Nat) (b : Bool) : Word := if b then w ||| placed 1 i else w &&& ~~~(placed 1 i)

/-- Set or clear a ready bit of READYMAP word 0. -/
def setReady0 (i : Nat) (b : Bool) : M Unit := modFisin (fun f => { f with rdy0 := withBit f.rdy0 i b })
/-- Set or clear a ready bit of READYMAP word 1. -/
def setReady1 (i : Nat) (b : Bool) : M Unit := modFisin (fun f => { f with rdy1 := withBit f.rdy1 i b })
/-- Set or clear a FAILED bit of READYMAP word 2. -/
def setFail0 (i : Nat) (b : Bool) : M Unit := modFisin (fun f => { f with fail0 := withBit f.fail0 i b })
/-- Set or clear a FAILED bit of READYMAP word 3. -/
def setFail1 (i : Nat) (b : Bool) : M Unit := modFisin (fun f => { f with fail1 := withBit f.fail1 i b })

/-- READYMAP.SETTLED (Table 17-5): each of bits [55:0] is ready or failed. -/
def Fisin.settled (f : Fisin) : Bool := (List.range 56).all (fun i => f.rdy0.getLsbD i || f.fail0.getLsbD i)

/-- DEVMODE as it reads (Table 0-10, R14). -/
def Dev.word (d : Dev) : Word :=
  placed d.mode 0 ||| bitAt d.ucode 4 ||| bitAt d.fwswap 5 ||| bitAt d.retrain 6 ||| bitAt d.agate 7 |||
  (if d.mode = 4 then placed d.cause.toNat 8 ||| placed d.die.toNat 10 else 0#64)

/-- Fisin with an entry appended to the error log, its SEQ the next (R410): the SRAM ring keeps the last 2,048. -/
def Fisin.append (f : Fisin) (e : LogEntry) : Fisin :=
  { f with
    sram := (if f.sram.length < 2048 then f.sram else f.sram.drop 1) ++ [{ e with seq := f.seq }]
    flushed := if f.sram.length < 2048 then f.flushed else f.flushed - 1
    seq := f.seq + 1#32 }

/-- Fisin with an event entered in the event FIFO, which has 256 entries (R427 step 3). -/
def Fisin.enqueue (f : Fisin) (e : FwEvent) : Fisin :=
  if f.events.length < 256 then { f with events := f.events ++ [e] } else { f with eventsOver := true }

/-- Whether events that need firmware are queued: a swap is active (R427) and the boot ROM has not taken over (R393). -/
def State.handover (s : State) : Bool := s.fisin.swapOp.isSome && !decide (s.dev.mode = 5)

/-- An event is logged to Fisin (R410), through the event FIFO while a swap is active (R427). -/
def fisinLog (u inst event : Nat) (d0 d1 : Word) : M Unit := modify (fun s =>
  let e : LogEntry := { time := s.jrnl.time, seq := 0#32, unit := u, inst := inst, event := event, d0 := d0, d1 := d1 }
  { s with fisin := if s.handover then s.fisin.enqueue (.log e) else s.fisin.append e })

/-- The counting window of the pair rally rule, in ns (R293). -/
def State.rallyRuleNs (s : State) : Nat := (s.fisin.rules.get 4).2

/-- An event arrives at IRT entry `i`: PEND := 1 (R373). -/
def fireIrt (i : Nat) : M Unit := modPcie (fun p => { p with irt := Tab.setD p.irt i (Tab.getD p.irt i p.irtRest ||| 0x8#64) p.irtRest })

/-- A counting rule over sliding windows (R339): the times of the last threshold-many events, and whether it fires. -/
def ruleCount (rule : Nat × Nat) (now : Nat) (times : List Nat) : List Nat × Bool :=
  let (th, win) := rule
  if th = 0 then ([], false)
  else
    let ts := (times ++ [now])
    let ts := ts.drop (ts.length - th)
    match ts with
    | old :: _ => if ts.length = th ∧ now - old ≤ win then ([], true) else (ts, false)
    | [] => ([], false)

/-! ### The physical address map -/

/-- What a physical address is (R442). -/
inductive PaKind where
  | memory (ch : ChanId)
  | dcs | ecam
  | outbound (port : PortId)
  | boot
  | nothing
  deriving DecidableEq, Repr

/-- Bytes of a GiB. -/
def oneGiB : Nat := 1073741824

/-- The channel and channel address of a PA within a channel set (R308). -/
def State.locate (s : State) (pa : Pa) : Option (ChanId × Nat) :=
  (List.finRange 12).findSome? (fun ch =>
    let k := s.chan ch
    let b := k.base * oneGiB
    if k.mode ≠ 2#2 ∧ b ≤ pa.toNat ∧ pa.toNat < b + k.n * k.cap * oneGiB ∧ (pa.toNat - b) / 4096 % k.n = k.pos then
      some (ch, (pa.toNat - b) / 4096 / k.n * 4096 + pa.toNat % 4096)
    else none)

/-- What a physical address is (R360, R398, R442, Table 0-7). -/
def State.paKind (s : State) (pa : Pa) : PaKind :=
  let a := pa.toNat
  if a / 2 ^ 28 = 0xFFF000 then .dcs
  else if a / 2 ^ 28 = 0xFFE000 then .ecam
  else if a / 2 ^ 48 = 0xE then
    .outbound ⟨a / 2 ^ 44 % 16, Nat.mod_lt _ (by decide)⟩
  else if a / 2 ^ 24 = 0xFFC0000 then .boot
  else match s.locate pa with
    | some (ch, _) => .memory ch
    | none => .nothing

/-- The first PA of the DCS window (Table 0-7). -/
def dcsBase : Pa := 0x000FFF0000000000#52

/-- The PA of a channel address of a data frame, by R308 read backwards. -/
def State.paOfChan (s : State) (ch : ChanId) (addr : Nat) : Nat :=
  let k := s.chan ch
  k.base * oneGiB + (addr / 4096 * k.n + k.pos) * 4096 + addr % 4096

/-- A memory frame that can be accessed now: its channel is Ready and it lies below the watermark (R311, R312). -/
def State.memReady (s : State) (pa : Pa) : Bool :=
  match s.locate pa with
  | some (ch, a) => decide ((s.chan ch).st = 3) && decide (a / 4096 < (s.chan ch).wm)
  | none => false

/-- The die of a channel (R306). -/
def dieOfChan (ch : ChanId) : DieId := if ch.val < 6 then 0 else 1

/-- The home die of a line (R236). Boot window lines have no channel and are taken as West (log entry 18). -/
def homeDie (s : State) (n : Nat) : DieId :=
  match s.locate (linePa n) with
  | some (ch, _) => dieOfChan ch
  | none => 0

/-- A die whose memory is lost: the device is Fenced with that die isolated (R256, R416). -/
def State.dieLost (s : State) (d : DieId) : Bool := decide (s.dev.mode = 4) && decide (s.dev.die.toNat = d.val)

/-- A byte of flash; an erased byte reads 0xFF (DESIGN CHOICE, log entry 6). -/
def Fisin.flashByte (f : Fisin) (a : Nat) : Byte := Tab.getD f.flash a 0xFF#8

/-- The flash offset of the boot firmware slot mapped at the boot window (Table 17-2). -/
def Fisin.bootBase (f : Fisin) : Nat := if f.bootslot then 0x1850000 else 0x850000

/-- A line of the boot window: bytes of the mapped slot, each word raw (DESIGN CHOICE, log entry 18). -/
def Fisin.bootLine (f : Fisin) (n : Nat) : Line := Vector.ofFn (fun i =>
  TW.raw (BitVec.ofNat 64 (ofBytes ((List.range 8).map (fun j =>
    f.flashByte (f.bootBase + (n * 64 + 8 * i.val + j) % 2 ^ 24))))))

/-- Whether a line lies in the boot window (R398). -/
def inBoot (n : Nat) : Bool := decide (n * 64 / 2 ^ 24 = 0xFFC0000)

/-- The window of ECAM and its port, when it names a root port's own bus (R360): bus 0, device p. -/
def ecamPort (pa : Pa) : Option PortId :=
  if pa.toNat / 2 ^ 20 % 256 = 0 then
    (if h : pa.toNat / 2 ^ 15 % 32 < 16 then some ⟨pa.toNat / 2 ^ 15 % 32, h⟩ else none)
  else none

/-- Whether a device window access is admitted at order 12 (R362, R402; boot window and ECAM: log entry 18). -/
def State.windowReady (s : State) (k : PaKind) : Bool :=
  match k with
  | .outbound p => s.ready1 p.val
  | .ecam => s.ready0 52
  | .boot => s.fisin.bootmap
  | _ => true

end Sys2Proof.Machine
end

