-- ==== Sys2Proof/Machine/Integrity.lean ====
section
/-! DEFINITION. The line code, Agate, remapping, counting rules and the reading of a DRAM line (13, R321–R340). -/

namespace Sys2Proof.Machine

/-! ### The field GF(2^8) of R321 -/

/-- x · a in GF(2^8) with the polynomial 0x11D. -/
def gfDouble (a : Nat) : Nat := if 128 ≤ a then (2 * a) ^^^ 0x11D else 2 * a

/-- a · b in GF(2^8), over `n` bits of b. -/
def gfMulN : Nat → Nat → Nat → Nat
  | 0, _, _ => 0
  | n + 1, a, b => (if b % 2 = 1 then a else 0) ^^^ gfMulN n (gfDouble a) (b / 2)

/-- a · b in GF(2^8). -/
def gfMul (a b : Nat) : Nat := gfMulN 8 a b

/-- a^n in GF(2^8). -/
def gfPow (a : Nat) : Nat → Nat
  | 0 => 1
  | n + 1 => gfMul a (gfPow a n)

/-- The inverse a^254 in GF(2^8), as seven squarings with products. -/
def gfInv (a : Nat) : Nat :=
  let a2 := gfMul a a
  let a4 := gfMul a2 a2
  let a8 := gfMul a4 a4
  let a16 := gfMul a8 a8
  let a32 := gfMul a16 a16
  let a64 := gfMul a32 a32
  let a128 := gfMul a64 a64
  gfMul (gfMul (gfMul a128 a64) (gfMul a32 a16)) (gfMul (gfMul a8 a4) a2)

/-- The locator α^(79 − s) of symbol position s (R321). -/
def locator (s : Nat) : Nat := gfPow 2 (79 - s)

/-- Add one error to a stored error pattern; positions rise and no entry is zero. -/
def addErr : List SymErr → SymErr → List SymErr
  | [], e => if e.bits = 0#8 then [] else [e]
  | f :: t, e =>
    if e.sym < f.sym then (if e.bits = 0#8 then f :: t else e :: f :: t)
    else if e.sym = f.sym then (if f.bits ^^^ e.bits = 0#8 then t else { sym := f.sym, bits := f.bits ^^^ e.bits } :: t)
    else f :: addErr t e

/-- Add errors to a stored error pattern. -/
def addErrs (l : List SymErr) (es : List SymErr) : List SymErr := es.foldl addErr l

/-- What erasure decoding over the 8 symbols of x4 device `d` leaves when the errors `es` lie elsewhere: the codeword that
agrees with the received word on every other position (the note after R323), as a difference from the true one. -/
def escape (d : Nat) (es : List SymErr) : List SymErr :=
  let pos := (List.range 8).map (fun i => 8 * d + i)
  let coeff (s j : Nat) : Nat := pos.foldl (fun acc i =>
    if i = j then acc else gfMul acc (gfMul (locator s ^^^ locator i) (gfInv (locator j ^^^ locator i)))) 1
  let at_ (j : Nat) : Nat := es.foldl (fun acc e => acc ^^^ gfMul e.bits.toNat (coeff e.sym j)) 0
  addErrs es (pos.map (fun j => { sym := j, bits := BitVec.ofNat 8 (at_ j) }))

/-- Syndrome k of an error pattern: its polynomial at α^k (R321). -/
def syndrome (es : List SymErr) (k : Nat) : Nat :=
  es.foldl (fun acc e => acc ^^^ gfMul e.bits.toNat (gfPow (locator e.sym) k)) 0

/-- Sum of two polynomials, lowest coefficient first. -/
def polyAdd : List Nat → List Nat → List Nat
  | [], b => b
  | a, [] => a
  | x :: a, y :: b => (x ^^^ y) :: polyAdd a b

/-- The value of a polynomial. -/
def polyAt (p : List Nat) (x : Nat) : Nat := p.foldr (fun c acc => c ^^^ gfMul x acc) 0

/-- The state of the search for the shortest error locator polynomial. -/
structure Shortest where
  c : List Nat
  prev : List Nat
  len : Nat
  gap : Nat
  last : Nat

/-- One syndrome more (Berlekamp and Massey). -/
def Shortest.next (syn : List Nat) (t : Shortest) (n : Nat) : Shortest :=
  let d := (List.range (t.len + 1)).foldl (fun acc i => acc ^^^ gfMul (t.c.getD i 0) (syn.getD (n - i) 0)) 0
  if d = 0 then { t with gap := t.gap + 1 }
  else
    let f := gfMul d (gfInv t.last)
    let c := polyAdd t.c (List.replicate t.gap 0 ++ t.prev.map (gfMul f))
    if 2 * t.len ≤ n then { c := c, prev := t.c, len := n + 1 - t.len, gap := 1, last := d } else { t with c := c, gap := t.gap + 1 }

/-- The values at the locators `xs` whose power sums are `syn`: the solution of as many equations as there are locators. -/
def solveAt (xs syn : List Nat) : List Nat := xs.map (fun x =>
  let p := xs.foldl (fun p y => if y = x then p else
    let q := gfInv (x ^^^ y)
    polyAdd (p.map (gfMul (gfMul q y))) (0 :: p.map (gfMul q))) [1]
  ((List.range p.length).map (fun k => gfMul (p.getD k 0) (syn.getD k 0))).foldl (· ^^^ ·) 0)

/-- The error pattern of at most 4 symbols that has the syndromes of `es`, if there is one: what decoding without erasures
corrects (R323 step 1). -/
def nearest (es : List SymErr) : Option (List SymErr) :=
  let syn := (List.range 8).map (syndrome es)
  let t := (List.range 8).foldl (Shortest.next syn) { c := [1], prev := [1], len := 0, gap := 1, last := 1 }
  let at_ := (List.range 80).filter (fun s => decide (polyAt t.c (gfInv (locator s)) = 0))
  if 4 < t.len ∨ at_.length ≠ t.len then none
  else
    let found := (at_.zip (solveAt (at_.map locator) syn)).map (fun j => ({ sym := j.1, bits := BitVec.ofNat 8 j.2 } : SymErr))
    if (List.range 8).all (fun k => decide (syndrome found k = syn.getD k 0)) then some found else none

/-! ### Geometry (R309, R322, R325) -/

/-- Groups of a channel: 2R. -/
def Channel.groups (k : Channel) : Nat := 2 * k.ranks

/-- Group lines that one frame's block takes: ⌈(64 + AGATEMAX) ÷ 2R⌉. -/
def Channel.perFrame (k : Channel) (agate : Nat) : Nat := (64 + agate + k.groups - 1) / k.groups

/-- F (R325): frames of visible capacity. -/
def Channel.frames (k : Channel) (agate : Nat) : Nat :=
  if k.gib = 0 then 0 else (k.gib * oneGiB - 1048576) / (64 * k.groups * k.perFrame agate)

/-- Lines of a row: 128 with x4 devices, 64 with x8 (R332). -/
def Channel.rowLines (k : Channel) : Nat := if k.x8 then 64 else 128

/-- First channel addresses of the parity and spare ranges (R309). -/
def parityBase : Nat := 0x8000000000
/-- First channel address of the spare range (R309). -/
def spareBase : Nat := 0xC000000000

/-- Where a channel address lies: its group and group line number (R309); none for an unused address. -/
def Channel.place (k : Channel) (agate addr : Nat) : Option (Nat × Nat) :=
  if addr < parityBase then
    if addr / 4096 < k.frames agate then
      some (addr / 64 % 64 % k.groups, addr / 4096 * k.perFrame agate + addr / 64 % 64 / k.groups)
    else none
  else if addr < spareBase then
    let f := (addr - parityBase) / 64 / 8
    let j := (addr - parityBase) / 64 % 8
    if f < k.frames agate ∧ j < agate then
      some ((64 + j) % k.groups, f * k.perFrame agate + (64 + j) / k.groups)
    else none
  else
    let s := (addr - spareBase) / 64
    if s < 16384 then
      some (s % k.groups, k.gib * oneGiB / (64 * k.groups) - 8192 / k.ranks + s / k.groups)
    else none

/-- Where a group line number lies in the DRAM devices of its group (R309). -/
structure DramAddr where
  bankGroup : Nat
  bank : Nat
  row : Nat
  column : Nat
  deriving DecidableEq, Repr

/-- The bank group, bank, row and column of a group line number (R309). -/
def Channel.dram (k : Channel) (gl : Nat) : DramAddr :=
  let b := gl / k.rowLines % 32
  { bankGroup := b % 8, bank := b / 8, row := gl / (32 * k.rowLines), column := gl % k.rowLines }

/-- The channel address of a group line, when the block uses it (R309 read backwards). -/
def Channel.unplace (k : Channel) (agate g gl : Nat) : Option Nat :=
  let f := gl / k.perFrame agate
  let i := gl % k.perFrame agate * k.groups + g
  let top := k.gib * oneGiB / (64 * k.groups) - 8192 / k.ranks
  if top ≤ gl then some (spareBase + 64 * ((gl - top) * k.groups + g))
  else if f < k.frames agate then
    if i < 64 then some (f * 4096 + i * 64)
    else if i < 64 + agate then some (parityBase + (8 * f + (i - 64)) * 64)
    else none
  else none

/-- The lines of the row of group line `gl`, ascending (R332): those that share its bank group, bank and row (`Channel.dram`), which is
what they have in common with `gl` div W. -/
def Channel.rowOf (k : Channel) (agate g gl : Nat) : List Nat :=
  (List.range k.rowLines).filterMap (fun i => k.unplace agate g (gl / k.rowLines * k.rowLines + i))

/-- The device of a symbol position (Table 13-1); `q` is the line's ordinal in its group. -/
def Channel.device (k : Channel) (q s : Nat) : Nat := if k.x8 then (s / 16 + q) % 5 else s / 8

/-- Whether remap entry `m` moves the line of a channel address, and to which line of its slot: a row's line keeps its column (R332). -/
def Channel.movedBy (k : Channel) (agate : Nat) (m : RemapEntry) (addr : Nat) : Option Nat :=
  if m.v && !m.copying then
    if m.row then
      match k.place agate m.addr, k.place agate addr with
      | some (g, gl), some (g', gl') =>
        if g = g' ∧ gl / k.rowLines = gl' / k.rowLines then some (gl' % k.rowLines) else none
      | _, _ => none
    else if m.addr = addr / 64 * 64 then some 0 else none
  else none

/-- The first line of slot e of the spare area (R332). -/
def slotBase (e : Nat) : Nat := spareBase + e * 32768

/-- The slot line that a channel address is moved to by an entry numbered `lo` or above: the latest one made, which has the highest number
(DESIGN CHOICE, log entry 88). -/
def Channel.slotOf (k : Channel) (agate lo addr : Nat) : Option (Nat × Nat) :=
  (List.finRange 32).reverse.findSome? (fun e =>
    if lo ≤ e.val then (k.movedBy agate (k.remap.get e) addr).map (fun i => (e.val, slotBase e.val + 64 * i)) else none)

/-- Where an access to a line goes, following entries numbered `lo` or above: a slot line that has been moved in turn is found at its own
slot. -/
def Channel.resolveFrom (k : Channel) (agate : Nat) : Nat → Nat → Nat → Nat
  | 0, _, addr => addr
  | n + 1, lo, addr =>
    match k.slotOf agate lo addr with
    | some (e, a) => k.resolveFrom agate n (e + 1) a
    | none => addr

/-- Where an access to a channel address goes (R332). -/
def Channel.resolve (k : Channel) (agate addr : Nat) : Nat := k.resolveFrom agate 32 0 (addr / 64 * 64)

/-- The line that the entry of a spare line's slot moved there. -/
def Channel.movedFrom (k : Channel) (agate loc : Nat) : Option Nat :=
  let i := (loc - spareBase) / 64
  let m := k.remap.toList.getD (i / 512) { v := false, row := false, addr := 0, copying := false }
  if !m.v || m.copying then none
  else if m.row then
    match k.place agate m.addr with
    | some (g, gl) => if i % 512 < k.rowLines then k.unplace agate g (gl / k.rowLines * k.rowLines + i % 512) else none
    | none => none
  else if i % 512 = 0 then some m.addr else none

/-- The data or parity line at the end of a chain of slots. -/
def Channel.origin (k : Channel) (agate : Nat) : Nat → Nat → Option Nat
  | 0, _ => none
  | n + 1, loc => match k.movedFrom agate loc with
    | none => none
    | some a => if a < spareBase then some a else k.origin agate n a

/-- The line whose place is a spare line; none for a spare line that no entry uses. -/
def Channel.owner (k : Channel) (agate loc : Nat) : Option Nat :=
  (k.origin agate 32 loc).filter (fun a => decide (k.resolve agate a = loc))

/-- Where a line lies now (R309, R326): its group, its ordinal q in the frame's block or, at a slot, in the spare area (DESIGN CHOICE, log
entry 88), and its group line number. -/
structure Spot where
  g : Nat
  q : Nat
  gl : Nat
  deriving DecidableEq, Repr

/-- Where the line of a channel address lies now. -/
def Channel.spot (k : Channel) (agate addr : Nat) : Spot :=
  let loc := k.resolve agate addr
  match k.place agate loc with
  | some (g, gl) => { g := g, q := if spareBase ≤ loc then (loc - spareBase) / 64 / k.groups else gl % k.perFrame agate, gl := gl }
  | none => { g := 0, q := 0, gl := 0 }

/-- Index i of a channel address in its frame's block (64 + j for parity line j), and its frame. -/
def blockIndex (addr : Nat) : Nat × Nat :=
  if addr < parityBase then (addr / 4096, addr / 64 % 64)
  else ((addr - parityBase) / 64 / 8, 64 + (addr - parityBase) / 64 % 8)

/-- The channel address of line i of frame f's block. -/
def blockAddr (f i : Nat) : Nat := if i < 64 then f * 4096 + i * 64 else parityBase + (8 * f + (i - 64)) * 64

/-! ### Strength (R324, R330) -/

/-- The strength that a region table gives the frame at a PA. -/
def strengthIn (regions : Vector Region 64) (defs pa : Nat) : Nat :=
  match (List.finRange 64).find? (fun r =>
      let g := regions.get r
      g.v && decide (g.base * oneGiB ≤ pa) && decide (pa < (g.base + g.n) * oneGiB)) with
  | some r => (regions.get r).s
  | none => defs

/-- The strength of frame `f` of a channel; frames at or above AGWM keep the old one during a conversion (R330). -/
def State.strength (s : State) (ch : ChanId) (f : Nat) : Nat :=
  let pa := s.paOfChan ch (f * 4096)
  match s.integ.conv with
  | some c =>
    if f < (s.chan ch).agwm then strengthIn s.integ.regions s.integ.defs pa
    else strengthIn (setUnit s.integ.regions c.region c.old) s.integ.defs pa
  | none => strengthIn s.integ.regions s.integ.defs pa

/-! ### Decoding (R323) -/

/-- How the line code decodes a stored line. -/
inductive Decoded where
  | clean
  | corrected
  /-- Decoded with the marked device erased, or to another codeword within 4 symbols: the difference from the true line that the
  decoder delivers. -/
  | erased (wrong : List SymErr)
  | failed
  deriving DecidableEq, Repr

/-- The decoder on an error pattern in a group (R323): 4 symbol errors are corrected, more of them to another codeword when one is
so near; else the marked x4 device is erased. Errors on a device that reached its threshold later are then not decoded
(R340); other errors escape (the note after R323). -/
def Channel.decode (k : Channel) (g : Nat) (es : List SymErr) : Decoded :=
  if es.isEmpty then .clean
  else if es.length ≤ 4 then .corrected
  else match nearest es with
  | some found => .erased (addErrs es found)
  | none =>
    let m := k.faildev.toList.getD g 0
    let later := k.second.toList.getD g []
    if m = 0 || k.x8 then .failed
    else
      let rest := es.filter (fun e => !decide (e.sym / 8 + 1 = m))
      if rest.isEmpty then .erased []
      else if rest.any (fun e => later.contains (e.sym / 8)) then .failed
      else .erased (escape (m - 1) rest)

/-! ### The page code (R326) -/

/-- Π(k = 0..S−1)(y + α^k), lowest coefficient first (R326). -/
def pageGen : Nat → List Nat
  | 0 => [1]
  | n + 1 => polyAdd (0 :: pageGen n) ((pageGen n).map (gfMul (gfPow 2 n)))

/-- y · r modulo the page code's generator. -/
def pageStep (gen r : List Nat) : List Nat := polyAdd (0 :: r.dropLast) ((gen.take r.length).map (gfMul (r.getLast?.getD 0)))

/-- y^n modulo the generator of strength S ≥ 1, as S coefficients. -/
def pageRem (S : Nat) : Nat → List Nat
  | 0 => 1 :: List.replicate (S - 1) 0
  | n + 1 => pageStep (pageGen S) (pageRem S n)

/-- The power of y that line i of a frame's block stands at: y^(S + i) for data line i, y^j for parity line j = i − 64 (R326). -/
def pagePos (S i : Nat) : Nat := if i < 64 then S + i else i - 64

/-- P_j[x] of R326 from D_0[x] to D_63[x]: the parity byte that makes the column a multiple of the generator. -/
def parityByte (S j : Nat) (column : List Nat) : Nat :=
  (column.zipIdx).foldl (fun acc d => acc ^^^ gfMul d.1 ((pageRem S (S + d.2)).getD j 0)) 0

/-- Line number (channel address / 64) of parity line j of frame f (R309). -/
def parityLineNo (f j : Nat) : Nat := parityBase / 64 + 8 * f + j

/-- The bits of symbol x in a pattern. -/
def bitsAt (es : List SymErr) (x : Nat) : Nat := ((es.find? (fun e => decide (e.sym = x))).map (·.bits.toNat)).getD 0

/-- How parity line j of frame f, in the cache or in DRAM, differs from the parity of the frame's data. -/
def Channel.parityDiff (k : Channel) (f j : Nat) : List SymErr :=
  match k.pcache.find? (fun p => decide (p.n = parityLineNo f j)) with
  | some p => p.diff
  | none => Tab.getD k.pdiff (parityLineNo f j) []

/-- Data line i of a frame of strength S comes to hold other bytes while its parity lines stay: they differ by that much more, wherever they
are held. -/
def Channel.shifted (k : Channel) (f S i : Nat) (es : List SymErr) : Channel :=
  let r := pageRem S (S + i)
  (List.range S).foldl (fun k j =>
    let n := parityLineNo f j
    let d := (es.filter (fun e => decide (e.sym < 72))).map (fun e => { sym := e.sym, bits := BitVec.ofNat 8 (gfMul e.bits.toNat (r.getD j 0)) })
    { k with pdiff := Tab.setD k.pdiff n (addErrs (Tab.getD k.pdiff n []) d) []
             pcache := k.pcache.map (fun p => if p.n = n then { p with diff := addErrs p.diff d } else p) }) k

/-- Apply a difference over symbol positions to a line's payload and tags (R321: m0–m63 payload bytes, m64–m71 tags). -/
def Line.flip (l : Line) (es : List SymErr) : Line :=
  es.foldl (fun l e =>
    if h : e.sym < 64 then
      let i : Fin 8 := ⟨e.sym / 8, by omega⟩
      let w := l.get i
      setUnit l i { w with val := w.val ^^^ placed e.bits.toNat (8 * (e.sym % 8)) }
    else if h2 : e.sym < 72 then
      let i : Fin 8 := ⟨e.sym - 64, by omega⟩
      let w := l.get i
      setUnit l i { w with tag := w.tag ^^^ e.bits }
    else l) l

/-- Byte x of a line as the columns of R326 number them: 64 payload bytes, then 8 tags. -/
def Line.column (l : Line) (x : Nat) : Byte :=
  if x < 64 then byteOf (l.toList.getD (x / 8) TW.zero).val (x % 8) else (l.toList.getD (x - 64) TW.zero).tag

/-- A line from its bytes in column order. -/
def Line.ofColumns (b : Nat → Nat) : Line := Vector.ofFn (fun i =>
  { tag := BitVec.ofNat 8 (b (64 + i.val)), val := BitVec.ofNat 64 (ofBytes ((List.range 8).map (fun j => BitVec.ofNat 8 (b (8 * i.val + j))))) })

/-- Data line i of frame f of a channel, as it is decoded. -/
def State.dataLine (s : State) (ch : ChanId) (f i : Nat) : Line := s.mem.line (s.paOfChan ch (f * 4096 + 64 * i) / 64)

/-- Parity line j of frame f as it is stored (R326): the parity of the frame's data lines, but for what it differs by; zero when j ≥ S. -/
def State.parityLine (s : State) (ch : ChanId) (f j : Nat) : Line :=
  let S := s.strength ch f
  if j < S then
    (Line.ofColumns (fun x => parityByte S j ((List.range 64).map (fun i => ((s.dataLine ch f i).column x).toNat)))).flip ((s.chan ch).parityDiff f j)
  else Line.ofColumns (fun _ => 0)

/-! ### Writing a line -/

/-- A line is written in DRAM with a new line code: no stored error stays, but an armed injection that names the line, or the line now
there, corrupts it and is spent (R309, R333). -/
def Channel.lineWritten (k : Channel) (agate loc : Nat) : Channel :=
  let armed := k.injctl.getLsbD 19 && decide (k.resolve agate k.injaddr.toNat = loc)
  let lo := fieldN k.injctl 8 7
  let es : List SymErr := if armed then
      ((List.range (fieldN k.injctl 16 3 + 1)).map (fun i => ({ sym := lo + i, bits := k.injctl.setWidth 8 } : SymErr))).filter (fun e => decide (e.sym < 80))
    else []
  { k with errs := Tab.setD k.errs (loc / 64) (addErrs [] es) []
           injctl := if armed then k.injctl &&& ~~~0x80000#64 else k.injctl }

/-- The controller writes the line of a channel address where it lies. -/
def writeStored (ch : ChanId) (addr : Nat) : M Unit := do
  let ag := (← get).integ.agatemax
  modChan ch (fun k => k.lineWritten ag (k.resolve ag addr))

/-- Data line i of frame f comes to hold other bytes than its parity stands for. -/
def flipData (ch : ChanId) (f i : Nat) (es : List SymErr) : M Unit := do
  if !es.isEmpty then
    let s ← get
    let n := s.paOfChan ch (f * 4096 + 64 * i) / 64
    set { s with mem := s.mem.setLine n ((s.mem.line n).flip es) }
    modChan ch (fun k => k.shifted f (s.strength ch f) i es)

/-- The controller writes parity line j of frame f so that it differs by `es` from the parity of the data: in the cache when it is there,
else in DRAM. -/
def setParity (ch : ChanId) (f j : Nat) (es : List SymErr) : M Unit := do
  let n := parityLineNo f j
  if ((← get).chan ch).pcache.any (fun p => decide (p.n = n)) then
    modChan ch (fun k => { k with pcache := k.pcache.map (fun p => if p.n = n then { p with dirty := true, diff := es } else p) })
  else
    modChan ch (fun k => { k with pdiff := Tab.setD k.pdiff n es [] })
    writeStored ch (64 * n)

/-- All parity lines of a frame are recomputed from its data lines and written. -/
def parityFresh (ch : ChanId) (f S : Nat) : M Unit := do
  for j in List.range S do setParity ch f j []

/-! ### Poison and the error frame list (R34, R334, R336) -/

/-- A poison payload (Table 1-6). -/
def poisonWord (s : State) (loc cls source : Nat) : Word :=
  placed (s.jrnl.time.toNat / 256 % 2 ^ 48) 0 ||| placed loc 48 ||| placed cls 56 ||| placed source 60

/-- A line of poison: eight words with one payload (R34). -/
def poisonLine (v : Word) : Line := Vector.replicate 8 { tag := 0x82#8, val := v }

/-- LOC of a memory location in group `g` of a channel (R34). -/
def memLoc (ch : ChanId) (g : Nat) : Nat := ch.val * 16 + g % 2 * 4 + g / 2

/-- Enter a frame in the error frame list (R336). -/
def eflEnter (ch : ChanId) (pa : Nat) (v : Word) : M Unit := modChan ch (fun k =>
  let frame : Word := BitVec.ofNat 64 (pa / 4096 * 4096)
  let live := (List.range 64).filter (fun i => decide ((BitVec.ofNat 6 i - k.efltail).toNat < (k.eflhead - k.efltail).toNat))
  match live.find? (fun i => decide ((k.efl.toList.getD i { lines := 0, pa := 0#64, poison := 0#64 }).pa = frame)) with
  | some i => { k with efl := Vector.ofFn (fun j => if j.val = i then { k.efl.get j with lines := min 255 ((k.efl.get j).lines + 1) } else k.efl.get j) }
  | none =>
    if k.eflhead + 1#6 = k.efltail then { k with eflovf := true }
    else { k with
      efl := Vector.ofFn (fun j => if j.val = k.eflhead.toNat then { lines := 1, pa := frame, poison := v } else k.efl.get j)
      eflhead := k.eflhead + 1#6 })

/-- Poison the data line at a channel address: its words, POISONED, the error frame list and the log (R334, R335). -/
def poisonMem (ch : ChanId) (cls source addr : Nat) : M Unit := do
  let s ← get
  let v := poisonWord s (memLoc ch ((s.chan ch).spot s.integ.agatemax addr).g) cls source
  let pa := s.paOfChan ch addr
  modify (fun s => { s with mem := s.mem.setLine (pa / 64) (poisonLine v) })
  writeStored ch addr
  modChan ch (fun k => { k with poisoned := k.poisoned + 1#16 })
  eflEnter ch pa v
  fisinLog 3 ch.val 3 v (BitVec.ofNat 64 pa)

/-! ### Counting rules and remapping (R332, R339, R340) -/

/-- REMAP[e] as it reads (Table 13-7). -/
def RemapEntry.word (m : RemapEntry) : Word := bitAt m.v 0 ||| bitAt m.row 1 ||| placed (m.addr / 64) 6

/-- Remap entries in use. -/
def Channel.used (k : Channel) : Nat := (k.remap.toList.filter (·.v)).length

/-- A line, or a row that has no entry yet, is remapped to the lowest free entry (R332). A line whose slot has failed takes a further
one. The entries go to flash under the DIMM's serial number (`State.afterReset`). -/
def remapAdd (ch : ChanId) (row : Bool) (addr : Nat) : M Unit := do
  let k := (← get).chan ch
  if row && k.remap.toList.any (fun m => m.v && m.row && decide (m.addr = addr)) then pure ()
  else
    match (List.finRange 32).find? (fun e => !(k.remap.get e).v) with
    | none =>
      fisinLog 3 ch.val 6 (BitVec.ofNat 64 addr) 0#64
      if k.ieirq then fireIrt (0x7CC + ch.val)
    | some e =>
      let m : RemapEntry := { v := true, row := row, addr := addr, copying := row }
      modChan ch (fun k => { k with remap := setUnit k.remap e m })
      fisinLog 3 ch.val 5 m.word 0#64

/-- Mark a device of a group, or record a later one (R339, R340). -/
def markDevice (ch : ChanId) (g d : Nat) : M Unit := do
  let k := (← get).chan ch
  if k.faildev.toList.getD g 0 = 0 then
    modChan ch (fun k => { k with faildev := Vector.ofFn (fun i => if i.val = g then d + 1 else k.faildev.get i) })
    fisinLog 3 ch.val 4 (placed g 0 ||| placed d 8) 0#64
  else if k.faildev.toList.getD g 0 = d + 1 then pure ()
  else
    modChan ch (fun k => { k with failovf := true, second := Vector.ofFn (fun i =>
      if i.val = g ∧ (k.second.get i).contains d = false then k.second.get i ++ [d] else k.second.get i) })

/-- A counting rule has fired: it is logged, and raises "integrity" when enabled (R339). -/
def ruleFired (rule inst : Nat) (ch : ChanId) : M Unit := do
  fisinLog 0 0 1 (placed rule 0) (BitVec.ofNat 64 inst)
  if ((← get).chan ch).ieirq then fireIrt (0x7CC + ch.val)

/-- The device rule fires for a source, group × 16 + device (Table 13-6). -/
def deviceFires (ch : ChanId) (key : Nat) : M Unit := do
  ruleFired 0 (ch.val * 256 + key) ch
  markDevice ch (key / 16) (key % 16)

/-- Count an event of time `at_` against a device (Table 13-6). -/
def countDevice (ch : ChanId) (g d at_ : Nat) : M Unit := do
  let s ← get
  let key := g * 16 + d
  let (ts, fire) := ruleCount (s.fisin.rules.get 0) at_ (Tab.getD (s.chan ch).devTimes key [])
  modChan ch (fun k => { k with devTimes := Tab.setD k.devTimes key ts [] })
  if fire then deviceFires ch key

/-- A corrected line counts against the devices of its corrected symbols (Table 13-6), through the event FIFO while a swap is active. -/
def countDevices (ch : ChanId) (g : Nat) : List Nat → M Unit
  | [] => pure ()
  | d :: t => do
    let s ← get
    if s.handover then modFisin (·.enqueue (.device ch g d s.now))
    else countDevice ch g d s.now
    countDevices ch g t

/-- The row rule fires for a source, row × 8 + group (Table 13-6): the row is remapped. -/
def rowFires (ch : ChanId) (key : Nat) : M Unit := do
  ruleFired 1 key ch
  let s ← get
  let k := s.chan ch
  match k.rowOf s.integ.agatemax (key % 8) (key / 8 * k.rowLines) with
  | a :: _ => remapAdd ch true a
  | [] => pure ()

/-- Count an event of time `at_` against the row where the line of a channel address lies (Table 13-6). -/
def countRowAt (ch : ChanId) (addr at_ : Nat) : M Unit := do
  let s ← get
  let k := s.chan ch
  let p := k.spot s.integ.agatemax addr
  let key := p.gl / k.rowLines * 8 + p.g
  let (ts, fire) := ruleCount (s.fisin.rules.get 1) at_ (Tab.getD k.rowTimes key [])
  modChan ch (fun k => { k with rowTimes := Tab.setD k.rowTimes key ts [] })
  if fire then rowFires ch key

/-- A changed device or row rule judges the times it has kept, source by source (R339). -/
def rejudge (rule : Nat × Nat) (fires : Nat → M Unit) (write : Nat → List Nat → M Unit) : List (Nat × List Nat) → M Unit
  | [] => pure ()
  | (key, ts) :: t => do
    let (ts', fire) := match ts.getLast? with
      | some last => ruleCount rule last ts.dropLast
      | none => ([], false)
    write key ts'
    if fire then fires key
    rejudge rule fires write t

/-- Rule 0 or 1 has changed: its kept times are judged in every channel (R339). -/
def rejudgeAll (rule : Nat) : M Unit := do
  for ch in List.finRange 12 do
    let s ← get
    if rule = 0 then
      rejudge (s.fisin.rules.get 0) (deviceFires ch) (fun key ts => modChan ch (fun k => { k with devTimes := Tab.setD k.devTimes key ts [] })) (s.chan ch).devTimes
    else if rule = 1 then
      rejudge (s.fisin.rules.get 1) (rowFires ch) (fun key ts => modChan ch (fun k => { k with rowTimes := Tab.setD k.rowTimes key ts [] })) (s.chan ch).rowTimes

/-- A corrected or undecodable line counts against its row (Table 13-6), through the event FIFO while a swap is active. -/
def countRow (ch : ChanId) (addr : Nat) : M Unit := do
  let s ← get
  if s.handover then modFisin (·.enqueue (.row ch addr s.now))
  else countRowAt ch addr s.now

/-- The running firmware acts on an event of the FIFO (R427 step 4). -/
def FwEvent.act : FwEvent → M Unit
  | .log e => modFisin (·.append e)
  | .device ch g d at_ => countDevice ch g d at_
  | .row ch addr at_ => countRowAt ch addr at_

/-- The running firmware acts on events, oldest first. -/
def actAll : List FwEvent → M Unit
  | [] => pure ()
  | e :: t => do
    e.act
    actAll t

/-- The running firmware drains the event FIFO; an overflow is then logged, with a code that Table 17-11 does not give: free values. -/
def drainEvents : M Unit := do
  let f := (← get).fisin
  modFisin (fun f => { f with events := [], eventsOver := false })
  actAll f.events
  if f.eventsOver then fisinLog 0 0 ((← drawWord).toNat % 65536) (← drawWord) (← drawWord)

/-- The devices that an error pattern touches, each once. -/
def Channel.touched (k : Channel) (q : Nat) (es : List SymErr) : List Nat :=
  (List.range 10).filter (fun d => es.any (fun e => decide (k.device q e.sym = d)))

/-! ### Decoding a line with the line code (R323) -/

/-- The error pattern stored for a channel address, at its slot when remapped. -/
def Channel.errAt (k : Channel) (agate addr : Nat) : List SymErr := Tab.getD k.errs (k.resolve agate addr / 64) []

/-- A corrected line is rewritten, and read back once with the errors `stuck` left (R323 step 3). `wrong` is what the decoder delivered
wrong. A read-back that is uncorrectable remaps the line, which is written to its slot from the corrected data (DEDUCED, log entry 88); with
no entry left it stays where it is. -/
def readBack (ch : ChanId) (addr : Nat) (wrong stuck : List SymErr) : M Unit := do
  let ag := (← get).integ.agatemax
  let (f, i) := blockIndex addr
  if addr < parityBase then flipData ch f i wrong
  else if addr < spareBase then
    modChan ch (fun k => { k with pdiff := Tab.setD k.pdiff (addr / 64) (addErrs (Tab.getD k.pdiff (addr / 64) []) (wrong.filter (fun e => decide (e.sym < 72)))) [] })
  writeStored ch addr
  let k := (← get).chan ch
  let loc := k.resolve ag addr
  let es := addErrs (Tab.getD k.errs (loc / 64) []) stuck
  modChan ch (fun k => { k with errs := Tab.setD k.errs (loc / 64) es [] })
  match k.decode (k.spot ag addr).g es with
  | .clean => pure ()
  | .failed =>
    remapAdd ch false (addr / 64 * 64)
    if ((← get).chan ch).resolve ag addr ≠ loc then
      modChan ch (fun k => { k with errs := k.errs.drop (loc / 64) })
      writeStored ch addr
  | _ => countRow ch addr

/-- Decode the line of a channel address with the line code, with errors found now and left at the read-back: none when that fails, else
whether it was corrected (R323 steps 1–3). Corrected and undecodable lines count (Table 13-6). -/
def lineDecode (ch : ChanId) (addr : Nat) (flips stuck : List SymErr) : M (Option Bool) := do
  let s ← get
  let ag := s.integ.agatemax
  let k := s.chan ch
  let p := k.spot ag addr
  let es := addErrs (k.errAt ag addr) flips
  modChan ch (fun k => { k with errs := Tab.setD k.errs (k.resolve ag addr / 64) es [] })
  match k.decode p.g es with
  | .clean => return some false
  | .corrected =>
    modChan ch (fun k => { k with corr := k.corr + 1#24 })
    countDevices ch p.g (k.touched p.q es)
    countRow ch addr
    readBack ch addr [] stuck
    return some true
  | .erased wrong =>
    -- the symbols that the decoder changes: none in a pattern that is a codeword itself
    let seen := addErrs es wrong
    if !seen.isEmpty then
      modChan ch (fun k => { k with corr := k.corr + 1#24 })
      countDevices ch p.g (k.touched p.q seen)
      countRow ch addr
    readBack ch addr wrong stuck
    return some (!seen.isEmpty)
  | .failed =>
    countRow ch addr
    return none

/-! ### Agate (R327) -/

/-- The parity cache holds a parity line of a frame. -/
def Channel.resident (k : Channel) (f i : Nat) : Bool := decide (64 ≤ i) && k.pcache.any (fun p => decide (p.n = parityLineNo f (i - 64)))

/-- Whether line i of frame f's block cannot be decoded. -/
def Channel.lost (k : Channel) (agate f i : Nat) : Bool :=
  !k.resident f i && decide (k.decode (k.spot agate (blockAddr f i)).g (k.errAt agate (blockAddr f i)) = .failed)

/-- The lines of a frame of strength S that cannot be decoded, by their index in the block. -/
def Channel.lostLines (k : Channel) (agate f S : Nat) : List Nat := (List.range (64 + S)).filter (k.lost agate f)

/-- What a column decode changes: bytes by line index, and the lines whose erased byte has no stated value. -/
structure Fix where
  bytes : List (Nat × Nat)
  loose : List Nat
  deriving DecidableEq, Repr

/-- The line and value of the one wrong byte that the modified syndromes `t` of a column show, when one does: a line outside `erased`. -/
def oneWrong (S : Nat) (erased t gam : List Nat) : Option (Nat × Nat) :=
  let x := gfMul (t.getD 1 0) (gfInv (t.getD 0 0))
  if t.getD 0 0 ≠ 0 ∧ (List.range (t.length - 1)).all (fun k => decide (t.getD (k + 1) 0 = gfMul x (t.getD k 0))) = true then
    match (List.range (64 + S)).find? (fun i => !erased.contains i && decide (gfPow 2 (pagePos S i) = x)) with
    | some i => some (i, gfMul (t.getD 0 0) (gfInv (polyAt gam x)))
    | none => none
  else none

/-- Decode column x of a frame of strength S whose lines `lost` could not be decoded (R327 steps 2 and 3): none when more than S bytes are
erased. In device mode the bytes off the marked device are as received. With at most S − 2 bytes erased one wrong byte is located; where the
column still disagrees, the spec states no value for the erased bytes (DESIGN CHOICE, log entry 88: free values). -/
def Channel.column (k : Channel) (agate f S : Nat) (lost : List Nat) (x : Nat) : Option Fix :=
  let erasedAt (i : Nat) : Bool :=
    let p := k.spot agate (blockAddr f i)
    let m := k.faildev.toList.getD p.g 0
    !k.x8 || decide (m = 0) || decide (k.device p.q x + 1 = m)
  let erased := lost.filter erasedAt
  let held := lost.filter (fun i => !erasedAt i)
  let err (i : Nat) : Nat := bitsAt (k.errAt agate (blockAddr f i)) x
  let loc (i : Nat) : Nat := gfPow 2 (pagePos S i)
  let syn := (List.range S).map (fun n =>
    (List.range S).foldl (fun acc j => acc ^^^ gfMul (bitsAt (k.parityDiff f j) x) (gfPow (gfPow 2 j) n)) 0 ^^^
    held.foldl (fun acc i => acc ^^^ gfMul (err i) (gfPow (loc i) n)) 0)
  if S < erased.length then none
  else
    let gam := erased.foldl (fun p i => polyAdd (p.map (gfMul (loc i))) (0 :: p)) [1]
    let t := (List.range (S - erased.length)).map (fun n =>
      (List.range gam.length).foldl (fun acc i => acc ^^^ gfMul (gam.getD i 0) (syn.getD (n + i) 0)) 0)
    let solved (syn : List Nat) : List (Nat × Nat) := erased.zip (solveAt (erased.map loc) syn)
    if t.all (fun v => decide (v = 0)) then some { bytes := solved syn ++ held.map (fun i => (i, err i)), loose := [] }
    else
      match if erased.length + 2 ≤ S then oneWrong S erased t gam else none with
      | some (i, e) =>
        let syn := syn.zipIdx.map (fun v => v.1 ^^^ gfMul e (gfPow (loc i) v.2))
        let rest := held.map (fun h => (h, if h = i then err h ^^^ e else err h))
        some { bytes := solved syn ++ rest ++ (if held.contains i then [] else [(i, e)]), loose := [] }
      | none => some { bytes := held.map (fun i => (i, err i)), loose := erased }

/-- Write what a list of column decodes changes, line by line; each line of `rebuilt` and each data line so found counts as rebuilt. -/
def applyFixes (ch : ChanId) (f : Nat) (rebuilt : List Nat) (fixes : List (Nat × Fix)) : M Unit := do
  let found := (List.range 72).filter (fun i => fixes.any (fun c => c.2.bytes.any (fun b => decide (b.1 = i ∧ b.2 ≠ 0))))
  for i in (List.range 72).filter (fun i => rebuilt.contains i || found.contains i) do
    let es := addErrs [] (fixes.filterMap (fun c => (c.2.bytes.find? (fun b => decide (b.1 = i))).map (fun b => ({ sym := c.1, bits := BitVec.ofNat 8 b.2 } : SymErr))))
    if i < 64 then
      flipData ch f i es
      writeStored ch (blockAddr f i)
    else
      let k := (← get).chan ch
      setParity ch f (i - 64) (addErrs (k.parityDiff f (i - 64)) es)
    if i < 64 || rebuilt.contains i then modChan ch (fun k => { k with rebuilt := k.rebuilt + 1#16 })

/-- A column decode whose erased bytes have no stated value takes free ones. -/
def Fix.draw (x : Fix) : M Fix := do
  let mut bytes := x.bytes
  for i in x.loose do bytes := bytes ++ [(i, fieldN (← drawWord) 0 8)]
  return { bytes := bytes, loose := [] }

/-- Rebuild a frame's undecodable lines, line `asked` among them; whether it succeeded (R327). The controller reads and decodes the frame's
other lines first. -/
def agateRebuild (ch : ChanId) (f S asked : Nat) : M Bool := do
  if S = 0 then return false
  for i in (List.range (64 + S)).filter (fun i => !decide (i = asked)) do
    if !((← get).chan ch).resident f i then let _ ← lineDecode ch (blockAddr f i) [] []
  let s ← get
  let k := s.chan ch
  let ag := s.integ.agatemax
  let lost := k.lostLines ag f S
  let cols := (List.range 72).map (k.column ag f S lost)
  if cols.all Option.isSome then
    let fixes ← (cols.filterMap id).zipIdx.mapM (fun c => do return (c.2, ← c.1.draw))
    applyFixes ch f lost fixes
    return true
  else return false

/-! ### Reading a line (R323, R334) -/

/-- The CLASS of an uncorrectable line in a frame of strength S (R334). -/
def Channel.cls (k : Channel) (g S : Nat) : Nat :=
  if S ≠ 0 then 3 else if k.faildev.toList.getD g 0 = 0 then 1 else 2

/-- The line at a channel address stays unknown, and with it every undecodable line of its frame (R327 step 5): `lose cls addr` says what
becomes of a data line. Parity lines are recomputed from the frame's data lines, and those that were undecodable count as rebuilt (R335). -/
def loseLine (ch : ChanId) (addr : Nat) (lose : Nat → Nat → M Unit) : M Unit := do
  let s ← get
  let k := s.chan ch
  let (f, i) := blockIndex addr
  let S := s.strength ch f
  if S = 0 then
    if i < 64 then lose (k.cls (k.spot s.integ.agatemax addr).g 0) addr
  else
    let lost := k.lostLines s.integ.agatemax f S
    for i in lost.filter (fun i => decide (i < 64)) do lose 3 (blockAddr f i)
    parityFresh ch f S
    modChan ch (fun k => { k with rebuilt := k.rebuilt + BitVec.ofNat 16 (lost.filter (fun i => decide (64 ≤ i))).length })

/-- What decoding a line at a channel address does: corrects and rewrites it, rebuilds it, or reports it uncorrectable (R323, R327, R338).
The answer is whether the line was corrected or erasure-decoded, and whether it is uncorrectable. An undecodable line in a spare slot that
is not in use, or in a reserved parity line j ≥ S, is rewritten as zero (R335). -/
def decodeStored (ch : ChanId) (addr : Nat) (flips stuck : List SymErr) : M (Bool × Bool) := do
  match ← lineDecode ch addr flips stuck with
  | some fixed => return (fixed, false)
  | none =>
    let (f, i) := blockIndex addr
    let S := (← get).strength ch f
    if spareBase ≤ addr then
      writeStored ch addr
      return (false, false)
    else if 64 + S ≤ i then
      modChan ch (fun k => { k with pdiff := k.pdiff.drop (addr / 64) })
      writeStored ch addr
      return (false, false)
    else
      let ok ← agateRebuild ch f S i
      return (false, !ok)

/-- The copy of a remapped row (R332): each of its lines is read with full decoding and rebuilding where it lies and written to the slot. A
line that cannot be rebuilt is copied as poison: the spec gives no SOURCE for it, and it takes 0 (DESIGN CHOICE, log entry 88). -/
def rowCopy (ch : ChanId) (e : Fin 32) : M Unit := do
  let s ← get
  let ag := s.integ.agatemax
  let k := s.chan ch
  let m := k.remap.get e
  if m.v && m.copying then
    let (g, gl) := (k.place ag m.addr).getD (0, 0)
    let lines := (k.rowOf ag g gl).filterMap (fun a => if a < spareBase then some a else k.owner ag a)
    for a in lines do
      let (_, bad) ← decodeStored ch a [] []
      if bad then loseLine ch a (fun cls b => poisonMem ch cls 0 b)
    modChan ch (fun k => { k with remap := setUnit k.remap e { m with copying := false } })
    for a in lines do writeStored ch a

/-- Decode a line. A row being copied is finished first: its requests wait for the copy (R332). -/
def decodeLine (ch : ChanId) (addr : Nat) (flips stuck : List SymErr) : M (Bool × Bool) := do
  for e in List.finRange 32 do
    let s ← get
    let k := s.chan ch
    let m := k.remap.get e
    if m.v && m.copying then
      let p := k.spot s.integ.agatemax addr
      let (g, gl) := (k.place s.integ.agatemax m.addr).getD (0, 0)
      if g = p.g ∧ gl / k.rowLines = p.gl / k.rowLines then rowCopy ch e
  decodeStored ch addr flips stuck

/-- A request of line `n` reaches a channel whose controller has stopped issuing: it takes a queue entry when one is free, and the command
that needs it waits (R313, R317). -/
def Channel.queued (k : Channel) (write : Bool) (n : Nat) : Channel :=
  if write then { k with waits := true, wrq := if k.wrq.contains n ∨ 64 ≤ k.wrq.length then k.wrq else k.wrq ++ [n] }
  else { k with waits := true, rdq := if k.rdq.contains n ∨ 128 ≤ k.rdq.length then k.rdq else k.rdq ++ [n] }

/-- A demand read, fill or fetch of the data line at a PA line number, with errors found now and left at the read-back
(R323, R334). -/
def chanRead (n : Nat) (flips stuck : List SymErr) : M Line := do
  let s ← get
  match s.locate (linePa n) with
  | none => return s.mem.line n
  | some (ch, a) =>
    if (s.chan ch).retryact then
      modChan ch (·.queued false n)
      return s.mem.line n
    else
      let (_, bad) ← decodeLine ch a flips stuck
      if bad then loseLine ch a (fun cls b => poisonMem ch cls 0 b)
      return (← get).mem.line n

/-- The data of line `n` from memory, or from the boot window (R398). -/
def dramRead (n : Nat) : M Line := do
  if inBoot n then return (← get).fisin.bootLine n
  else chanRead n [] []

/-! ### Writing a line (R328) -/

/-- Parity line j of frame f enters the parity cache, or moves to its recent end: 16 ways of 32 sets, least recently used out and written
back when dirty (R328). -/
def pcacheUse (ch : ChanId) (f j : Nat) (dirty : Bool) : M Unit := do
  let n := parityLineNo f j
  let k := (← get).chan ch
  match k.pcache.find? (fun p => decide (p.n = n)) with
  | some p => modChan ch (fun k => { k with pcache := k.pcache.filter (fun p => !decide (p.n = n)) ++ [{ p with dirty := p.dirty || dirty }] })
  | none =>
    let set_ := k.pcache.filter (fun p => decide (p.n % 32 = n % 32))
    match if set_.length < 16 then none else set_.head? with
    | some v =>
      modChan ch (fun k => { k with pcache := k.pcache.filter (fun p => !decide (p.n = v.n)) })
      if v.dirty then
        modChan ch (fun k => { k with pdiff := Tab.setD k.pdiff v.n v.diff [] })
        writeStored ch (64 * v.n)
    | none => pure ()
    modChan ch (fun k => { k with pcache := k.pcache ++ [{ n := n, dirty := dirty, diff := Tab.getD k.pdiff n [] }] })

/-- Parity line j of frame f is updated for a write of one of its data lines (R328 step 2): one that misses is read into the cache first, and
recomputed when it cannot be decoded or rebuilt (R335). -/
def parityUpdate (ch : ChanId) (f j : Nat) : M Unit := do
  if !((← get).chan ch).resident f (64 + j) then
    let (_, bad) ← decodeLine ch (64 * parityLineNo f j) [] []
    if bad then loseLine ch (64 * parityLineNo f j) (fun cls b => poisonMem ch cls 5 b)
  pcacheUse ch f j true

/-- A line write at the controller (R328): the old line is decoded and rebuilt when parity needs it, the parity follows, the
new line is written with a new line code. When the old line cannot be rebuilt, the parity is recomputed from the data lines, and those that
cannot be rebuilt become poison with SOURCE 5. -/
def chanWrite (n : Nat) (l : Line) : M Unit := do
  let s ← get
  match s.locate (linePa n) with
  | none => modify (fun s => { s with mem := s.mem.setLine n l })
  | some (ch, a) =>
    if (s.chan ch).retryact then modChan ch (·.queued true n)
    else
      let f := a / 4096
      let S := s.strength ch f
      if S ≠ 0 then
        let (_, bad) ← decodeLine ch a [] []
        if bad then loseLine ch a (fun cls b => if b = a / 64 * 64 then pure () else poisonMem ch cls 5 b)
        for j in List.range S do
          if bad then pcacheUse ch f j true else parityUpdate ch f j
      modify (fun s => { s with mem := s.mem.setLine n l })
      writeStored ch a

/-- A line write-back to memory. The boot window takes none (R398). -/
def dramWrite (n : Nat) (l : Line) : M Unit := do
  if inBoot n then pure () else chanWrite n l

end Sys2Proof.Machine
end

