-- ==== Sys2Proof/Machine/Windows.lean ====
section
/-! DEFINITION. Check windows of a checked pair: positions, the load value queue, the delivery log, window ends and interruption points (11, R277–R283, R288). -/

namespace Sys2Proof.Machine

/-! ### Positions and windows (R277–R283) -/

/-- A position, packed as MISINFO packs it: N, then U (Table 11-11). -/
def posWord (p : BitVec 48 × Nat) : Word := p.1.setWidth 64 ||| placed (p.2 % 256) 48

/-- Whether a position lies before another. -/
def posLt (a b : BitVec 48 × Nat) : Bool :=
  decide (a.1.toNat < b.1.toNat) || (decide (a.1 = b.1) && decide (a.2 < b.2))

/-- The position of a core (R277). -/
def Regs.pos (r : Regs) : BitVec 48 × Nat := (r.posN, r.posU)

/-- The window that is open, when the last one has not ended. -/
def Pair.current (q : Pair) : Option Window :=
  match q.windows.getLast? with
  | some w => if w.ended.isNone then some w else none
  | none => none

/-- Change the window that is open. -/
def modWindow (p : PairId) (f : Window → Window) : M Unit :=
  modPair p (fun q => { q with windows := lastWindow (fun w => if w.ended.isNone then f w else w) q.windows })

/-- What a checkpoint keeps of a pair beside its leading core's registers (R291). -/
def State.side (s : State) (p : PairId) : Side :=
  let q := s.pair p
  let k := s.core (evenOf p)
  { slip := q.slipNext, winlen := q.winlenNext, l2en := k.l2en, vcen := k.vcen, lockD := k.lockD, lockI := k.lockI
    pmctl := k.pm.map (·.ctl) }

/-- A new window at the leading core's position (R280). SLIP and WINLEN take effect at a window start (R278). -/
def State.newWindow (s : State) (p : PairId) : Window :=
  let r := s.regs (evenOf p)
  { startN := r.posN, startU := r.posU, checkpoint := r, side := s.side p, sig := 0#64, gate := [], loads := [], logged := 0
    writes := 0, retired := 0, events := [], ended := none, access := false, line := none, goal := none }

/-- Open a window when none is open. At most two are unreleased, and none opens at a stop or while the pair is held (R283,
R204, R301): the answer says whether the leading core may go on. -/
def windowForNext (p : PairId) : M Bool := do
  let s ← get
  let q := s.pair p
  if q.heldmis then
    -- a held pair re-executes one position, in a window of its own beside the one under replay
    if !(q.dbgreplay && q.stepping) then return false
    else if q.current.isSome then return true
    else if 2 ≤ q.windows.length || q.windows.any (fun w => decide (w.goal = some (s.regs (evenOf p)).pos)) then return false
    else
      modPair p (fun q => { q with windows := q.windows ++ [s.newWindow p] })
      return true
  else if q.current.isSome then return true
  else if 2 ≤ q.windows.length || q.stopDue.isSome then return false
  else
    modPair p (fun q => { q with windows := q.windows ++ [s.newWindow p], slip := q.slipNext, winlen := q.winlenNext })
    return true

/-- Whether core `c` may go on as far as windows tell: the leading core of a checked pair has or opens one, any other core needs none. -/
def windowReady (c : CoreId) : M Bool := do
  if (← get).leads c then windowForNext (pairOf c)
  else return true

/-- The open window ends at the leading core's position (R280). -/
def endWindow (p : PairId) : M Unit := do
  let r := (← get).regs (evenOf p)
  modWindow p (fun w => { w with ended := some r.pos })

/-- Append to the delivery log of a leading core (R288). -/
def logDelivery (c : CoreId) (d : Delivered) : M Unit := do
  let s ← get
  if s.leads c then
    let r := s.regs c
    modPair (pairOf c) (fun p => { p with
      dlog := p.dlog ++ [{ n := r.posN, u := r.posU, what := d }]
      windows := lastWindow (fun w => { w with logged := w.logged + 1 }) p.windows })

/-- Whether the open window of a rally has still to reach the end it had before (R291). -/
def Pair.rerunning (q : Pair) : Bool :=
  match q.current with
  | some w => w.goal.isSome
  | none => false

/-! ### Stops (R204, R256, R280, R294, R300) -/

/-- The pair or core stops for a retirement or a triple fault (R294 step 1, R297): a checked pair undoes to its last
released checkpoint, and Fisin will write the rescue area. `cores` has bit 0 for the even core and bit 1 for the odd one. -/
def beginRetire (p : PairId) (cores : BitVec 2) (reason : BitVec 4) : M Unit := do
  let q ← getPair p
  if q.checked then
    match q.windows with
    | w :: _ => modRegs (evenOf p) (fun _ => w.checkpoint)
    | [] => pure ()
  let stop (c : CoreId) : M Unit := modCore c (fun k => { k with run := .retiring, tlbi := none, jwait := none, kept := [], used := 0 })
  if cores.getLsbD 0 then stop (evenOf p)
  if cores.getLsbD 1 then stop (oddOf p)
  modPair p (fun q => { q with
    windows := [], replay := [], retryHold := false, mismatched := none, cleared := none, winend := false, stopDue := none, bank := none
    hard := q.hard || (q.checked && !decide (reason = 4#4)), reason := reason
    rescuing := match q.rescuing with
      | some (old, r) => some (old ||| cores, if reason = 4#4 then r else reason)
      | none => some (cores, reason) })

/-- A stop at the leading core's position: 0 microcode commit, 1 Fenced, 2 debugger (R280, R288 type 5). The window that a rally
re-executes goes on to the end it had before (R291). -/
def stopPair (p : PairId) (kind : Nat) : M Unit := do
  if !(← getPair p).rerunning then
    logDelivery (evenOf p) (.stop kind)
    endWindow p
  modPair p (fun q => { q with stopDue := some kind })

/-- A stop that every verdict covers takes effect: the pair goes on with the bank that its cluster now gives (R204), is retired (R256,
Table 11-6), or is halted (R300). Its entry leaves the delivery log. -/
def applyStop (p : PairId) : M Unit := do
  let q ← getPair p
  if q.windows.isEmpty && q.stopDue.isSome then
    modPair p (fun q => { q with stopDue := none, bank := none, dlog := q.dlog.filter (fun e => match e.what with
      | .stop _ => false
      | _ => true) })
    if q.stopDue = some 2 then
      modPair p (fun q => { q with halted := true, stepping := false })
      modCore (evenOf p) (fun k => { k with run := .halted })
    else if q.stopDue = some 1 then beginRetire p 3#2 6#4

/-- The debugger halts a pair (R300): a checked pair at its next window end, split cores at once. -/
def haltPair (p : PairId) : M Unit := do
  let q ← getPair p
  modPair p (fun q => { q with dbghalt := true })
  if q.checked then
    let run := ((← get).core (evenOf p)).run
    if (decide (run = .running) || decide (run = .rallying)) && q.stopDue.isNone && !q.heldmis then
      stopPair p 2
      applyStop p
  else
    for c in [evenOf p, oddOf p] do
      modCore c (fun k => if k.run = .running then { k with run := .halted } else k)
    modPair p (fun q => { q with halted := true, stepping := false })

/-- The debugger lets a halted pair run on. -/
def resumePair (p : PairId) : M Unit := do
  modPair p (fun q => { q with dbghalt := false, halted := false, stopDue := if q.stopDue = some 2 then none else q.stopDue })
  for c in [evenOf p, oddOf p] do
    modCore c (fun k => if k.run = .halted then { k with run := .running } else k)

/-! ### Window ends and interruption points -/

/-- Whether the open window began where the leading core stands. -/
def State.freshWindow (s : State) (p : PairId) : Bool :=
  match (s.pair p).current with
  | some w => decide (w.startN = (s.regs (evenOf p)).posN) && decide (w.startU = (s.regs (evenOf p)).posU)
  | none => false

/-- Whether a window must end where the leading core stands (Table 11-2, R291). -/
def Window.mustEnd (w : Window) (winlen : Nat) (pos : BitVec 48 × Nat) : Bool :=
  match w.goal with
  | some g => decide (g = pos) && !w.access
  | none => decide (winlen ≤ w.retired) || decide (64 ≤ w.gate.length) || decide (256 ≤ w.loads.length) || decide (30 ≤ w.logged) ||
      decide (1024 ≤ w.writes) || w.line.isSome

/-- End the open window of a checked pair when a condition of Table 11-2 holds. -/
def checkWindow (c : CoreId) : M Unit := do
  let s ← get
  let p := pairOf c
  if s.leads c then
    match (s.pair p).current with
    | some w =>
      if w.mustEnd (s.pair p).winlen.toNat (s.regs c).pos || ((s.pair p).winend && w.goal.isNone) then
        let stop := if w.goal.isSome then (s.pair p).stopDue else none
        match stop with
        | some k => logDelivery c (.stop k)
        | none => pure ()
        modPair p (fun q => { q with winend := false })
        endWindow p
    | none => pure ()

/-- The window of a checked pair ends before the instruction at the boundary, unless it begins there. -/
def endBefore (c : CoreId) : M Unit := do
  if !(← get).freshWindow (pairOf c) then endWindow (pairOf c)

/-- A part of an instruction between two interruption points (R162, R281): when it cannot go on, what it did does not stand, and the
instruction stands at the point before it. -/
def between {α : Type} (c : CoreId) (m : Exec α) : Exec α := do
  let s ← get
  tryCatch m (fun e => do
    match e with
    | .hold => do
      set s
      throw .wait
    | .full => do
      set s
      lift (endBefore c)
      throw .wait
    | e => throw e)

/-- The instruction at the boundary is over, or has reached an interruption point: what its attempts had taken is forgotten. -/
def forget (c : CoreId) : M Unit := modCore c (fun k => { k with kept := [], used := 0 })

/-- `n` interruption points are completed (R277). A check window that ends there must be released before the instruction goes
on (R281); while a held pair re-executes position by position (R301), each point ends its window. -/
def points (c : CoreId) (n : Nat) : Exec Unit := do
  lift (modRegs c (fun r => { r with posU := r.posU + n }))
  lift (forget c)
  if (← get).leads c then
    if ((← get).pair (pairOf c)).heldmis then
      lift (endWindow (pairOf c))
      throw .wait
    lift (checkWindow c)
  let q := (← get).pair (pairOf c)
  if q.stepping && !q.heldmis && !q.rerunning then
    lift (haltPair (pairOf c))
    throw .wait
  if (← get).leads c then
    let ok ← lift (windowForNext (pairOf c))
    require ok .wait

/-! ### The delivery log (R288–R290) and the inputs of an instruction (R276, R286) -/

/-- Entries of the delivery log that ordinary events may use: four of the 64 are reserved (R290). -/
def dlogRoom : Nat := 60

/-- The next logged event that a rally replays at core `c`'s position (R289). -/
def State.replayHead (s : State) (c : CoreId) : Option Delivered :=
  let r := s.regs c
  if s.leads c then
    match (s.pair (pairOf c)).replay with
    | e :: _ => if e.n = r.posN ∧ e.u = r.posU then some e.what else none
    | [] => none
  else none

/-- The replayed event is applied: it leaves the replay. -/
def dropReplay (c : CoreId) : M Unit := modPair (pairOf c) (fun q => { q with replay := q.replay.drop 1 })

/-- Whether a logged event gives the value that an access or an input read takes: an uncached value, or register `reg`'s. -/
def Delivered.gives (d : Delivered) (reg : Option (BitVec 12)) : Option TW :=
  match d, reg with
  | .uncached w, none => some w
  | .input m w, some n => if m = n then some w else none
  | _, _ => none

/-- A value that an earlier attempt of the instruction has taken, or that a rally replays (R286, R289); none when it has still to be taken. -/
def takeKept (c : CoreId) (reg : Option (BitVec 12)) : M (Option TW) := do
  let s ← get
  let k := s.core c
  match k.kept[k.used]? with
  | some w =>
    modCore c (fun k => { k with used := k.used + 1 })
    return some w
  | none =>
    match (s.replayHead c).bind (fun d => d.gives reg) with
    | some w =>
      dropReplay c
      modCore c (fun k => { k with kept := k.kept ++ [w], used := k.used + 1 })
      return some w
    | none => return none

/-- A value has been taken: later attempts of the instruction use it again. -/
def keep (c : CoreId) (w : TW) : M Unit := modCore c (fun k => { k with kept := k.kept ++ [w], used := k.used + 1 })

/-- An input of a checked pair: recorded, or replayed during a rally (R276, R289). -/
def inputRead (c : CoreId) (n : BitVec 12) (w : TW) : Exec TW := do
  if (← get).leads c then
    match ← lift (takeKept c (some n)) with
    | some v => return v
    | none =>
      require (decide (((← get).pair (pairOf c)).dlog.length < dlogRoom)) .full
      lift (logDelivery c (.input n w))
      lift (keep c w)
      return w
  else return w

/-! ### The load value queue (R279) -/

/-- The load value queue entries of a pair that are not yet freed. -/
def Pair.queued (q : Pair) : Nat := (q.windows.map (·.loads.length)).sum

/-- Append an entry to the load value queue, and fold its VA (R279). -/
def queueLoad (c : CoreId) (e : LoadEntry) : Exec Unit := do
  let s ← get
  if s.leads c then
    require (decide ((s.pair (pairOf c)).queued < 512)) .full
    lift (modPair (pairOf c) (fun p => { p with windows := lastWindow (fun w => { w with loads := w.loads ++ [e] }) p.windows }))
    lift (foldEvent c Config.loadEventK e.va e.bytes)

/-- A load of `n` bytes at `va` has read the word `w` at `pa`: its load value queue entry (R279). -/
def queueWord (c : CoreId) (va : Word) (pa : Pa) (n : Nat) (w : TW) : Exec Unit :=
  queueLoad c { va := va, pa := pa, bytes := n, word := w, fault := none, poison := if w.tag = 0x82#8 then some w.val else none }

/-- A load's access: a fault from order 3 of Table 8-7 on is recorded in the load value queue (R279). Causes 0x08 and 0x09 are stage 1's, which
the trailing core checks itself. -/
def queueFault {α : Type} (c : CoreId) (va : Word) (n : Nat) (m : Exec α) : Exec α :=
  tryCatch m (fun e => do
    match e with
    | .exc x =>
      if x.cause ≠ 0x08#8 ∧ x.cause ≠ 0x09#8 then
        queueLoad c { va := va, pa := 0#52, bytes := n, word := TW.zero, fault := some (x.cause, x.faddr, x.fstat)
                      poison := if x.cause = 0x06#8 then some x.info else none }
    | _ => pure ()
    throw e)

end Sys2Proof.Machine
end

