-- ==== Sys2Proof/Machine/Caches.lean ====
section
/-! DEFINITION. Caches, directories and the store path (09, R233–R252). -/

namespace Sys2Proof.Machine

/-! ### Tree pseudo-LRU (R233) -/

/-- A node's bit set or cleared. Node 1 is the root, and the children of node k are 2k and 2k + 1. -/
def setNode (t node : Nat) (b : Bool) : Nat := if t.testBit node = b then t else if b then t + 2 ^ node else t - 2 ^ node

/-- The tree's bits after a use of way `w`: every node on its path points to the other side. `d` is how many levels are left. -/
def plruTouch (t w : Nat) : Nat → Nat → Nat
  | 0, _ => t
  | d + 1, node =>
    let right := w.testBit d
    plruTouch (setNode t node (!right)) w d (2 * node + right.toNat)

/-- Whether a subtree `d` levels deep has a way that may be replaced. -/
def plruOpen (free : Nat → Bool) (total d node : Nat) : Bool :=
  (List.range (2 ^ d)).any (fun i => free (node * 2 ^ d + i - 2 ^ total))

/-- The way that the tree's bits point to, among those that may be replaced: a set bit points right. -/
def plruPick (t : Nat) (free : Nat → Bool) (total : Nat) : Nat → Nat → Nat
  | 0, node => node - 2 ^ total
  | d + 1, node =>
    let right := (t.testBit node && plruOpen free total d (2 * node + 1)) || !plruOpen free total d (2 * node)
    plruPick t free total d (2 * node + right.toNat)

/-- The bits of set `set` in a table of trees after a use of way `w` of 2^`depth` ways. -/
def lruUsed (trees : Tab Nat) (set w depth : Nat) : Tab Nat := Tab.setD trees set (plruTouch (Tab.getD trees set 0) w depth 1) 0

/-- The way of set `set` that a table of trees gives up, among those that `free` permits. -/
def lruPick (trees : Tab Nat) (set depth : Nat) (free : Nat → Bool) : Nat := plruPick (Tab.getD trees set 0) free depth depth 1

/-! ### The home slice (R236, R242) -/

/-- Another core's line is deferred by a checked pair until its verdict (R287). -/
def State.deferredFor (s : State) (n : Nat) (c : CoreId) : Bool :=
  (List.finRange 24).any (fun p => (s.pair p).windows.any (fun w => decide (w.line = some n)) && !decide (evenOf p = c))

/-- A checked pair of another core, or of any core when none is named, defers requests for a line until its verdict (R287). -/
def State.deferredAny (s : State) (n : Nat) : Bool :=
  (List.finRange 24).any (fun p => (s.pair p).windows.any (fun w => decide (w.line = some n)))

/-- The LLC set of a line, by slice × 8192 + set (R233, R236). -/
def State.llcSet (s : State) (n : Nat) : Nat := ((homeDie s n).val * 6 + n % 6) * 8192 + Config.llcSet n % 8192

/-- A line's slice has used the way that holds it (R233). -/
def llcUsed (n way : Nat) : M Unit := modify (fun s => { s with llclru := lruUsed s.llclru (s.llcSet n) way 4 })

/-- Write a line to memory or, while the die's LLC is enabled, into its home slice as dirty. When the set is full, the line that the
pseudo-LRU tree gives up is evicted, and written back if dirty (R233, R242). -/
def llcPut (n : Nat) (dirty : Bool) (l : Line) : M Unit := do
  let s ← get
  if unit s.fabric.llcen (homeDie s n) && !inBoot n then
    match s.llc.look n with
    | some v =>
      set { s with llc := s.llc.put n { dirty := dirty, data := l, way := v.way } }
      llcUsed n v.way
    | none =>
      let key := s.llcSet n
      let mates := s.llc.filter (fun e => decide (s.llcSet e.1 = key))
      match (List.range 16).find? (fun w => mates.all (fun e => !decide (e.2.way = w))) with
      | some w =>
        set { s with llc := s.llc.put n { dirty := dirty, data := l, way := w } }
        llcUsed n w
      | none =>
        let w := lruPick s.llclru key 4 (fun _ => true)
        for (m, v) in mates.filter (fun e => decide (e.2.way = w)) do
          modify (fun s => { s with llc := s.llc.drop m })
          if v.dirty then dramWrite m v.data
        modify (fun s => { s with llc := s.llc.put n { dirty := dirty, data := l, way := w } })
        llcUsed n w
  else dramWrite n l

/-- The data of a line at its home: the LLC's, or memory's, which the slice then allocates (R242). -/
def homeRead (n : Nat) : M Line := do
  match (← get).llc.look n with
  | some v =>
    llcUsed n v.way
    return v.data
  | none =>
    let l ← dramRead n
    if unit (← get).fabric.llcen (homeDie (← get) n) && !inBoot n then llcPut n false l
    return l

/-- Remove a line from the L1D, L1I, victim cache and string buffer of a core (R235). -/
def Core.dropL1 (k : Core) (n : Nat) : Core :=
  { k with l1d := k.l1d.filter (fun e => !decide (e.2 = n)), l1i := k.l1i.filter (fun e => !decide (e.2 = n)),
           victim := k.victim.filter (fun m => !decide (m = n)), strbuf := k.strbuf.filter (fun m => !decide (m = n)) }

/-- Remove a line from every cache of a core and discard a held fill (R235, R243). -/
def Core.dropLine (k : Core) (n : Nat) : Core :=
  { (k.dropL1 n) with l2 := k.l2.drop n, miss := k.miss.filter (fun m => !decide (m.line = n)) }

/-- Whether the core's L2 is in use and coherent: enabled, or still flushing towards off (R248, R250). -/
def Core.l2Coherent (k : Core) : Bool := k.l2en || k.fdbusy

/-- The L2 line that answers a forwarded request (Table 9-3): none while the L2 is out of coherence (R248). -/
def Core.l2Answer (k : Core) (n : Nat) : Option L2Line := if k.l2Coherent then k.l2.look n else none

/-- The directory entry without core `c`. -/
def DirEntry.without (d : DirEntry) (c : CoreId) : Option DirEntry :=
  match d with
  | .owned o => if o = c then none else some d
  | .shared v =>
    let w := v &&& ~~~(BitVec.ofNat 48 (2 ^ c.val))
    if w = 0#48 then none else some (.shared w)

/-- The directory releases core `c`'s copy of a line. -/
def dirRelease (n : Nat) (c : CoreId) : M Unit := modify (fun s =>
  match s.dir.look n with
  | none => s
  | some d => match d.without c with
    | none => { s with dir := s.dir.drop n }
    | some d' => { s with dir := s.dir.put n d' })

/-- The directory forwards a read to the owner `o` (Table 9-3): its line becomes S, an M line's data also goes home. The
answer is the owner's data, or none when it has no copy. A fill that a miss buffer holds becomes S as well (log entry 46). -/
def forwardRead (n : Nat) (o : CoreId) : M (Option Line) := do
  modCore o (fun k => { k with miss := k.miss.map (fun m => if m.line = n then { m with st := .s } else m) })
  match ((← get).core o).l2Answer n with
  | none => return none
  | some l =>
    modCore o (fun k => { k with l2 := k.l2.put n { l with st := .s } })
    if l.st = .m then llcPut n true l.data
    return some l.data

/-- The directory forwards a write or invalidate to core `o` (Table 9-3): its copies go, an M or E line's data is the answer. -/
def forwardInval (n : Nat) (o : CoreId) : M (Option Line) := do
  let k := (← get).core o
  let ans := k.l2Answer n
  modCore o (fun k => if k.l2Coherent then k.dropLine n else { (k.dropL1 n) with miss := k.miss.filter (fun m => !decide (m.line = n)) })
  match ans with
  | some l => return if l.st = .s then none else some l.data
  | none => return none

/-- Forward an invalidate to each core of a list; the answer is the last data that came back. -/
def invalAll (n : Nat) : List CoreId → M (Option Line)
  | [] => return none
  | o :: t => do
    let a ← forwardInval n o
    let b ← invalAll n t
    return if b.isSome then b else a

/-- The cores of a presence vector but `c`. -/
def presence (v : BitVec 48) (c : Option CoreId) : List CoreId :=
  (List.finRange 48).filter (fun i => v.getLsbD i.val && !decide (some i = c))

/-- The cores that a directory entry records. -/
def DirEntry.holders : DirEntry → List CoreId
  | .owned o => [o]
  | .shared v => presence v none

/-- Record a line's copies in the directory. When the line's directory set is full, an entry of it chosen freely is evicted: its copies are
invalidated, and the data of an M copy goes home (R242). -/
def dirPut (n : Nat) (e : DirEntry) : M Unit := do
  let s ← get
  let key (m : Nat) : Nat × Nat × Nat := ((homeDie s m).val, m % 6, Config.dirSet m)
  if s.dir.length < 16 || (s.dir.look n).isSome || (s.dir.filter (fun d => decide (key d.1 = key n))).length < 16 + Config.dirExtra then
    set { s with dir := s.dir.put n e }
  else
    let mates := s.dir.filter (fun d => decide (key d.1 = key n) && !s.deferredAny d.1)
    let i ← drawBelow mates.length
    match mates[i]? with
    | some (m, d) =>
      let dirty := d.holders.any (fun o => match (s.core o).l2Answer m with
        | some l => decide (l.st = .m)
        | none => false)
      let back ← invalAll m d.holders
      modify (fun s => { s with dir := (s.dir.drop m).put n e })
      match back with
      | some l => if dirty then llcPut m true l
      | none => pure ()
    | none => modify (fun s => { s with dir := s.dir.put n e })

/-- A read request at the home slice (R242): the data, and the state the requester takes (E when no other core holds it). -/
def homeShare (n : Nat) (c : CoreId) : M (Line × Mesi) := do
  match (← get).dir.look n with
  | none =>
    let l ← homeRead n
    dirPut n (.owned c)
    return (l, .e)
  | some (.owned o) =>
    if o = c then return (← homeRead n, .e)
    let a ← forwardRead n o
    let l ← (match a with
      | some l => return l
      | none => homeRead n)
    dirPut n (.shared (BitVec.ofNat 48 (2 ^ o.val ||| 2 ^ c.val)))
    return (l, .s)
  | some (.shared v) =>
    let l ← homeRead n
    dirPut n (.shared (v ||| BitVec.ofNat 48 (2 ^ c.val)))
    return (l, .s)

/-- An ownership request at the home slice (R242): every other copy is invalidated; the data is an owner's, or the home's
unless it is not fetched (DZL, R246). -/
def homeOwn (n : Nat) (c : CoreId) (fetch : Bool) : M (Option Line) := do
  let others : List CoreId := match (← get).dir.look n with
    | none => []
    | some (.owned o) => if o = c then [] else [o]
    | some (.shared v) => presence v (some c)
  let a ← invalAll n others
  dirPut n (.owned c)
  if fetch then
    match a with
    | some l => return some l
    | none => return some (← homeRead n)
  else return none

/-- The owner's data of a line for an agent that keeps no copy: the directory forwards a read, so that the owner keeps the line in S and
modified data also goes home (Table 9-3). None when no core owns it or the owner has no copy. -/
def ownerRead (n : Nat) : M (Option Line) := do
  match (← get).dir.look n with
  | some (.owned o) =>
    match ← forwardRead n o with
    | some l =>
      dirPut n (.shared (BitVec.ofNat 48 (2 ^ o.val)))
      return some l
    | none => return none
  | _ => return none

/-- Every copy of a line goes, as before a write by an agent that keeps none. -/
def dropCopies (n : Nat) : M Unit := do
  let _ ← invalAll n (match (← get).dir.look n with
    | none => []
    | some d => d.holders)
  modify (fun s => { s with dir := s.dir.drop n })

/-- The coherent data of a line for an agent of the hub (DMA, physical reads of Fisin): an owner's, or the home's. -/
def coherentRead (n : Nat) : M Line := do
  match ← ownerRead n with
  | some l => return l
  | none => homeRead n

/-- Write a whole line coherently for an agent of the hub: every copy is invalidated and the home takes it. -/
def coherentWrite (n : Nat) (l : Line) : M Unit := do
  dropCopies n
  llcPut n true l

/-- The coherent data of a line for an uncacheable access: as for the hub, but no cache allocates it (R241). -/
def uncachedRead (n : Nat) : M Line := do
  match ← ownerRead n with
  | some l => return l
  | none => match (← get).llc.look n with
    | some v => return v.data
    | none => dramRead n

/-- Write a whole line for an uncacheable access: every copy is invalidated and no cache allocates it; a slice that holds the line takes
it (R241). -/
def uncachedWrite (n : Nat) (l : Line) : M Unit := do
  dropCopies n
  if ((← get).llc.look n).isSome then llcPut n true l else dramWrite n l

/-- Write a word of a line. -/
def Line.setWord (l : Line) (pa : Pa) (f : TW → TW) : Line := l.set (wordIx pa).val (f (l.get (wordIx pa))) (wordIx pa).isLt

/-- Whether the hub reaches ready memory at a PA. -/
def State.hubReach (s : State) (pa : Pa) : Bool := s.memReady pa && !s.dieLost (homeDie s (lineOf pa))

/-- Write a word of memory coherently, from a device of the hub; where no ready memory is, nothing takes it (log entry 45). -/
def hubWrite (pa : Pa) (w : TW) : M Unit := do
  if (← get).hubReach pa then
    let l ← coherentRead (lineOf pa)
    coherentWrite (lineOf pa) (l.setWord pa (fun _ => w))

/-- Read a word of memory coherently, for a device of the hub; where no ready memory is, a free value (log entry 45). -/
def hubRead (pa : Pa) : M TW := do
  if (← get).hubReach pa then
    let l ← coherentRead (lineOf pa)
    return l.get (wordIx pa)
  else return TW.raw (← drawWord)

/-! ### The private caches (R233–R235) -/

/-- The L1D set of a line (R234). -/
def l1dSet (n : Nat) : Nat := ((n % 128) ^^^ (n / 64 % 128)) ^^^ ((n / 8192 % 2) * 0x40)

/-- Evict an L2 line: its L1 copies go, the directory is notified and an M line's data goes home (Table 9-3, R235). -/
def l2Evict (c : CoreId) (n : Nat) : M Unit := do
  match ((← get).core c).l2.look n with
  | none => pure ()
  | some l =>
    modCore c (fun k => k.dropLine n)
    dirRelease n c
    if l.st = .m then llcPut n true l.data

/-- The L2 has used the way that holds a line (R233). -/
def l2Used (c : CoreId) (n way : Nat) : M Unit := modCore c (fun k => { k with l2lru := lruUsed k.l2lru (n % 1024) way 4 })

/-- Put a line in the L2, in the way that holds it or a free way of its set; when the set is full, the line that the pseudo-LRU tree
gives up is evicted (R233). -/
def l2Install (c : CoreId) (n : Nat) (st : Mesi) (l : Line) : M Unit := do
  let k := (← get).core c
  match k.l2.look n with
  | some v =>
    modCore c (fun k => { k with l2 := k.l2.put n { st := st, data := l, way := v.way } })
    l2Used c n v.way
  | none =>
    let mates := k.l2.filter (fun e => decide (e.1 % 1024 = n % 1024))
    match (List.range 16).find? (fun w => mates.all (fun e => !decide (e.2.way = w))) with
    | some w =>
      modCore c (fun k => { k with l2 := k.l2.put n { st := st, data := l, way := w } })
      l2Used c n w
    | none =>
      let w := lruPick k.l2lru (n % 1024) 4 (fun _ => true)
      for (m, _) in mates.filter (fun e => decide (e.2.way = w)) do l2Evict c m
      modCore c (fun k => { k with l2 := k.l2.put n { st := st, data := l, way := w } })
      l2Used c n w

/-- While the flush and disable engine runs, an access to a line it has not reached first has it written back and
invalidated (R250). -/
def flushAhead (c : CoreId) (n : Nat) : M Unit := do
  if ((← get).core c).fdbusy then l2Evict c n

/-- Whether core `c` may use its L2 for new accesses (R248, R250). -/
def Core.l2Use (k : Core) : Bool := k.l2en && !k.fdbusy

/-- A request of core `c` beyond its L2 (Table 11-16): an LLC miss is counted. -/
def countMiss (c : CoreId) (n : Nat) : M Unit := do
  if (← get).llc.look n = none then pmEvent c 0x14

/-- The data of a line as core `c` reads it through its L2, or past a disabled one (R242, R248), for a fetch, a walk or another access that
is no load. A line the L2 lacks is requested at its home and installed in E or S. -/
def readLine (c : CoreId) (n : Nat) : M Line := do
  flushAhead c n
  let k := (← get).core c
  if k.l2Use then
    match k.l2.look n with
    | some l =>
      l2Used c n l.way
      return l.data
    | none =>
      countMiss c n
      let (l, st) ← homeShare n c
      l2Install c n st l
      return l
  else
    countMiss c n
    let (l, _) ← homeShare n c
    return l

/-- The data of a line for a load of core `c`: the L2's, a held fill's, or its home's, which a miss buffer then holds until the load
retires (R243). The load waits while all 48 miss buffers are held (R252). -/
def loadLine (c : CoreId) (n : Nat) : Exec Line := do
  lift (flushAhead c n)
  let k := (← get).core c
  match (if k.l2Use then k.l2.look n else none), k.miss.find? (fun m => decide (m.line = n)) with
  | some l, _ =>
    lift (l2Used c n l.way)
    return l.data
  | none, some m => return m.data
  | none, none =>
    require (decide (k.miss.length < 48)) .hold
    lift (pmEvent c 0x12)
    lift (countMiss c n)
    let (l, st) ← lift (homeShare n c)
    lift (modCore c (fun k => { k with miss := k.miss ++ [{ line := n, st := st, data := l }] }))
    return l

/-- Drain a change of one line to the L2 in state M, or to the home while the L2 is off (R239, R242). -/
def writeLine (c : CoreId) (n : Nat) (fetch : Bool) (f : Line → Line) : M Unit := do
  flushAhead c n
  let k := (← get).core c
  let zero : Line := Vector.replicate 8 TW.zero
  modCore c (fun k => { k with miss := k.miss.filter (fun m => !decide (m.line = n)) })
  if k.l2Use then
    match k.l2.look n with
    | some l =>
      if l.st = .s then
        let _ ← homeOwn n c false
      l2Install c n .m (f l.data)
    | none =>
      if fetch then countMiss c n
      let l ← homeOwn n c fetch
      l2Install c n .m (f (l.getD zero))
  else
    if fetch then countMiss c n
    let l ← homeOwn n c fetch
    llcPut n true (f (l.getD zero))

/-- A way of an L1 cache for a new line of set `set`: a locked way that is empty, else an empty way, else the unlocked way that the
pseudo-LRU tree gives up (R233, R247). -/
def pickWay (ways lru : Tab Nat) (set : Nat) (lock : Byte) : Nat :=
  let empty := (List.range 8).filter (fun w => !Tab.has ways (set * 8 + w))
  match empty.filter (fun w => lock.getLsbD w) with
  | w :: _ => w
  | [] => match empty with
    | w :: _ => w
    | [] => lruPick lru set 3 (fun w => !lock.getLsbD w)

/-- The place of a line in an L1 cache: set × 8 + way. -/
def placeOf (ways : Tab Nat) (n : Nat) : Option Nat := (ways.find? (fun e => decide (e.2 = n))).map (·.1)

/-- Install a line in the L1D for a retired load; an evicted line moves to the victim cache (R233, R235, R243). The answer says whether the
line was not there. -/
def l1dFill (c : CoreId) (n : Nat) : M Bool := do
  let k := (← get).core c
  match placeOf k.l1d n with
  | some i =>
    modCore c (fun k => { k with l1dlru := lruUsed k.l1dlru (i / 8) (i % 8) 3 })
    return false
  | none =>
    let set := l1dSet n
    let w := pickWay k.l1d k.l1dlru set k.lockD
    let old := Tab.look k.l1d (set * 8 + w)
    modCore c (fun k =>
      let vc := k.victim.filter (fun m => !decide (m = n))
      let vc := match old with
        | some m => if k.vcen then (if vc.length < 16 then vc else vc.drop 1) ++ [m] else vc
        | none => vc
      { k with l1d := Tab.put k.l1d (set * 8 + w) n, victim := vc, l1dlru := lruUsed k.l1dlru set w 3 })
    return true

/-- Install a line in the L1I for an instruction fetch (R233). -/
def l1iFill (c : CoreId) (n : Nat) : M Unit := do
  let k := (← get).core c
  match placeOf k.l1i n with
  | some i => modCore c (fun k => { k with l1ilru := lruUsed k.l1ilru (i / 8) (i % 8) 3 })
  | none =>
    let w := pickWay k.l1i k.l1ilru (n % 128) k.lockI
    modCore c (fun k => { k with l1i := Tab.put k.l1i (n % 128 * 8 + w) n, l1ilru := lruUsed k.l1ilru (n % 128) w 3 })

/-- A load of a line retires: its fill leaves the miss buffer for the L2 and the L1D (R243, Table 11-16). -/
def retireLoad (c : CoreId) (n : Nat) : M Unit := do
  let k := (← get).core c
  let held := k.miss.find? (fun m => decide (m.line = n))
  modCore c (fun k => { k with miss := k.miss.filter (fun m => !decide (m.line = n)) })
  match held with
  | some m => if k.l2Use then l2Install c n m.st m.data
  | none => pure ()
  let new ← l1dFill c n
  if new || held.isSome then pmEvent c 0x10

/-- The fills that an instruction which does not retire has brought are discarded with it (R243, Table 11-16); `before` are those that
stood before it. -/
def squashFills (c : CoreId) (before : List Miss) : M Unit := do
  let k := (← get).core c
  let own := k.miss.filter (fun m => !before.any (fun b => decide (b.line = m.line)))
  modCore c (fun k => { k with miss := k.miss.filter (fun m => before.any (fun b => decide (b.line = m.line))) })
  if !own.isEmpty then pmEvent c 0x11 own.length

/-- A DSE access brings a line into the string buffer, least recently used replaced (R145). -/
def strbufFill (c : CoreId) (n : Nat) : M Unit :=
  modCore c (fun k =>
    let b := k.strbuf.filter (fun m => !decide (m = n))
    { k with strbuf := (if b.length < 32 then b else b.drop 1) ++ [n] })

/-! ### The store buffer, the commit gate and forwarding (R239, R284) -/

/-- What a buffered store makes of the word at `pa` (8-byte aligned): R40, DZL, R160. Partial bytes never merge into a word that has become
poison since the store's own check (R36; DEDUCED, log entry 80). -/
def StoreOp.apply (op : StoreOp) (pa : Pa) (w : TW) : TW :=
  match op with
  | .word a x _ => if a.toNat / 8 = pa.toNat / 8 then x else w
  | .part a n v _ =>
    if a.toNat / 8 = pa.toNat / 8 ∧ w.tag ≠ 0x82#8 then { tag := 0x05#8, val := mergeBytes w.val (a.toNat % 8) n v } else w
  | .zline a => if lineOf a = lineOf pa then TW.zero else w
  | .wholeLine a l => if lineOf a = lineOf pa then l.get (wordIx pa) else w
  | .drop _ => w
  | .dropAll => w
  | .notice .. => w

/-- The stores of core `c` that no other agent sees yet, oldest first: its buffer, or the gate of its checked pair. -/
def State.waiting (s : State) (c : CoreId) : List StoreOp :=
  (s.core c).stbuf ++ (if s.leads c then ((s.pair (pairOf c)).windows.map (·.gate)).flatten else [])

/-- The word at `pa` after core `c`'s waiting stores (store forwarding, R239, R284). -/
def State.forward (s : State) (c : CoreId) (pa : Pa) (w : TW) : TW :=
  (s.waiting c).foldl (fun acc op => op.apply pa acc) w

/-- The PA of a store; DZL stores to a whole line. -/
def StoreOp.pa : StoreOp → Option Pa
  | .word a _ _ => some a
  | .part a _ _ _ => some a
  | .zline a => some (BitVec.ofNat 52 (lineOf a * 64))
  | .wholeLine a _ => some (BitVec.ofNat 52 (lineOf a * 64))
  | .drop _ => none
  | .dropAll => none
  | .notice .. => none

/-- The line a store changes, when it changes one. -/
def StoreOp.line : StoreOp → Option Nat
  | .word a _ _ => some (lineOf a)
  | .part a _ _ _ => some (lineOf a)
  | .zline a => some (lineOf a)
  | .wholeLine a _ => some (lineOf a)
  | .drop _ => none
  | .dropAll => none
  | .notice .. => none

/-- The directories release every copy of core `c`. -/
def dirReleaseAll (c : CoreId) : M Unit := modify (fun s =>
  { s with dir := s.dir.filterMap (fun e => (e.2.without c).map (fun d => (e.1, d))) })

/-- CINV.ALL of Table 9-4: the core's data caches empty without writing back, and what they held out of coherence is gone. Lines that leave
the L2 leave the L1I as well (R235). -/
def invalidateAll (c : CoreId) : M Unit := do
  modCore c (fun k => { k with
    l1i := k.l1i.filter (fun e => !Tab.has k.l2 e.2), l1d := [], victim := [], strbuf := [], l2 := [], held := false, dirtyheld := 0 })
  dirReleaseAll c

/-- Ring `r` lies in the memory of a lost die: its records are discarded (R416). -/
def State.ringLost (s : State) (r : Nat) : Bool :=
  match Tab.look s.jrnl.rings r with
  | some x => (s.locate (toPa x.base)).isSome && s.dieLost (homeDie s (lineOf (toPa x.base)))
  | none => false

/-- Perform one store of core `c`: it becomes visible to every core (R239, R240, R246, R248). A store to the boot window is
discarded and logged (R398). -/
def performStore (c : CoreId) (op : StoreOp) : M Unit :=
  if (op.line.map inBoot).getD false then fisinLog 0 0 4 ((op.pa.getD 0#52).setWidth 64) 0#64 else
  match op with
  | .word a x u =>
    let f := fun l : Line => l.setWord a (fun _ => x)
    if u then do uncachedWrite (lineOf a) (f (← uncachedRead (lineOf a))) else writeLine c (lineOf a) true f
  | .part a n v u =>
    let f := fun l : Line => l.setWord a (fun w => (StoreOp.part a n v u).apply a w)
    if u then do uncachedWrite (lineOf a) (f (← uncachedRead (lineOf a))) else writeLine c (lineOf a) true f
  | .zline a => writeLine c (lineOf a) false (fun _ => Vector.replicate 8 TW.zero)
  | .wholeLine a l => writeLine c (lineOf a) false (fun _ => l)
  | .drop a => do
    modCore c (fun k => k.dropLine (lineOf a))
    dirRelease (lineOf a) c
  | .dropAll => invalidateAll c
  | .notice r e n h => do
    if !(← get).ringLost r.toNat then modJ (fun j => { j with queue := j.queue ++ [{ ring := r, epoch := e, bytes := n, head := h }] })

/-- Drain the oldest store of the buffer; false when its line is deferred by another pair (R287). -/
def drainOne (c : CoreId) : M Bool := do
  match ((← get).core c).stbuf with
  | [] => return true
  | op :: rest =>
    let s ← get
    if (op.line.map (fun n => s.deferredFor n c)).getD false then return false
    modCore c (fun k => { k with stbuf := rest })
    performStore c op
    return true

/-- Drain up to `n` stores in order; whether all of them were drained. -/
def drainN (c : CoreId) : Nat → M Bool
  | 0 => return true
  | n + 1 => do if ← drainOne c then drainN c n else return false

/-- Drain every store of the buffer. -/
def drainAll (c : CoreId) : M Bool := do drainN c ((← get).core c).stbuf.length

/-- Perform a list of stores in order (a released window, R284). -/
def performAll (c : CoreId) : List StoreOp → M Unit
  | [] => pure ()
  | op :: t => do performStore c op; performAll c t

/-- A store retires into the store buffer (R239), or into the gate of the open check window, whose group holds 64 (R284). A full buffer
first drains its oldest store. -/
def pushStore (c : CoreId) (op : StoreOp) : Exec Unit := do
  let s ← get
  if s.leads c then
    require (decide ((((s.pair (pairOf c)).current.map (·.gate.length)).getD 0) < 64) || s.freshWindow (pairOf c)) .full
    lift (modPair (pairOf c) (fun p => { p with windows := lastWindow (fun w => { w with gate := w.gate ++ [op] }) p.windows }))
  else
    if 32 ≤ (s.core c).stbuf.length then
      let ok ← lift (drainOne c)
      require ok .hold
    lift (modCore c (fun k => { k with stbuf := k.stbuf ++ [op] }))

/-- The access waits while another pair defers the line (R287). -/
def notDeferred (c : CoreId) (pa : Pa) : Exec Unit := do require (!(← get).deferredFor (lineOf pa) c) .hold

/-- The tagged word at `pa` (cacheable memory) as an access of core `c` that is no load reads it: its own stores first, then the coherent
line. -/
def readWord (c : CoreId) (pa : Pa) : Exec TW := do
  notDeferred c pa
  let l ← lift (readLine c (lineOf pa))
  return (← get).forward c pa (l.get (wordIx pa))

/-- The tagged word at `pa` (cacheable memory) that a load of `n` bytes at `va` reads, with its load value queue entry (R279). -/
def loadCached (c : CoreId) (va : Word) (pa : Pa) (n : Nat) : Exec TW := do
  notDeferred c pa
  let l ← loadLine c (lineOf pa)
  let w := (← get).forward c pa (l.get (wordIx pa))
  queueWord c va pa n w
  return w

/-- The tagged word at an uncacheable memory address: no cache allocates it (R241). -/
def readWordUncached (c : CoreId) (pa : Pa) : Exec TW := do
  notDeferred c pa
  let l ← lift (uncachedRead (lineOf pa))
  return (← get).forward c pa (l.get (wordIx pa))

end Sys2Proof.Machine
end

