-- ==== Sys2Proof/Machine/Translate.lean ====
section
/-! DEFINITION. Translation, protection and storage keys (08). -/

namespace Sys2Proof.Machine

/-- Kinds of access, by the rights and the rules of R211 they need. -/
inductive Acc where
  | read | write | cas | fetch
  /-- A hardware shadow push, and RET's read of the shadow word (R159, R163). -/
  | shadow | shadowRead
  /-- A collector log append (R261). -/
  | logAppend
  /-- A store made by JAPPEND (R211). -/
  | jappend
  /-- A frame spill or fill, or a context save area access (R160, R164). -/
  | hwWrite | hwRead
  deriving DecidableEq, Repr

/-- Whether the access needs read rights (R211). -/
def Acc.needsRead : Acc → Bool
  | .read | .cas | .hwRead | .shadowRead => true
  | _ => false
/-- Whether the access needs write rights (R211). -/
def Acc.needsWrite : Acc → Bool
  | .write | .cas | .shadow | .logAppend | .jappend | .hwWrite => true
  | _ => false
/-- Whether it is a hardware access, which uses the S rights (R210). -/
def Acc.hardware : Acc → Bool
  | .shadow | .shadowRead | .hwWrite | .hwRead => true
  | _ => false
/-- Whether it is made with key 0: spill, fill, shadow push and context save area accesses (R222). RET's shadow read is not listed. -/
def Acc.keyless : Acc → Bool
  | .shadow | .hwWrite | .hwRead => true
  | _ => false
/-- TRAPINFO.ACC (Table 8-8). -/
def Acc.code : Acc → Nat
  | .read => 0
  | .write | .cas | .logAppend | .jappend => 1
  | .fetch => 2
  | .shadow | .shadowRead | .hwWrite | .hwRead => 3

/-- Effective memory types (R215). -/
inductive MemType where
  | cacheable | uncacheable | sideEffect
  deriving DecidableEq, Repr

/-- Who makes an access and where: what the causes of Table 8-7 report. -/
structure Req where
  va : Word
  acc : Acc
  priv : BitVec 2
  key : BitVec 4
  span : Nat
  ctxid : BitVec 16
  /-- Made for a load that has not retired: its reads install nothing in the L2 and wait under CSW.QUIET (R230, R244, R245). -/
  early : Bool := false
  deriving DecidableEq, Repr

/-- TRAPINFO for causes 0x08–0x0F (Table 8-8). -/
def Req.info (q : Req) (level ipage : Nat) (s2 se : Bool) (key : Option Byte) : Word :=
  placed q.acc.code 0 ||| placed level 2 ||| placed q.span 4 ||| bitAt s2 8 ||| bitAt se 9 ||| placed ipage 12 |||
  match key with
  | none => 0#64
  | some b => placed (b.toNat % 16) 52 ||| placed (b.toNat / 16 % 8) 56

/-- A fault of Table 8-7. -/
def Req.fault (q : Req) (cause : BitVec 8) (info : Word) (fstat : Option (Pa × Bool)) : Stop :=
  .exc { cause := cause, info := info, faddr := q.va, fstat := fstat }

/-- What translation gives an access. -/
structure Xl where
  pa : Pa
  kind : PaKind
  mt : MemType
  /-- The span used, when stage 1 is enabled. -/
  span : Option (Fin 16)
  gen : Nat
  deriving DecidableEq, Repr

/-- Whether a span covers an address (R209). -/
def Span.covers (p : Span) (va : Word) : Bool :=
  p.attr.getLsbD 0 && decide (p.base.toNat ≤ va.toNat) && decide (va.toNat ≤ p.limit.toNat)

/-- SPAN_ATTR.GEN. -/
def Span.gen (p : Span) : Nat := fieldN p.attr 9 2

/-- The lowest-numbered valid span that covers an address (R210, R212). -/
def Ctx.findSpan (x : Ctx) (va : Word) : Option (Fin 16) :=
  (List.finRange 16).find? (fun i => (x.spans.get i).covers va)

/-- The rights bits and rules of R211: whether span `p` refuses the access, and whether by a side-effect rule. -/
def Span.refuses (p : Span) (acc : Acc) (user : Bool) : Option Bool :=
  let a := p.attr
  let r := if user then a.getLsbD 1 else a.getLsbD 4
  let w := if user then a.getLsbD 2 else a.getLsbD 5
  let x := if user then a.getLsbD 3 else a.getLsbD 6
  let se := a.getLsbD 7
  let sh := a.getLsbD 12
  let jr := a.getLsbD 13
  if acc = .fetch then (if se then some true else if x then none else some false)
  else if acc = .logAppend ∧ se = true then some true
  else if acc.needsRead ∧ r = false then some false
  else if acc.needsWrite ∧ w = false then some false
  else if acc.needsWrite ∧ sh = true ∧ acc ≠ .shadow then some false
  else if acc = .shadow ∧ sh = false then some false
  else if acc = .logAppend ∧ jr = true then some false
  else if (acc = .write ∨ acc = .cas) ∧ user = true ∧ jr = true then some false
  else none

/-- The memory type that attributes C and SE of the span and leaf give (R215). -/
def memType (c se : Bool) : MemType := if se then .sideEffect else if c then .cacheable else .uncacheable

/-- Whether a memory line may be accessed at order 13 of Table 8-7: its home die is not lost, or the core's L2 holds the line (R256). -/
def State.homeReach (s : State) (c : CoreId) (pa : Pa) : Bool :=
  !s.dieLost (homeDie s (lineOf pa)) || ((s.core c).l2Answer (lineOf pa)).isSome

/-- A descriptor or key byte word read for a load that has not retired: from the L2, or past it unless CSW.QUIET holds it (R230, R244). -/
def earlyWord (c : CoreId) (pa : Pa) : Exec TW := do
  notDeferred c pa
  let k ← lift (getCore c)
  match (if k.l2Use then k.l2.look (lineOf pa) else none) with
  | some l => return (← get).forward c pa (l.data.get (wordIx pa))
  | none =>
    require (!k.regs.ctx.csw.quiet) .hold
    let (l, _) ← lift (homeShare (lineOf pa) c)
    return (← get).forward c pa (l.get (wordIx pa))

/-- A physical read of a descriptor or key byte word: only from ready memory (R442), through the L2 (R219). -/
def physWord (c : CoreId) (q : Req) (pa : Pa) (keyb : Bool) : Exec TW := do
  let s ← get
  match s.paKind pa with
  | .memory _ =>
    require (s.memReady pa) (q.fault 0x1D#8 0#64 (some (pa, keyb)))
    require (s.homeReach c pa) (q.fault 0x1E#8 0#64 (some (pa, keyb)))
    if q.early then earlyWord c (pa &&& ~~~7#52) else readWord c (pa &&& ~~~7#52)
  | _ => throw (q.fault 0x1D#8 0#64 (some (pa, keyb)))

/-- A stage-2 leaf (Table 8-4), or the identity when stage 2 does not apply. -/
structure Leaf where
  pa : Pa
  size : Nat
  level : Nat
  r : Bool
  w : Bool
  x : Bool
  d : Bool
  c : Bool
  se : Bool
  at? : Option Pa
  deriving DecidableEq, Repr

/-- The lowest IPA bit that indexes a level (Table 8-3). -/
def levelShift (level : Nat) : Nat := 39 - 9 * level

/-- The number of index bits of a level (Table 8-3). -/
def levelBits (level : Nat) : Nat := if level = 0 then 13 else 9

/-- The address of the descriptor of an IPA in a level's table (R213). -/
def descPa (table : Pa) (level ipa : Nat) : Pa :=
  table + BitVec.ofNat 52 (8 * (ipa / 2 ^ levelShift level % 2 ^ levelBits level))

/-- Whether a descriptor is invalid at its level (R214). -/
def State.badDesc (s : State) (level : Nat) (d : Word) : Bool :=
  let t := d.getLsbD 1
  let oa : Pa := toPa (d &&& ~~~0xFFF#64)
  !d.getLsbD 0 || !decide (fieldN d 52 12 = 0) || (!t && (level = 0 || level = 3))
  || (!t && !decide (oa.toNat % 2 ^ levelShift level = 0))
  || (t && decide (level < 3) && decide (s.paKind oa = .dcs))

/-- The walk cache entry of a level for an IPA (R219). -/
def walkHit (k : Core) (vmid : BitVec 16) (level ipa : Nat) : Option WalkEntry :=
  k.walk.find? (fun e => decide (e.vmid = vmid) && decide (e.level = level) && decide (e.ipre = ipa / 2 ^ levelShift level))

/-- Use or install a walk cache entry: least recently used last out of 32 (R219). -/
def walkUse (c : CoreId) (e : WalkEntry) : M Unit := do
  if (← getRegs c).wcen then
    modCore c (fun k =>
      let rest := k.walk.filter (fun f => !decide (f = e))
      { k with walk := (if rest.length < 32 then rest else rest.drop 1) ++ [e] })

/-- Walk stage 2 from a level's table to the leaf (R213–R216); `fuel` is the levels left. -/
def walkFrom (c : CoreId) (q : Req) (vmid : BitVec 16) (ipa : Nat) (level : Nat) (table : Pa) : Nat → Exec Leaf
  | 0 => throw .hold
  | fuel + 1 => do
    let at_ := descPa table level ipa
    let w ← physWord c q at_ false
    let ipage := ipa / 4096
    require (!decide (w.tag = 0x82#8)) (q.fault 0x06#8 w.val (some (at_, false)))
    let d := w.val
    require (!(← get).badDesc level d) (q.fault 0x0A#8 (q.info level ipage true false none) (some (at_, false)))
    let oa : Pa := toPa (d &&& ~~~0xFFF#64)
    if d.getLsbD 1 && decide (level < 3) then
      lift (walkUse c { vmid := vmid, level := level, ipre := ipa / 2 ^ levelShift level, table := oa })
      walkFrom c q vmid ipa (level + 1) oa fuel
    else
      let leaf : Leaf :=
        { pa := BitVec.ofNat 52 (oa.toNat + ipa % 2 ^ levelShift level), size := levelShift level, level := level, r := d.getLsbD 2,
          w := d.getLsbD 3, x := d.getLsbD 4, d := d.getLsbD 6, c := d.getLsbD 7, se := d.getLsbD 8, at? := some at_ }
      let fst : Option (Pa × Bool) := some (at_, false)
      let bad := (q.acc.needsRead && !leaf.r) || (q.acc.needsWrite && !leaf.w) ||
        (decide (q.acc = .fetch) && (!leaf.x || leaf.se))
      require (!bad) (q.fault 0x0B#8 (q.info level ipage true (decide (q.acc = .fetch) && leaf.se) none) fst)
      require (d.getLsbD 5) (q.fault 0x0C#8 (q.info level ipage true false none) fst)
      require (!(q.acc.needsWrite && !leaf.d)) (q.fault 0x0D#8 (q.info level ipage true false none) fst)
      return leaf

/-- A stage-2 walk from the deepest table the walk cache holds (R219), else from S2ROOT. -/
def walk (c : CoreId) (q : Req) (ipa : Nat) : Exec Leaf := do
  let r ← lift (getRegs c)
  let vmid : BitVec 16 := r.s2root.setWidth 16
  let root : Pa := toPa (r.s2root &&& 0x000FFFFFFFFF0000#64)
  let k ← lift (getCore c)
  match (if r.wcen then [2, 1, 0].findSome? (walkHit k vmid · ipa) else none) with
  | some e =>
    lift (pmEvent c 0x41)
    lift (walkUse c e)
    walkFrom c q vmid ipa (e.level + 1) e.table (3 - e.level)
  | none => walkFrom c q vmid ipa 0 root 4

/-- Whether stage 2 applies to an access at a privilege (R208); with stage 1 disabled nothing is translated (R207). -/
def Regs.stage2 (r : Regs) (priv : BitVec 2) : Bool := r.s1en && r.s2root.getLsbD 52 && !decide (priv = 3#2)

/-- Whether the frame of a PA is keyed (R221). -/
def Regs.keyedFrame (r : Regs) (kind : PaKind) (pa : Pa) : Bool :=
  r.keyen && decide (pa.toNat / 4096 < r.keylim.toNat) && !decide (kind = .dcs)

/-- The key byte of a frame (R221, R223). -/
def keyByte (c : CoreId) (q : Req) (pa : Pa) : Exec (Pa × Byte) := do
  let r ← lift (getRegs c)
  let at_ : Pa := toPa r.keybase + BitVec.ofNat 52 (pa.toNat / 4096)
  let w ← physWord c q at_ true
  require (!decide (w.tag = 0x82#8)) (q.fault 0x06#8 w.val (some (at_, true)))
  return (at_, byteOf w.val (at_.toNat % 8))

/-- The key check (R222): whether a key byte refuses the access, and the cause. A CAS is a write and a read. -/
def keyRefuses (q : Req) (b : Byte) : Option (BitVec 8) :=
  if b.toNat % 16 = q.key.toNat then none
  else if q.acc.needsWrite && !b.getLsbD 6 then some 0x0E#8
  else if q.acc = .fetch then (if b.getLsbD 5 then none else some 0x0F#8)
  else if q.acc.needsRead && !b.getLsbD 4 then some 0x0F#8
  else none

/-- Orders 8 to 13 of Table 8-7 with the causes 0x07 of R445 after order 8. The key byte is a TLB entry's, when one is
given; the answer is the key byte used. -/
def checkPa (c : CoreId) (q : Req) (pa : Pa) (kind : PaKind) (mt : MemType) (ipage : Nat) (known : Option Byte)
    (deny : PaKind → MemType → Bool) : Exec (Option Byte) := do
  let s ← get
  let r := s.regs c
  require (!(decide (kind = .dcs) && decide (q.priv = 0#2) && !q.acc.hardware))
    (q.fault 0x09#8 (q.info 0 0 false false none) none)
  require (!deny kind mt) (q.fault 0x07#8 0#64 none)
  let keyed := r.s1en && !decide (q.key = 0#4) && !q.acc.keyless && r.keyedFrame kind pa
  let used ← (if keyed then do
      let b ← (match known with
        | some b => pure b
        | none => do return (← keyByte c q pa).2)
      match keyRefuses q b with
      | none => pure (some b)
      | some cause =>
        let at_ : Pa := toPa r.keybase + BitVec.ofNat 52 (pa.toNat / 4096)
        throw (q.fault cause (q.info 0 ipage false false (some b)) (some (at_, true)))
    else pure none : Exec (Option Byte))
  let s ← get
  match kind with
  | .nothing => throw (q.fault 0x1D#8 0#64 none)
  | .memory _ =>
    require (s.memReady pa) (q.fault 0x1D#8 0#64 none)
    require (s.homeReach c pa) (q.fault 0x1E#8 0#64 none)
    return used
  | k =>
    require (s.windowReady k) (q.fault 0x1D#8 0#64 none)
    return used

/-- The effective memory type of a PA: device windows are always uncached (R10, R207, R361). -/
def effType (kind : PaKind) (mt : MemType) : MemType :=
  match kind with
  | .dcs | .ecam | .outbound _ => if mt = .sideEffect then .sideEffect else .uncacheable
  | _ => mt

/-- The TLB entry that an access may use (R217): one with a key other than 0 never uses a keyless entry (R218). -/
def tlbFind (k : Core) (q : Req) (vmid : BitVec 16) (span : Fin 16) : Option TlbEntry :=
  k.tlb.find? (fun e => decide (e.ctxid = q.ctxid) && decide (e.vmid = vmid) && decide (e.span = span)
    && decide (e.vpage = q.va.toNat / 2 ^ e.size) && (decide (q.key = 0#4) || e.key.isSome))

/-- Whether two TLB entries are for one page of one span. -/
def TlbEntry.same (e f : TlbEntry) : Bool :=
  decide (e.vpage = f.vpage) && decide (e.size = f.size) && decide (e.ctxid = f.ctxid) && decide (e.vmid = f.vmid) && decide (e.span = f.span)

/-- Install a TLB entry: over the entry of its page that the access could not use (log entry 30), else in an invalid place, else over
a random one (R217). -/
def tlbInstall (c : CoreId) (e : TlbEntry) : M Unit := do
  let k ← getCore c
  if k.tlb.any (e.same ·) then modCore c (fun k => { k with tlb := k.tlb.map (fun f => if e.same f then e else f) })
  else if k.tlb.length < 96 then modCore c (fun k => { k with tlb := k.tlb ++ [e] })
  else
    let i ← drawBelow 96
    modCore c (fun k => { k with tlb := k.tlb.set i e })

/-- log2 of the bytes a TLB entry covers (R218): the leaf's block only when the whole block lies within the span and
XLAT is a multiple of its size, and no key is in use. -/
def entrySize (p : Span) (va : Word) (leaf : Leaf) (keyed : Bool) : Nat :=
  let sz := leaf.size
  if sz = 12 then 12
  else if keyed then 12
  else
    let lo := va.toNat / 2 ^ sz * 2 ^ sz
    if p.base.toNat ≤ lo ∧ lo + 2 ^ sz - 1 ≤ p.limit.toNat ∧ p.xlat.toNat % 2 ^ sz = 0 then sz else 12

/-- The TLB entry of an access at VA through span `i` (R217). -/
def mkEntry (q : Req) (p : Span) (i : Fin 16) (vmid : BitVec 16) (ipa : Nat) (leaf : Leaf) (key : Option Byte) : TlbEntry :=
  let sz := entrySize p q.va leaf (!decide (q.key = 0#4))
  { vpage := q.va.toNat / 2 ^ sz, size := sz, ctxid := q.ctxid, vmid := vmid, span := i, attr := p.attr,
    ipage := ipa / 2 ^ sz * 2 ^ (sz - 12), ppage := leaf.pa.toNat / 2 ^ sz * 2 ^ (sz - 12), r := leaf.r, w := leaf.w,
    x := leaf.x, d := leaf.d, c := leaf.c, se := leaf.se, level := leaf.level, leaf := leaf.at?, key := key }

/-- Translate through span `i` of a context, after stage 1's own checks (orders 3 to 13 of Table 8-7). -/
def viaSpan (c : CoreId) (q : Req) (p : Span) (i : Fin 16) (deny : PaKind → MemType → Bool) : Exec Xl := do
  let r ← lift (getRegs c)
  let ipa := (q.va.toNat + p.xlat.toNat) % 2 ^ 52
  let s2 := r.stage2 q.priv
  let vmid : BitVec 16 := if s2 then r.s2root.setWidth 16 else 0#16
  let spanSe := p.attr.getLsbD 7
  let spanC := p.attr.getLsbD 8
  let done (leaf : Leaf) (known : Option Byte) : Exec (Xl × Option Byte) := do
    let kind := (← get).paKind leaf.pa
    let mt := effType kind (memType (spanC && leaf.c) (spanSe || leaf.se))
    let b ← checkPa c q leaf.pa kind mt (if s2 then ipa / 4096 else 0) known deny
    return ({ pa := leaf.pa, kind := kind, mt := mt, span := some i, gen := p.gen }, b)
  let flat : Leaf := { pa := BitVec.ofNat 52 ipa, size := 12, level := 0, r := true, w := true, x := true, d := true, c := true, se := false, at? := none }
  let k ← lift (getCore c)
  match tlbFind k q vmid i with
  | some e =>
    let off := q.va.toNat % 2 ^ e.size
    let leaf : Leaf :=
      { pa := BitVec.ofNat 52 (e.ppage * 4096 + off), size := e.size, level := e.level, r := e.r, w := e.w, x := e.x, d := e.d,
        c := e.c, se := e.se, at? := e.leaf }
    if s2 then
      let bad := (q.acc.needsRead && !leaf.r) || (q.acc.needsWrite && !leaf.w) ||
        (decide (q.acc = .fetch) && (!leaf.x || leaf.se))
      require (!bad) (q.fault 0x0B#8 (q.info e.level (ipa / 4096) true (decide (q.acc = .fetch) && leaf.se) none)
        (e.leaf.map (fun a => (a, false))))
      if q.acc.needsWrite && !leaf.d then
        -- a write that hits D = 0 re-reads the leaf, which refreshes the entry (R217)
        let leaf' ← walk c q ipa
        let (x, b) ← done leaf' (if leaf'.pa = leaf.pa then e.key else none)
        lift (modCore c (fun k => { k with tlb := k.tlb.map (fun f => if f = e then mkEntry q p i vmid ipa leaf' b else f) }))
        return x
    return (← done leaf e.key).1
  | none =>
    lift (pmEvent c 0x40)
    let leaf ← (if s2 then walk c q ipa else pure flat : Exec Leaf)
    let (x, b) ← done leaf none
    lift (tlbInstall c (mkEntry q p i vmid ipa leaf b))
    return x

/-- Translate a request of core `c` in context `x` (Table 8-7 in order, after the EA check of R52). -/
def translateReq (c : CoreId) (x : Ctx) (q : Req) (deny : PaKind → MemType → Bool) : Exec Xl := do
  let r ← lift (getRegs c)
  let va := q.va
  require (!high56 va) (q.fault 0x08#8 (q.info 0 0 false false none) none)
  if r.s1en then
    match x.findSpan va with
    | none => throw (q.fault 0x08#8 (q.info 0 0 false false none) none)
    | some i =>
      let p := x.spans.get i
      let q := { q with span := i.val }
      match p.refuses q.acc (decide (q.priv = 0#2) && !q.acc.hardware) with
      | some se => throw (q.fault 0x09#8 (q.info 0 0 false se none) none)
      | none => viaSpan c q p i deny
  else
    require (decide (va >>> 52 = 0#64)) (q.fault 0x08#8 (q.info 0 0 false false none) none)
    let pa := toPa va
    let kind := (← get).paKind pa
    let mt := effType kind .cacheable
    let _ ← checkPa c q pa kind mt 0 none deny
    return { pa := pa, kind := kind, mt := mt, span := none, gen := 0 }

/-- Translate an access of core `c` in context `x` at a privilege and with a key. -/
def translateAs (c : CoreId) (x : Ctx) (priv : BitVec 2) (key : BitVec 4) (acc : Acc) (va : Word)
    (deny : PaKind → MemType → Bool) : Exec Xl :=
  translateReq c x { va := va, acc := acc, priv := priv, key := key, span := 0, ctxid := x.id } deny

/-- Translate an access at the current privilege, key and context. -/
def translate (c : CoreId) (acc : Acc) (va : Word) (deny : PaKind → MemType → Bool) : Exec Xl := do
  let x ← lift (getCtx c)
  translateAs c x x.csw.priv x.csw.key acc va deny

/-- Nothing is refused by R445. -/
def allowAll : PaKind → MemType → Bool := fun _ _ => false

/-- Anything but cacheable memory is refused by R445 (CAS, DSE bytes, DZL, log appends, TTT reads, frames). -/
def onlyCacheable : PaKind → MemType → Bool := fun k mt =>
  match k with
  | .dcs | .ecam | .outbound _ => true
  | _ => !decide (mt = .cacheable)

/-- An instruction fetch is refused by R445 in the device windows (R42). -/
def fetchDeny : PaKind → MemType → Bool := fun k _ =>
  match k with
  | .dcs | .ecam | .outbound _ => true
  | _ => false

/-- Shadow accesses and accesses of JAPPEND in the device windows are refused as a frame's lines are (R160, R361; DESIGN CHOICE, log entry 81). -/
def shadowDeny : PaKind → MemType → Bool := fun k _ =>
  match k with
  | .dcs | .ecam | .outbound _ => true
  | _ => false

/-- Translate a frame access through span SSPAN of context `x` (R160): both lines in that span, cacheable memory. CSW.PRIV decides whether
stage 2 applies (R208). -/
def translateFrame (c : CoreId) (x : Ctx) (acc : Acc) (va : Word) : Exec Xl := do
  let r ← lift (getRegs c)
  let priv := r.ctx.csw.priv
  let i : Fin 16 := ⟨x.wstat.sspan.toNat, x.wstat.sspan.isLt⟩
  let q : Req := { va := va, acc := acc, priv := priv, key := 0#4, span := i.val, ctxid := x.id }
  if r.s1en then
    let p := x.spans.get i
    require (!high56 va && p.covers va) (q.fault 0x08#8 0#64 none)
    match p.refuses acc false with
    | some se => throw (q.fault 0x09#8 (q.info 0 0 false se none) none)
    | none => viaSpan c q p i onlyCacheable
  else translateAs c x priv 0#4 acc va onlyCacheable

/-- Translate a context save area access: stage 2 only, at any privilege (R164, R208), and no translation
while stage 1 is disabled (R207). The leaf's C and SE decide the memory type (R215); a device window is refused (log entry 81). -/
def translateCsa (c : CoreId) (acc : Acc) (ipa : Pa) : Exec Xl := do
  let r ← lift (getRegs c)
  let q : Req := { va := ipa.setWidth 64, acc := acc, priv := 1#2, key := 0#4, span := 0, ctxid := 0#16 }
  let (pa, mt) ← (if r.s1en && r.s2root.getLsbD 52 then do
      let leaf ← walk c q ipa.toNat
      return (leaf.pa, memType leaf.c leaf.se)
    else pure (ipa, .cacheable) : Exec (Pa × MemType))
  let kind := (← get).paKind pa
  let mt := effType kind mt
  let _ ← checkPa c q pa kind mt 0 none shadowDeny
  return { pa := pa, kind := kind, mt := mt, span := none, gen := 0 }

/-- Remove TLB entries. -/
def tlbRemove (c : CoreId) (f : TlbEntry → Bool) : M Unit := modCore c (fun k => { k with tlb := k.tlb.filter (fun e => !f e) })

/-- What TLBI form 0–5 removes from one core (Table 8-10). -/
def tlbiRemove (c : CoreId) (form : Nat) (operand : Word) (vmid : BitVec 16) : M Unit :=
  let page := operand.toNat / 4096
  modCore c (fun k =>
    match form with
    | 0 | 5 => { k with tlb := [], walk := [] }
    | 1 => { k with tlb := k.tlb.filter (fun e => !decide (e.vmid = vmid)), walk := k.walk.filter (fun e => !decide (e.vmid = vmid)) }
    | 2 => { k with
        tlb := k.tlb.filter (fun e => !(decide (e.vmid = vmid) && decide (e.ipage ≤ page) && decide (page < e.ipage + 2 ^ (e.size - 12))))
        walk := k.walk.filter (fun e => !decide (e.vmid = vmid)) }
    | 3 => { k with tlb := k.tlb.filter (fun e => !(decide (e.vmid = vmid) && decide (e.ctxid = operand.setWidth 16))) }
    | 4 => { k with tlb := k.tlb.filter (fun e => !(decide (e.ppage ≤ page) && decide (page < e.ppage + 2 ^ (e.size - 12)))) }
    | _ => k)

/-- The second CAM port (R212): GEN and COND of the span that covers a pointer's payload. -/
def Ctx.secondPort (x : Ctx) (v : Word) : Option (Nat × Bool) :=
  (x.findSpan (addr56 v)).map (fun i => ((x.spans.get i).gen, (x.spans.get i).attr.getLsbD 11))

end Sys2Proof.Machine
end

