-- ==== Sys2Proof/Machine/Frames.lean ====
section
/-! DEFINITION. Shale windows, the spill buffer, the shadow stack and context banks (06, R155–R166). -/

namespace Sys2Proof.Machine

/-- CSW as a word (Table 6-3). -/
def Csw.pack (w : Csw) : Word :=
  placed w.priv.toNat 0 ||| placed w.cc.toNat 2 ||| bitAt w.earlyprod 4 ||| bitAt w.quiet 5 ||| placed w.fd.toNat 6 |||
  placed w.ilm.toNat 8 ||| placed w.key.toNat 12 ||| bitAt w.ublk 16

/-- CSW from a word (Table 6-3). -/
def Csw.unpack (w : Word) : Csw :=
  { priv := w.extractLsb' 0 2, cc := w.extractLsb' 2 2, earlyprod := w.getLsbD 4, quiet := w.getLsbD 5,
    fd := w.extractLsb' 6 2, ilm := w.extractLsb' 8 4, key := w.extractLsb' 12 4, ublk := w.getLsbD 16 }

/-- WSTAT as a word, with `n` occupied spill slots (Table 6-10). -/
def Wstat.pack (w : Wstat) (n : Nat) : Word :=
  placed w.cw.toNat 0 ||| placed w.ow.toNat 5 ||| bitAt w.owed 10 ||| placed n 11 ||| placed w.sspan.toNat 13 |||
  placed w.ttw.toNat 17 ||| bitAt w.ttv 22

/-- WSTAT from a word (Table 6-10). -/
def Wstat.unpack (w : Word) : Wstat :=
  { cw := w.extractLsb' 0 5, ow := w.extractLsb' 5 5, owed := w.getLsbD 10, sspan := w.extractLsb' 13 4,
    ttw := w.extractLsb' 17 5, ttv := w.getLsbD 22 }

/-- Resident windows of a context: the run OW … CW modulo 32 (R156). -/
def Ctx.resident (x : Ctx) : Nat := (x.wstat.cw - x.wstat.ow).toNat + 1

/-- Bank `b` of a core. -/
def Regs.bank (r : Regs) (b : Fin 4) : Ctx := unit r.banks b
/-- Registers with bank `b` replaced. -/
def Regs.setBank (r : Regs) (b : Fin 4) (x : Ctx) : Regs := { r with banks := setUnit r.banks b x }
/-- Change bank `b` of core `c`. -/
def modBank (c : CoreId) (b : Fin 4) (f : Ctx → Ctx) : M Unit := modRegs c (fun r => r.setBank b (f (r.bank b)))
/-- Read bank `b` of core `c`. -/
def getBank (c : CoreId) (b : Fin 4) : M Ctx := do return (← getRegs c).bank b

/-- TRAPINFO for causes 0x11–0x13 (Table 6-1). -/
def frameInfo (reason ucause win bank : Nat) : Word :=
  placed reason 0 ||| placed ucause 8 ||| placed win 16 ||| placed bank 21

/-- Report an exception of `m` as cause 0x11, 0x12 or 0x13 with its own cause as UCAUSE (R160). -/
def asFrameFault {α : Type} (cause : BitVec 8) (reason win bank : Nat) (m : Exec α) : Exec α :=
  tryCatch m (fun e => match e with
    | .exc x => throw (.exc { cause := cause, info := frameInfo reason x.cause.toNat win bank, faddr := x.faddr, fstat := x.fstat })
    | e => throw e)

/-- The 16 registers of the frame of window `w`: its k0–k7 then its a0–a7 (R155). -/
def Ctx.frame (x : Ctx) (w : BitVec 5) : Vector TW 16 :=
  Vector.ofFn (fun i => if i.val < 8 then x.entry w i.val else x.entry (w - 1#5) i.val)

/-- A context with the frame of window `w` written, registers `i` of a list. -/
def Ctx.setFrame (x : Ctx) (w : BitVec 5) (f : Vector TW 16) : List (Fin 16) → Ctx
  | [] => x
  | i :: t => (if i.val < 8 then x.setEntry w i.val (f.get i) else x.setEntry (w - 1#5) i.val (f.get i)).setFrame w f t

/-- The events of a full-word store that microcode makes (Table 11-3, K = 2 and K = 3). -/
def storeEvents (c : CoreId) (va : Word) (w : TW) : M Unit := do
  foldEvent c 2 va 8
  foldEvent c 3 w.val w.tag.toNat

/-- Push the words of a list as uncached stores at rising addresses from a VA and its PA. -/
def storeWords (c : CoreId) (va : Word) (pa : Pa) : List TW → Exec Unit
  | [] => pure ()
  | w :: t => do
    lift (storeEvents c va w)
    pushStore c (.word pa w true)
    storeWords c (va + 8#64) (pa + 8#52) t

/-- Line `i` of a run of words. -/
def lineAt (ws : List TW) (i : Nat) : Line := Vector.ofFn (fun j => ws.getD (8 * i + j.val) TW.zero)

/-- Fold the stores of a list of words at rising addresses. -/
def foldWords (c : CoreId) (va : Word) : List TW → M Unit
  | [] => pure ()
  | w :: t => do
    storeEvents c va w
    foldWords c (va + 8#64) t

/-- Push a list of lines as whole-line stores at rising addresses (R160, R164). -/
def storeLines (c : CoreId) (va : Word) (pa : Pa) : List Line → Exec Unit
  | [] => pure ()
  | l :: t => do
    lift (foldWords c va l.toList)
    pushStore c (.wholeLine pa l)
    storeLines c (va + 64#64) (pa + 64#52) t

/-- Read the words of `n` addresses from a VA and its PA on, as the loads of microcode (R279). -/
def loadWords (c : CoreId) (cached : Bool) (va : Word) (pa : Pa) : Nat → Exec (List TW)
  | 0 => return []
  | n + 1 => do
    let w ← if cached then readWord c pa else readWordUncached c pa
    queueWord c va pa 8 w
    let t ← loadWords c cached (va + 8#64) (pa + 8#52) n
    return w :: t

/-- Fold the writes of several registers (Table 11-3, K = 1). -/
def foldRegs (c : CoreId) : List TW → M Unit
  | [] => pure ()
  | w :: t => do
    foldEvent c 1 w.val w.tag.toNat
    foldRegs c t

/-- Fold WSTAT and WSP of bank `b` as they now are. -/
def foldWindow (c : CoreId) (b : Fin 4) : M Unit := do
  let r ← getRegs c
  foldAll c [(r.bank b).wstat.pack r.spill.length, (r.bank b).wsp]

/-- Spill a frame of bank `b` to WSP and advance WSP by 128 (R160). The microcode registers m0–m15 carry it (R186). -/
def spillFrame (c : CoreId) (b : Fin 4) (win : BitVec 5) (f : Vector TW 16) (cause : BitVec 8) (reason : Nat) : Exec Unit := do
  let r ← lift (getRegs c)
  let x := r.bank b
  let acc (i : Nat) : Exec Xl := asFrameFault cause reason win.toNat b.val
    (translateFrame c x .hwWrite (x.wsp + BitVec.ofNat 64 (64 * i)))
  let x0 ← acc 0
  let x1 ← acc 1
  lift (modCore c (fun k => { k with mregs := Vector.ofFn (fun i => if h : i.val < 16 then f.get ⟨i.val, h⟩ else k.mregs.get i) }))
  storeLines c x.wsp x0.pa [lineAt f.toList 0]
  storeLines c (x.wsp + 64#64) x1.pa [lineAt f.toList 1]
  lift (modBank c b (fun x => { x with wsp := x.wsp + 128#64 }))

/-- Fill the frame of window `win` of bank `b`: from its spill slot, or from WSP − 128 (R160). A word tagged 0x83 in the frame is copied as it
stands, of which R32 does not speak (DESIGN CHOICE, log entry 93). -/
def fillFrame (c : CoreId) (b : Fin 4) (win : BitVec 5) (cause : BitVec 8) : Exec Unit := do
  let r ← lift (getRegs c)
  match r.spill.find? (fun sl => decide (sl.bank = b) && decide (sl.win = win)) with
  | some sl =>
    lift (modRegs c (fun r => { r with spill := r.spill.filter (fun t => !decide (t = sl)) }))
    lift (modBank c b (fun x => x.setFrame win sl.frame (List.finRange 16)))
    lift (foldRegs c sl.frame.toList)
  | none =>
    let x := r.bank b
    let base := x.wsp - 128#64
    let acc (i : Nat) : Exec Xl := asFrameFault cause 3 win.toNat b.val
      (queueFault c (base + BitVec.ofNat 64 (64 * i)) 64 (translateFrame c x .hwRead (base + BitVec.ofNat 64 (64 * i))))
    let x0 ← acc 0
    let x1 ← acc 1
    let l0 ← loadWords c true base x0.pa 8
    let l1 ← loadWords c true (base + 64#64) x1.pa 8
    let ws := l0 ++ l1
    let f : Vector TW 16 := Vector.ofFn (fun i => ws.getD i.val TW.zero)
    lift (modCore c (fun k => { k with mregs := Vector.ofFn (fun i => if h : i.val < 16 then f.get ⟨i.val, h⟩ else k.mregs.get i) }))
    lift (modBank c b (fun x => { (x.setFrame win f (List.finRange 16)) with wsp := x.wsp - 128#64 }))
    lift (foldRegs c ws)

/-- Drain the oldest spill slot to its bank's WSP (R161); a fault is recorded and keeps the frame in its slot. -/
def drainSlot (c : CoreId) : Exec Unit := do
  let r ← lift (getRegs c)
  match r.spill with
  | [] => pure ()
  | sl :: rest =>
    tryCatch (do
      spillFrame c sl.bank sl.win sl.frame 0x11#8 2
      lift (modRegs c (fun r => { r with spill := rest, drainFault := none })))
      (fun e => do
        match e with
        | .exc x => lift (modRegs c (fun r => { r with drainFault := some { bank := sl.bank, info := x.info, faddr := x.faddr, fstat := x.fstat } }))
        | _ => pure ()
        throw e)

/-- Move frame OW of the current bank into a free spill slot, when the reserve is owed and FAULTDEPTH is 0 (R161). -/
def refillMove (c : CoreId) : M Unit := modRegs c (fun r =>
  let x := r.ctx
  if x.wstat.owed && decide (x.csw.fd = 0#2) && decide (r.spill.length < 2) then
    { (r.setCtx { x with wstat := { x.wstat with ow := x.wstat.ow + 1#5, owed := false } }) with
      spill := r.spill ++ [{ bank := r.cur, win := x.wstat.ow, frame := x.frame x.wstat.ow }] }
  else r)

/-- Wait until the spill buffer is empty and the reserve is not owed (R157 step 1, R161, R164): drains what it holds,
moving frame OW when it is owed. A drain fault stops the wait as cause 0x11, REASON 2, whatever bank the frame is of (log entry 82). -/
def settleFrames (c : CoreId) : Nat → Exec Unit
  | 0 => pure ()
  | n + 1 => do
    lift (refillMove c)
    if (← lift (getRegs c)).spill.isEmpty then pure ()
    else do
      drainSlot c
      settleFrames c n

/-- Bits [55:3] of an address register such as SHADOWSP (Table 6-11); the other bits read as zero. -/
def maskAddr8 : Word := 0x00FFFFFFFFFFFFF8#64

/-- Push a return address on the shadow stack (R163), while stage 1 is enabled. -/
def pushShadow (c : CoreId) (ret : Word) : Exec Unit := do
  let r ← lift (getRegs c)
  if r.s1en then
    let x := r.ctx
    let t ← asFrameFault 0x11#8 1 (x.wstat.cw + 1#5).toNat r.cur.val
      (translateAs c x x.csw.priv 0#4 .shadow x.shadowsp shadowDeny)
    lift (storeEvents c x.shadowsp { tag := 0x83#8, val := ret })
    pushStore c (.word t.pa { tag := 0x83#8, val := ret } (decide (t.mt ≠ .cacheable)))
    lift (modCtx c (fun x => { x with shadowsp := (x.shadowsp + 8#64) &&& maskAddr8 }))
    lift (foldSys c ((x.shadowsp + 8#64) &&& maskAddr8))

/-- Step 1 of SAVE: with 30 windows or more resident, the buffer empties and frame OW spills (R157). A frame spilled is an interruption
point (R162). -/
def spillStep (c : CoreId) : Exec Unit := between c (do
  let x ← lift (getCtx c)
  if 30 ≤ x.resident then
    settleFrames c 4
    let r ← lift (getRegs c)
    let x := r.ctx
    if 30 ≤ x.resident then
      spillFrame c r.cur x.wstat.ow (x.frame x.wstat.ow) 0x11#8 0
      lift (modCtx c (fun x => { x with wstat := { x.wstat with ow := x.wstat.ow + 1#5 } }))
      lift (foldWindow c r.cur)
      points c 1)

/-- SAVE (R157). -/
def doSave (c : CoreId) : Exec Unit := do
  let x ← lift (getCtx c)
  if x.csw.fd = 1#2 then throw .saveDepth
  spillStep c
  between c (do
    let x ← lift (getCtx c)
    pushShadow c (x.readIn x.wstat.cw 31#5).val
    lift (modCtx c (fun x =>
      { (x.clearWindow (x.wstat.cw + 1#5)) with wstat := { x.wstat with cw := x.wstat.cw + 1#5 } }))
    lift (foldSys c (({ x.wstat with cw := x.wstat.cw + 1#5 } : Wstat).pack ((← get).regs c).spill.length)))

/-- Fill frame OW − 1 when CW = OW (R158 step 1). A frame filled is an interruption point (R162). -/
def fillStep (c : CoreId) (cause : BitVec 8) : Exec Unit := between c (do
  let r ← lift (getRegs c)
  let x := r.ctx
  if x.wstat.cw = x.wstat.ow then
    fillFrame c r.cur (x.wstat.ow - 1#5) cause
    lift (modCtx c (fun x => { x with wstat := { x.wstat with ow := x.wstat.ow - 1#5 } }))
    lift (foldWindow c r.cur)
    points c 1)

/-- Give the current window back: fill frame OW − 1 when CW = OW, then CW := CW − 1 (R158 steps 1 and 3, R172). -/
def giveWindow (c : CoreId) (cause : BitVec 8) : Exec Unit := do
  fillStep c cause
  lift (modCtx c (fun x => { x with wstat := { x.wstat with cw := x.wstat.cw - 1#5, owed := false } }))
  let r ← lift (getRegs c)
  lift (foldSys c (r.ctx.wstat.pack r.spill.length))

/-- RESTORE (R158). -/
def doRestore (c : CoreId) : Exec Unit := do
  giveWindow c 0x12#8
  if (← lift (getRegs c)).s1en then
    lift (modCtx c (fun x => { x with shadowsp := (x.shadowsp - 8#64) &&& maskAddr8 }))
    lift (foldSys c (← lift (getCtx c)).shadowsp)

/-! ### Contexts (R164, R165) -/

/-- A context's registers as the words of its save area (Table 6-2), in order from offset 0. -/
def Ctx.csaWords (x : Ctx) : List TW :=
  let raw := fun w : Word => TW.raw w
  let prog := fun w : Word => ({ tag := 0x84#8, val := w } : TW)
  let mods := (List.finRange 4).flatMap (fun m => [raw (x.modbase.get m), raw (x.modsize.get m)])
  let pregs := (List.range 8).map (fun i => x.entry x.wstat.cw (8 + i))
  let spans := x.spans.toList.flatMap (fun p => [raw p.base, raw p.limit, raw p.xlat, raw p.attr])
  [raw x.pc, raw x.csw.pack, raw (({ x.wstat with ow := x.wstat.cw, owed := false } : Wstat).pack 0), raw x.wsp, raw x.shadowsp,
   raw (x.id.setWidth 64), raw x.loopcnt, raw x.pl, raw x.ph, prog x.proga, prog x.progb, prog x.progc, raw x.fpctl,
   raw (x.fpflags.setWidth 64), raw x.tttb, raw x.ttra, raw x.ttinfo] ++ mods ++
  [raw x.allocptr, raw x.alloclim, raw x.remlog, raw x.satblog, raw x.gcctl, raw x.jstat, raw 0#64] ++
  x.globals.toList ++ pregs ++ List.replicate 16 (raw 0#64) ++ spans ++ List.replicate 128 (raw 0#64)

/-- SPAN_BASE and SPAN_LIMIT page bits (Table 8-1). -/
def maskPage56 : Word := 0x00FFFFFFFFFFF000#64
/-- SPAN_XLAT page bits (Table 8-1). -/
def maskPage52 : Word := 0x000FFFFFFFFFF000#64
/-- REMLOG and SATBLOG (Table 10-3). -/
def maskLog : Word := 0x3FFFFFFFFFFFFFF8#64
/-- TTINFO (Table 3-8). -/
def maskTtinfo : Word := 0xFFFF03FFFFFF3F9F#64
/-- MODSIZE (Table 2-6). -/
def maskModsize : Word := 0x00000001FFFFFFF8#64
/-- JSTAT (Table 14-7). -/
def maskJstat : Word := 0x01FFFFFFFFFFFFFF#64

/-- A span from its four register values (Tables 8-1, 8-2). -/
def mkSpan (base limit xlat attr : Word) : Span :=
  { base := base &&& maskPage56, limit := (limit &&& maskPage56) ||| 0xFFF#64, xlat := xlat &&& maskPage52,
    attr := attr &&& 0x3FFF#64 }

/-- A context from the words of its save area; `id` and the area's address are CTXSW's operands (R164, R165). -/
def ctxOfCsa (id : BitVec 16) (csa : Pa) (ws : List TW) : Ctx :=
  let v := fun i : Nat => (ws.getD i TW.zero).val
  let wst := Wstat.unpack (v 2)
  let x : Ctx :=
    { id := id, csa := csa, pc := v 0, csw := Csw.unpack (v 1),
      wstat := { wst with ow := wst.cw + 1#5, owed := false }, wsp := v 3 &&& 0x00FFFFFFFFFFFF80#64,
      shadowsp := v 4 &&& maskAddr8, loopcnt := v 6, pl := v 7, ph := v 8, proga := v 9 &&& 0xFFFFFFFFFFFF1FFF#64,
      progb := v 10 &&& 0x00000FFFFFFFFFFF#64, progc := addr56 (v 11), fpctl := v 12 &&& 0xFF#64,
      fpflags := (v 13).setWidth 5, tttb := v 14 &&& 0x00FFFFFFFFFFFF00#64, ttra := v 15 &&& 0x00FFFFFFFFFFFFFC#64,
      ttinfo := v 16 &&& maskTtinfo,
      modbase := Vector.ofFn (fun m => v (17 + 2 * m.val) &&& maskAddr8),
      modsize := Vector.ofFn (fun m => v (18 + 2 * m.val) &&& maskModsize),
      allocptr := v 25 &&& maskAddr8, alloclim := v 26 &&& maskAddr8, remlog := v 27 &&& maskLog,
      satblog := v 28 &&& maskLog, gcctl := v 29 &&& 0x3F#64, jstat := v 30 &&& maskJstat,
      globals := Vector.ofFn (fun i => ws.getD (32 + i.val) TW.zero), shale := [],
      spans := Vector.ofFn (fun n => mkSpan (v (64 + 4 * n.val)) (v (65 + 4 * n.val)) (v (66 + 4 * n.val)) (v (67 + 4 * n.val))),
      stamp := 0 }
  (List.range 8).foldl (fun x i => x.setEntry wst.cw (8 + i) (ws.getD (40 + i) TW.zero)) x

/-- Whether a save area word passes the source check of MTS (R165): the word's index, its tag, its payload. -/
def csaWordBad (i : Nat) (w : TW) : Option (BitVec 8) :=
  if (32 ≤ i ∧ i < 64) ∨ i = 31 ∨ 128 ≤ i then none
  else if w.tag = 0x82#8 then some 0x06#8
  else if 9 ≤ i ∧ i ≤ 11 then (if w.tag = 0x84#8 then none else some 0x03#8)
  else if w.tag = 0x01#8 ∨ w.tag = 0x05#8 then (if i = 1 ∧ w.val.extractLsb' 0 2 = 2#2 then some 0x03#8 else none)
  else some 0x03#8

/-- The first word of a list that fails the check, with its index. -/
def csaFirstBad : Nat → List TW → Option (Nat × BitVec 8)
  | _, [] => none
  | i, w :: t => match csaWordBad i w with
    | some u => some (i, u)
    | none => csaFirstBad (i + 1) t

/-- The windows from OW to CW, oldest first; `n` is how many. -/
def windowRun (ow : BitVec 5) : Nat → List (BitVec 5)
  | 0 => []
  | n + 1 => ow :: windowRun (ow + 1#5) n

/-- Spill frames of a bank in order, OW advancing with each (R164), each an interruption point (R162). -/
def spillRun (c : CoreId) (b : Fin 4) : List (BitVec 5) → Exec Unit
  | [] => pure ()
  | w :: t => do
    between c (do
      let x ← lift (getBank c b)
      spillFrame c b w (x.frame w) 0x13#8 0
      lift (modBank c b (fun x => { x with wstat := { x.wstat with ow := x.wstat.ow + 1#5 } }))
      lift (foldWindow c b)
      points c 1)
    spillRun c b t

/-- Spill a whole bank: every resident frame oldest first, then its save area; then the bank is free (R164). -/
def spillBank (c : CoreId) (b : Fin 4) : Exec Unit := do
  let x ← lift (getBank c b)
  -- frames already spilled by an interrupted attempt are not resident any more: OW = CW + 1 leaves none
  let n := if x.wstat.ow = x.wstat.cw + 1#5 then 0 else x.resident
  spillRun c b (windowRun x.wstat.ow n)
  between c (do
    let x ← lift (getBank c b)
    let t ← asFrameFault 0x13#8 4 0 b.val (translateCsa c .hwWrite x.csa)
    if t.mt = .cacheable then storeLines c (x.csa.setWidth 64) t.pa ((List.range 32).map (lineAt x.csaWords))
    else storeWords c (x.csa.setWidth 64) t.pa x.csaWords
    lift (modBank c b (fun _ => Reset.ctx)))

/-- Fill bank `b` from a save area, then frame CW from WSP − 128 (R164, R165). The TLB forgets the CTXID first (R225). -/
def fillBank (c : CoreId) (b : Fin 4) (id : BitVec 16) (csa : Pa) : Exec Unit := between c (do
  let t ← asFrameFault 0x13#8 5 0 b.val (queueFault c (csa.setWidth 64) 64 (translateCsa c .hwRead csa))
  let ws ← loadWords c (decide (t.mt = .cacheable)) (csa.setWidth 64) t.pa 256
  match csaFirstBad 0 ws with
  | some (i, u) =>
    throw (excI 0x13#8 (frameInfo 5 u.toNat 0 b.val) (csa.setWidth 64 + BitVec.ofNat 64 (8 * i)))
  | none => pure ()
  let old ← lift (getBank c b)
  let x := ctxOfCsa id csa ws
  lift (modBank c b (fun _ => x))
  lift (tlbRemove c (fun e => decide (e.ctxid = id)))
  lift (foldRegs c ws)
  tryCatch (do
    fillFrame c b x.wstat.cw 0x13#8
    lift (modBank c b (fun x => { x with wstat := { x.wstat with ow := x.wstat.cw } })))
    (fun e => do lift (modBank c b (fun _ => old)); throw e))

/-- The banks CTXSW may use: not the monitor bank while MBANK = 1 (R166). -/
def Regs.usable (r : Regs) (b : Fin 4) : Bool := !(r.mbank && decide (b = 3))

/-- The bank that runs guest code: the current one, or under the monitor bank the interrupted guest (R166). -/
def Regs.guestBank (r : Regs) : Fin 4 := if r.mbank && decide (r.cur = 3) then r.guest else r.cur

/-- The least recently used usable bank but the guest's own (R164). -/
def Regs.lruBank (r : Regs) : Option (Fin 4) :=
  ((List.finRange 4).filter (fun b => r.usable b && !decide (b = r.guestBank))).foldl (fun acc b =>
    match acc with
    | none => some b
    | some a => if (r.bank b).stamp < (r.bank a).stamp then some b else some a) none

/-- A bank that holds nothing: free for CTXSW, other than the running one. -/
def Regs.freeBank (r : Regs) : Option (Fin 4) :=
  (List.finRange 4).find? (fun b => r.usable b && !decide (b = r.guestBank) && decide ((r.bank b).id = 0#16))

/-- Make a pending product visible in the current context (R62). -/
def Regs.showProduct (r : Regs) : Regs :=
  match r.prod with
  | none => r
  | some (h, l) => { (r.setCtx { r.ctx with ph := h, pl := l }) with prod := none }

/-- The bank becomes the running guest: the old one resumes at `ret`, the new one's stamp is renewed. Under the monitor
bank it is only selected for the next RTT (R164, R166). -/
def switchGuest (c : CoreId) (b : Fin 4) (ret : Word) : M Unit := modRegs c (fun r =>
  let top := ((List.finRange 4).map (fun i => (r.bank i).stamp)).foldl max 0
  let r := r.setBank b { r.bank b with stamp := top + 1 }
  if r.mbank && decide (r.cur = 3) then { r with guest := b, guestSel := true }
  else { (r.setCtx { r.ctx with pc := ret }) with cur := b })

/-- CTXSW to context `id` with save area `csa` (R164), after its operand checks; `ret` is CTXSW + 4. -/
def contextSwitch (c : CoreId) (id : BitVec 16) (csa : Pa) (ret : Word) : Exec Unit := do
  lift (modRegs c (·.showProduct))
  between c (settleFrames c 4)
  let r ← lift (getRegs c)
  if r.ctx.id = id then
    lift (modRegs c (fun r => if r.deliv then { r with fdq := [], deliv := false } else r))
  else
    match (List.finRange 4).find? (fun b => r.usable b && decide ((r.bank b).id = id)) with
    | some b =>
      require (decide ((r.bank b).csa = csa)) (excI 0x13#8 (frameInfo 6 0 0 b.val) 0#64)
      -- a bank whose frames an interrupted spill has all written takes frame CW back first
      if (r.bank b).wstat.ow = (r.bank b).wstat.cw + 1#5 then
        between c (fillFrame c b (r.bank b).wstat.cw 0x13#8)
        lift (modBank c b (fun x => { x with wstat := { x.wstat with ow := x.wstat.cw } }))
      lift (modRegs c (fun r => if r.deliv then { r with fdq := [], deliv := false } else r))
      lift (switchGuest c b ret)
    | none =>
      let b ← (match r.freeBank with
        | some b => pure b
        | none => match r.lruBank with
          | some b => do spillBank c b; pure b
          | none => throw .hold : Exec (Fin 4))
      fillBank c b id csa
      lift (modRegs c (fun r => if r.deliv then { r with fdq := [], deliv := false } else r))
      lift (switchGuest c b ret)

end Sys2Proof.Machine
end

