-- ==== Sys2Proof/Machine/SysRegs.lean ====
section
/-! DEFINITION. The system registers: their numbers and privileges, what MFS reads and what MTS writes. -/

namespace Sys2Proof.Machine

/-- The highest pending interrupt: the lowest level, and within it the lowest vector (R173). -/
def bestPending : Tab (BitVec 4) → Option (Nat × BitVec 4)
  | [] => none
  | (v, l) :: t => match bestPending t with
    | none => some (v, l)
    | some (v', l') => if l'.toNat < l.toNat then some (v', l') else some (v, l)

/-- IPEND0 (base 0x80) or IPEND1 (base 0xC0): bit = vector − base (Table 6-11). -/
def ipendWord (t : Tab (BitVec 4)) (base : Nat) : Word :=
  t.foldl (fun w e => if base ≤ e.1 ∧ e.1 < base + 64 then w ||| placed 1 (e.1 - base) else w) 0#64

/-- FDQn.INFO (Table 4-9). -/
def FdqEntry.info (e : FdqEntry) : Word :=
  e.iword.setWidth 64 ||| placed e.flags.toNat 32 ||| bitAt e.assist 37 ||| bitAt e.repl 38 ||| bitAt true 39 |||
  placed e.priv.toNat 40 ||| placed e.rm.toNat 42 ||| placed e.cw.toNat 44

/-- A register of FDQn: `r` = 0 INFO, 1 ADDR, 2 OPA, 3 OPB, 4 OPC, 5 RESULT (Table 4-10). -/
def Regs.fdqReg (x : Regs) (n : Fin 4) (r : Nat) : Word :=
  match x.fdq[n.val]? with
  | some e => match r with
    | 0 => e.info | 1 => e.addr | 2 => e.opa | 3 => e.opb | 4 => e.opc | _ => e.result
  | none => match r with
    | 0 => bitAt (x.fdqIdle.get n).1 38
    | 5 => (x.fdqIdle.get n).2
    | _ => 0#64

/-- Rallies of a pair in the current counting window (Table 11-10, RALLYWIN). -/
def rallyWin (s : State) (p : Pair) : Nat := (p.rallyTimes.filter (fun t => decide (s.now < t + s.rallyRuleNs))).length

/-- The value of system register `n` of core `c` (payload), as MFS reads it (R73). PL and PH read what is visible. -/
def State.sysValue (s : State) (c : CoreId) (n : Nat) : Word :=
  let k := s.core c
  let r := k.regs
  let x := r.ctx
  let p := s.pair (pairOf c)
  if n = 0x000 then x.csw.pack
  else if n = 0x001 then r.hdtb
  else if n = 0x002 then r.trapcause.setWidth 64
  else if n = 0x003 then r.trapaddr
  else if n = 0x004 then r.trapinfo
  else if n = 0x008 then match bestPending k.ipend with
    | none => 0#64
    | some (v, l) => placed l.toNat 0 ||| bitAt true 4 ||| placed v 8
  else if n = 0x009 then ipendWord k.ipend 0x80
  else if n = 0x00A then ipendWord k.ipend 0xC0
  else if n = 0x00C then r.uctl
  else if n = 0x018 then x.tttb
  else if n = 0x019 then x.ttra
  else if n = 0x01A then x.ttinfo
  else if n = 0x030 then x.loopcnt
  else if n = 0x040 then x.proga
  else if n = 0x041 then x.progb
  else if n = 0x042 then x.progc
  else if h : 0x100 ≤ n ∧ n < 0x140 then
    let sp := x.spans.get ⟨(n - 0x100) / 4, by omega⟩
    match n % 4 with
    | 0 => sp.base | 1 => sp.limit | 2 => sp.xlat | _ => sp.attr
  else if n = 0x140 then r.s2root
  else if n = 0x141 then r.fstat
  else if n = 0x142 then r.faddr
  else if n = 0x143 then bitAt r.s1en 0 ||| bitAt r.keyen 1 ||| bitAt r.wcen 2 ||| placed k.tlb.length 8
  else if n = 0x144 then r.keybase
  else if n = 0x145 then r.keylim
  else if n = 0x200 then x.fpctl
  else if n = 0x201 then x.fpflags.setWidth 64 ||| placed r.fdq.length 8 ||| bitAt r.deliv 11
  else if n = 0x202 then r.fdqra
  else if n = 0x210 then x.pl
  else if n = 0x211 then x.ph
  else if h : 0x220 ≤ n ∧ n < 0x240 then r.fdqReg ⟨(n - 0x220) / 8, by omega⟩ (n % 8)
  else if n = 0x300 then x.wsp
  else if n = 0x301 then x.wstat.pack r.spill.length
  else if n = 0x302 then x.id.setWidth 64 ||| placed r.cur.val 16
  else if n = 0x303 then ((List.finRange 4).map (fun b => placed (r.bank b).id.toNat (16 * b.val))).foldl (· ||| ·) 0#64
  else if n = 0x304 then x.shadowsp
  else if n = 0x305 then r.ctxctlBank.setWidth 64 ||| bitAt r.mbank 4
  else if h : 0x308 ≤ n ∧ n < 0x30C then (r.bank ⟨n - 0x308, by omega⟩).csa.setWidth 64
  else if 0x340 ≤ n ∧ n < 0x360 then
    let g := r.bank r.guestBank
    (g.readIn g.wstat.cw (BitVec.ofNat 5 (n - 0x340))).val
  else if n = 0x400 then x.allocptr
  else if n = 0x401 then x.alloclim
  else if n = 0x402 then x.remlog
  else if n = 0x403 then x.satblog
  else if n = 0x404 then x.gcctl
  else if n = 0x408 then x.jstat
  else if h : 0x420 ≤ n ∧ n < 0x428 then
    if n % 2 = 0 then x.modbase.get ⟨(n - 0x420) / 2, by omega⟩ else x.modsize.get ⟨(n - 0x420) / 2, by omega⟩
  else if n = 0x500 then bitAt k.l2en 0 ||| bitAt k.vcen 2
  else if n = 0x501 then bitAt k.l2Use 0 ||| bitAt k.fdbusy 1 ||| bitAt k.fddone 2 ||| bitAt k.held 3 ||| placed k.dirtyheld 4
  else if n = 0x502 then k.lockD.setWidth 64 ||| placed k.lockI.toNat 8
  else if n = 0x600 then bitAt p.checked 0 ||| bitAt (!p.checked && isOdd c) 1 ||| placed (pairOf c).val 2
  else if n = 0x601 then placed (rallyWin s p % 256) 0 ||| placed p.rallies.toNat 8 ||| bitAt p.suspect 24
  else if n = 0x602 then (if p.checked then p.slipNext.setWidth 64 else 128#64)
  else if n = 0x603 then (if p.checked then p.winlenNext.setWidth 64 else 256#64)
  else if h : 0x700 ≤ n ∧ n < 0x708 then
    let d := r.ib.get ⟨(n - 0x700) / 2, by omega⟩
    if n % 2 = 0 then d.addr else d.ctl
  else if h : 0x708 ≤ n ∧ n < 0x710 then
    let d := r.dw.get ⟨(n - 0x708) / 2, by omega⟩
    if n % 2 = 0 then d.addr else d.ctl
  else if n = 0x710 then bitAt r.skip 0 ||| bitAt r.sstep 1
  else if h : 0x740 ≤ n ∧ n < 0x750 then
    let q := k.pm.get ⟨(n - 0x740) / 2, by omega⟩
    if n % 2 = 0 then q.ctl else q.cnt.setWidth 64
  else 0#64

/-- The MFS tag of a system register: 0x84 for PROGA–PROGC, the guest register's for GVIEW, as Table 6-12 gives it beside R73's rule
(DEDUCED, log entry 84), and 0x05 for every other. -/
def State.sysTag (s : State) (c : CoreId) (n : Nat) : Tag :=
  let r := s.regs c
  if n = 0x040 ∨ n = 0x041 ∨ n = 0x042 then 0x84#8
  else if 0x340 ≤ n ∧ n < 0x360 then
    let g := r.bank r.guestBank
    (g.readIn g.wstat.cw (BitVec.ofNat 5 (n - 0x340))).tag
  else 0x05#8

/-- Registers whose value a checked pair takes from the delivery log (R276). -/
def isInputReg (n : Nat) : Bool :=
  decide (n = 0x008) || decide (n = 0x009) || decide (n = 0x00A) || decide (n = 0x601) || (decide (0x700 ≤ n) && decide (n < 0x800))

/-- Read PL or PH (R62): a pending product is not visible yet, and reading it early sets CSW.EARLYPROD. -/
def readProduct (c : CoreId) (high : Bool) : M Word := do
  let r ← getRegs c
  if r.prod.isSome then modCtx c (fun x => { x with csw := { x.csw with earlyprod := true } })
  return if high then r.ctx.ph else r.ctx.pl

/-- MFS of register `n` (R73). -/
def mfsValue (c : CoreId) (n : Nat) : Exec TW := do
  if n = 0x210 then return TW.raw (← lift (readProduct c false))
  else if n = 0x211 then return TW.raw (← lift (readProduct c true))
  else
    let s ← get
    let w : TW := { tag := s.sysTag c n, val := s.sysValue c n }
    if isInputReg n then inputRead c (BitVec.ofNat 12 n) w else return w

/-- A word of the HDT, read physically (R169): its value, or the cause and payload of the failure. -/
def descWord (c : CoreId) (pa : Pa) : M (Except (BitVec 8 × Word) Word) := do
  let s ← get
  match s.paKind pa with
  | .memory _ =>
    if !s.memReady pa then return .error (0x1D#8, 0#64)
    else if !s.homeReach c pa then return .error (0x1E#8, 0#64)
    else
      let l ← readLine c (lineOf pa)
      let w := (← get).forward c pa (l.get (wordIx pa))
      if w.tag = 0x82#8 then return .error (0x06#8, w.val) else return .ok w.val
  | _ => return .error (0x1D#8, 0#64)

/-- Read the descriptor at a PA (R168): the first failing word's PA, cause and payload on failure. -/
def readDesc (c : CoreId) (pa : Pa) : M (Except (Pa × BitVec 8 × Word) Desc) := do
  match ← descWord c pa with
  | .error (u, v) => return .error (pa, u, v)
  | .ok w0 => match ← descWord c (pa + 8#52) with
    | .error (u, v) => return .error (pa + 8#52, u, v)
    | .ok w1 => match ← descWord c (pa + 16#52) with
      | .error (u, v) => return .error (pa + 16#52, u, v)
      | .ok w2 => match ← descWord c (pa + 24#52) with
        | .error (u, v) => return .error (pa + 24#52, u, v)
        | .ok w3 => return .ok { w0 := w0, w1 := w1, w2 := w2, w3 := w3 }

/-- Load descriptors 0x80 + i for the pinned cache (R169). -/
def readPinned (c : CoreId) (base : Pa) : List (Fin 16) → Exec (List Desc)
  | [] => return []
  | i :: t => do
    match ← lift (readDesc c (base + BitVec.ofNat 52 (32 * (0x80 + i.val)))) with
    | .error (pa, u, v) => throw (excI u v (pa.setWidth 64))
    | .ok d =>
      let ds ← readPinned c base t
      return d :: ds

/-- MTS to HDTB (R169). -/
def mtsHdtb (c : CoreId) (v : Word) : Exec Unit := do
  let base := v &&& 0x000FFFFFFFFFE000#64
  let ds ← readPinned c (toPa base) (List.finRange 16)
  lift (modRegs c (fun r => { r with hdtb := base, pinned := Vector.ofFn (fun i => ds.getD i.val Reset.desc) }))

/-- MTS to CSW (R167): the fields the privilege may write. -/
def mtsCsw (c : CoreId) (v : Word) : M Unit := modCtx c (fun x =>
  let n := Csw.unpack v
  let w := { x.csw with cc := n.cc, earlyprod := n.earlyprod, quiet := n.quiet }
  { x with csw := if x.csw.priv = 0#2 then w else { w with ilm := n.ilm, key := n.key } })

/-- MTS to a span register (R225): entries made from the span go, and those of higher spans that it covers now. -/
def mtsSpan (c : CoreId) (i : Fin 16) (which : Nat) (v : Word) : M Unit := do
  modCtx c (fun x =>
    let p := x.spans.get i
    let p' := match which with
      | 0 => { p with base := v &&& maskPage56 }
      | 1 => { p with limit := (v &&& maskPage56) ||| 0xFFF#64 }
      | 2 => { p with xlat := v &&& maskPage52 }
      | _ => { p with attr := v &&& 0x3FFF#64 }
    { x with spans := setUnit x.spans i p' })
  let x ← getCtx c
  let p := x.spans.get i
  tlbRemove c (fun e => decide (e.ctxid = x.id) && (decide (e.span = i) ||
    (decide (i.val < e.span.val) && p.attr.getLsbD 0 &&
      decide (p.base.toNat < (e.vpage + 1) * 2 ^ e.size) && decide (e.vpage * 2 ^ e.size ≤ p.limit.toNat))))

/-- MTS to S2ROOT (R226). -/
def mtsS2root (c : CoreId) (v : Word) : Exec Unit := do
  let w := v &&& 0x001FFFFFFFFFFFFF#64
  require (!(w.getLsbD 52 && decide (fieldN w 0 16 = 0))) (exc0 0x03#8)
  lift (modRegs c (fun r => { r with s2root := w }))

/-- MTS to TTINFO (R444). -/
def mtsTtinfo (c : CoreId) (v : Word) : M Unit := modCtx c (fun x =>
  let w := v &&& maskTtinfo
  { x with ttinfo := w
           wstat := if w.getLsbD 7 then { x.wstat with ttw := x.wstat.cw, ttv := true } else { x.wstat with ttv := false } })

/-- MTS to PL or PH (R62): a pending product becomes visible first. -/
def mtsProduct (c : CoreId) (high : Bool) (v : Word) : M Unit := modRegs c (fun r =>
  let r := r.showProduct
  r.setCtx (if high then { r.ctx with ph := v } else { r.ctx with pl := v }))

/-- MTS to GCCTL (R270): TAGW only from Supervisor up. -/
def mtsGcctl (c : CoreId) (v : Word) : M Unit := modCtx c (fun x =>
  { x with gcctl := if x.csw.priv = 0#2 then (v &&& 0x37#64) ||| (x.gcctl &&& 0x08#64) else v &&& 0x3F#64 })

/-- MTS to CTXCTL (Table 6-11): BANK, MBANK at Monitor, then SPILL or DISCARD of the selected bank, which is ignored for
the current bank and for the monitor bank while MBANK = 1. -/
def mtsCtxctl (c : CoreId) (v : Word) : Exec Unit := do
  let x ← lift (getCtx c)
  let bank : BitVec 2 := v.extractLsb' 0 2
  let old ← lift (getRegs c)
  let mb := if x.csw.priv = 3#2 then v.getLsbD 4 else old.mbank
  let b : Fin 4 := ⟨bank.toNat, bank.isLt⟩
  let ignored := decide (b = old.cur) || (mb && decide (b = 3))
  if v.getLsbD 2 && !ignored && !decide ((old.bank b).id = 0#16) then spillBank c b
  if v.getLsbD 3 && !ignored then lift (modBank c b (fun _ => Reset.ctx))
  lift (modRegs c (fun r => { r with ctxctlBank := bank, mbank := mb }))

/-- MTS to TLBCTL (Table 8-12). -/
def mtsTlbctl (c : CoreId) (v : Word) : M Unit := do
  modRegs c (fun r => { r with s1en := v.getLsbD 0, keyen := v.getLsbD 1, wcen := v.getLsbD 2 })
  if v.getLsbD 3 then modCore c (fun k => { k with tlb := [], walk := [] })

/-- MTS to CACHECTL (Table 9-7, R248–R250): L2FD first; then L2EN cleared or set; then VCEN. -/
def mtsCachectl (c : CoreId) (v : Word) : M Unit := do
  let k ← getCore c
  if v.getLsbD 1 && !k.fdbusy then
    modCore c (fun k => { k with fdbusy := true })
  else if k.l2en && !v.getLsbD 0 && !k.fdbusy then
    -- R248: contents kept, out of coherence
    let dirty := (k.l2.filter (fun e => decide (e.2.st = .m))).length
    modCore c (fun k => { k with l2en := false, held := true, dirtyheld := dirty })
    dirReleaseAll c
  else if !k.l2en && v.getLsbD 0 && !k.fdbusy then
    modCore c (fun k => { k with l2en := true })
  modCore c (fun k => { k with vcen := v.getLsbD 2, victim := if v.getLsbD 2 then k.victim else [] })

/-- A number clamped to a range. -/
def clampN (lo hi v : Nat) : Nat := max lo (min hi v)

/-- MTS of `w` to register `n` (R73): writes to read-only registers and fields are ignored. Only GVIEW keeps the tag. -/
def mtsWrite (c : CoreId) (n : Nat) (w : TW) : Exec Unit := do
  let v := w.val
  let chk := (← get).pair (pairOf c)
  if n = 0x000 then lift (mtsCsw c v)
  else if n = 0x001 then mtsHdtb c v
  else if n = 0x002 then lift (modRegs c (fun r => { r with trapcause := v.setWidth 8 }))
  else if n = 0x003 then lift (modRegs c (fun r => { r with trapaddr := addr56 v }))
  else if n = 0x004 then lift (modRegs c (fun r => { r with trapinfo := v }))
  else if n = 0x009 then lift (modCore c (fun k => { k with ipend := k.ipend.filter (fun e => !(decide (0x80 ≤ e.1) && decide (e.1 < 0xC0) && v.getLsbD (e.1 - 0x80))) }))
  else if n = 0x00A then lift (modCore c (fun k => { k with ipend := k.ipend.filter (fun e => !(decide (0xC0 ≤ e.1) && v.getLsbD (e.1 - 0xC0))) }))
  else if n = 0x00C then lift (modRegs c (fun r => { r with uctl := v &&& 0xF1#64 }))
  else if n = 0x018 then lift (modCtx c (fun x => { x with tttb := v &&& 0x00FFFFFFFFFFFF00#64 }))
  else if n = 0x019 then lift (modCtx c (fun x => { x with ttra := v &&& 0x00FFFFFFFFFFFFFC#64 }))
  else if n = 0x01A then lift (mtsTtinfo c v)
  else if n = 0x030 then lift (modCtx c (fun x => { x with loopcnt := v }))
  else if n = 0x040 then lift (modCtx c (fun x => { x with proga := v &&& 0xFFFFFFFFFFFF1FFF#64 }))
  else if n = 0x041 then lift (modCtx c (fun x => { x with progb := v &&& 0x00000FFFFFFFFFFF#64 }))
  else if n = 0x042 then lift (modCtx c (fun x => { x with progc := addr56 v }))
  else if h : 0x100 ≤ n ∧ n < 0x140 then lift (mtsSpan c ⟨(n - 0x100) / 4, by omega⟩ (n % 4) v)
  else if n = 0x140 then mtsS2root c v
  else if n = 0x142 then lift (modRegs c (fun r => { r with faddr := v }))
  else if n = 0x143 then lift (mtsTlbctl c v)
  else if n = 0x144 then lift (modRegs c (fun r => { r with keybase := v &&& maskPage52 }))
  else if n = 0x145 then lift (modRegs c (fun r => { r with keylim := v &&& 0x000000FFFFFFFFFF#64 }))
  else if n = 0x200 then lift (modCtx c (fun x => { x with fpctl := v &&& 0xFF#64 }))
  else if n = 0x201 then lift (modCtx c (fun x => { x with fpflags := v.setWidth 5 }))
  else if n = 0x210 then lift (mtsProduct c false v)
  else if n = 0x211 then lift (mtsProduct c true v)
  else if h : 0x220 ≤ n ∧ n < 0x240 then
    let i : Fin 4 := ⟨(n - 0x220) / 8, by omega⟩
    lift (modRegs c (fun r =>
      if i.val < r.fdq.length then
        { r with fdq := r.fdq.modify i.val (fun e =>
            if n % 8 = 0 then { e with repl := v.getLsbD 38 } else if n % 8 = 5 then { e with result := v } else e) }
      else
        let o := r.fdqIdle.get i
        { r with fdqIdle := setUnit r.fdqIdle i (if n % 8 = 0 then (v.getLsbD 38, o.2) else if n % 8 = 5 then (o.1, v) else o) }))
  else if n = 0x300 then lift (modCtx c (fun x => { x with wsp := v &&& 0x00FFFFFFFFFFFF80#64 }))
  else if n = 0x301 then lift (modCtx c (fun x => { x with wstat := { x.wstat with sspan := v.extractLsb' 13 4 } }))
  else if n = 0x304 then lift (modCtx c (fun x => { x with shadowsp := v &&& maskAddr8 }))
  else if n = 0x305 then mtsCtxctl c v
  else if 0x340 ≤ n ∧ n < 0x360 then
    lift (modRegs c (fun r =>
      let g := r.bank r.guestBank
      r.setBank r.guestBank (g.writeIn g.wstat.cw (BitVec.ofNat 5 (n - 0x340)) w)))
  else if n = 0x400 then lift (modCtx c (fun x => { x with allocptr := v &&& maskAddr8 }))
  else if n = 0x401 then lift (modCtx c (fun x => { x with alloclim := v &&& maskAddr8 }))
  else if n = 0x402 then lift (modCtx c (fun x => { x with remlog := v &&& maskLog }))
  else if n = 0x403 then lift (modCtx c (fun x => { x with satblog := v &&& maskLog }))
  else if n = 0x404 then lift (mtsGcctl c v)
  else if n = 0x408 then lift (modCtx c (fun x => { x with jstat := v &&& maskJstat }))
  else if h : 0x420 ≤ n ∧ n < 0x428 then
    let m : Fin 4 := ⟨(n - 0x420) / 2, by omega⟩
    lift (modCtx c (fun x =>
      if n % 2 = 0 then { x with modbase := setUnit x.modbase m (v &&& maskAddr8) }
      else { x with modsize := setUnit x.modsize m (v &&& maskModsize) }))
  else if n = 0x500 then lift (mtsCachectl c v)
  else if n = 0x501 then lift (modCore c (fun k => { k with fddone := k.fddone && !v.getLsbD 2 }))
  else if n = 0x600 then (do if chk.checked && v.getLsbD 8 then lift (modPair (pairOf c) (fun p => { p with winend := true })))
  else if n = 0x602 then (do if chk.checked then lift (modPair (pairOf c) (fun p => { p with slipNext := BitVec.ofNat 10 (clampN 32 512 (fieldN v 0 10)) })))
  else if n = 0x603 then (do if chk.checked then lift (modPair (pairOf c) (fun p => { p with winlenNext := BitVec.ofNat 11 (clampN 64 1024 (fieldN v 0 11)) })))
  else if h : 0x700 ≤ n ∧ n < 0x708 then
    let i : Fin 4 := ⟨(n - 0x700) / 2, by omega⟩
    lift (modRegs c (fun r =>
      let d := r.ib.get i
      { r with ib := setUnit r.ib i (if n % 2 = 0 then { d with addr := v &&& 0x00FFFFFFFFFFFFFC#64 } else { d with ctl := v &&& 0x1F#64 }) }))
  else if h : 0x708 ≤ n ∧ n < 0x710 then
    let i : Fin 4 := ⟨(n - 0x708) / 2, by omega⟩
    lift (modRegs c (fun r =>
      let d := r.dw.get i
      { r with dw := setUnit r.dw i (if n % 2 = 0 then { d with addr := v &&& maskAddr8 } else { d with ctl := v &&& 0xF7F#64 }) }))
  else if n = 0x710 then lift (modRegs c (fun r => { r with skip := v.getLsbD 0, sstep := v.getLsbD 1 }))
  else if h : 0x740 ≤ n ∧ n < 0x750 then
    let i : Fin 8 := ⟨(n - 0x740) / 2, by omega⟩
    lift (modCore c (fun k =>
      let q := k.pm.get i
      { k with pm := setUnit k.pm i (if n % 2 = 0 then
          { q with ctl := (v &&& 0xFFF#64) ||| (if v.getLsbD 12 then 0#64 else q.ctl &&& 0x1000#64) }
        else { q with cnt := v.setWidth 48 }) }))
  else pure ()

end Sys2Proof.Machine
end

