-- ==== Sys2Proof/Machine/Traps.lean ====
section
/-! DEFINITION. Trap entry and return: the HDT, double and triple faults, tag traps, RTT (06 R168–R178, 03 R90–R93). -/

namespace Sys2Proof.Machine

/-- Whether a descriptor is invalid (R168). -/
def Desc.invalid (d : Desc) : Bool :=
  !d.w2.getLsbD 16 || decide (fieldN d.w2 0 2 = 2) ||
  !decide (d.w0 &&& 0xFF00000000000003#64 = 0#64) || !decide (d.w1 &&& 0xFF0000000000007F#64 = 0#64) ||
  !decide (d.w2 &&& 0xFFFFFFFFFFC0000C#64 = 0#64) || !decide (d.w3 = 0#64)

/-- CSW after an entry through descriptor `d` (R170 step 7), with the new FAULTDEPTH and UBLK. -/
def Csw.entered (w : Csw) (d : Desc) (fd : BitVec 2) (ublk : Bool) : Csw :=
  let dp : BitVec 2 := d.w2.extractLsb' 0 2
  { w with
    priv := if w.priv.toNat < dp.toNat then dp else w.priv
    ilm := if d.w2.getLsbD 18 then w.ilm else d.w2.extractLsb' 4 4
    key := if d.w2.getLsbD 19 then w.key else d.w2.extractLsb' 8 4
    quiet := d.w2.getLsbD 20
    fd := fd
    ublk := ublk }

/-- FSTAT as an exception writes it (R170 step 3, Table 8-12). -/
def fstatWord : Option (Pa × Bool) → Word
  | none => 0#64
  | some (pa, keyb) => pa.setWidth 64 ||| bitAt keyb 62 ||| bitAt true 63

/-- A triple fault (R178, R297): the core, or the whole checked pair, stops and is reported to Fisin. -/
def tripleFault (c : CoreId) (first entry last : Nat) : M Unit := do
  let p := pairOf c
  fisinLog 1 p.val 4 (placed first 0 ||| placed entry 8 ||| placed last 16) 0#64
  let q ← getPair p
  beginRetire p (if q.checked then 3#2 else if isOdd c then 2#2 else 1#2) 4#4

/-- Fold what a trap entry has written: the trap registers, CSW, k5, k6 and k7 (Table 11-3, K = 1). -/
def foldEntry (c : CoreId) (e : Nat) (exc : Bool) (oldCsw ret : Word) : M Unit := do
  let r ← getRegs c
  foldAll c ([r.trapaddr, r.trapcause.setWidth 64] ++ (if exc then [r.trapinfo, r.faddr, r.fstat] else []) ++ [r.ctx.csw.pack])
  foldRegs c [TW.fix (BitVec.ofNat 64 e), TW.raw oldCsw, TW.raw ret]

/-- Write the registers of an HDT entry's window: k5, k6 and k7 (R170 step 6). -/
def Ctx.enterWindow (x : Ctx) (e : Nat) (oldCsw ret : Word) : Ctx :=
  let w := x.wstat.cw + 1#5
  let x := x.clearWindow w
  let x := ((x.setEntry w 5 (TW.fix (BitVec.ofNat 64 e))).setEntry w 6 (TW.raw oldCsw)).setEntry w 7 (TW.raw ret)
  let st := { x.wstat with cw := w }
  { x with wstat := { st with owed := decide ((st.cw - st.ow).toNat + 1 = 31) } }

/-- A double-fault entry (R177): through descriptor 0x3F into the fault bank; a failure of that descriptor is a triple fault. -/
def enterDouble (c : CoreId) (entry why : Nat) (tt : Option Nat) (ret faddr : Word) (fstat : Option (Pa × Bool)) : M Unit := do
  let r ← getRegs c
  let x := r.ctx
  let first := if x.csw.fd = 1#2 then fieldN (x.entry x.wstat.cw 5).val 0 8 else 0
  let ent := if tt.isSome then 0 else entry
  let info : Word := placed ent 0 ||| placed why 8 ||| placed first 16 |||
    match tt with
    | none => 0#64
    | some k => placed k 24 ||| bitAt true 31
  match ← readDesc c (toPa r.hdtb + BitVec.ofNat 52 (32 * 0x3F)) with
  | .error _ => tripleFault c first ent 0x3F
  | .ok d =>
    if d.invalid then tripleFault c first ent 0x3F
    else
      modRegs c (fun r =>
        let r := r.showProduct
        let x := r.ctx
        let old := x.csw.pack
        let fb : Vector TW 16 := Vector.ofFn (fun i =>
          if i.val = 5 then TW.fix 0x3F#64 else if i.val = 6 then TW.raw old else if i.val = 7 then TW.raw (addr56 ret) else TW.zero)
        { (r.setCtx { x with csw := x.csw.entered d 2#2 x.csw.ublk, pc := d.w0 }) with
          fault := fb, trapcause := 0x3F#8, trapaddr := addr56 ret, trapinfo := info, dblInfo := info, faddr := faddr
          fstat := fstatWord fstat, skip := false, posU := 0 })
      foldEntry c 0x3F true x.csw.pack (addr56 ret)

/-- The kinds of HDT entry that write different registers (R170 step 3). -/
inductive EntryKind where
  | exception (e : Exc)
  | trapN
  | interrupt (urgent : Bool)
  deriving DecidableEq, Repr

/-- TRAPINFO, FADDR and FSTAT of an entry (R170 step 3): an exception writes all three. -/
def Regs.recordTrap (r : Regs) (k : EntryKind) : Regs :=
  match k with
  | .exception x => { r with trapinfo := x.info, faddr := x.faddr, fstat := fstatWord x.fstat }
  | _ => r

/-- Steps 2 to 8 of R170 on the registers, through a valid descriptor. -/
def Regs.enterThrough (r : Regs) (d : Desc) (e : Nat) (k : EntryKind) (ret : Word) : Regs :=
  let r := { r with trapaddr := addr56 ret, trapcause := BitVec.ofNat 8 e, skip := false, posU := 0 }
  let r := (r.recordTrap k).showProduct
  let x := r.ctx
  let fd := if d.w2.getLsbD 21 ∨ e = 0x11 ∨ e = 0x12 ∨ e = 0x13 ∨ e = 0x20 then 1#2 else x.csw.fd
  let csw := x.csw.entered d fd (x.csw.ublk || decide (k = .interrupt true))
  let old := x.csw.pack
  if r.mbank && decide (csw.priv = 3#2) && !decide (x.csw.priv = 3#2) && !decide (r.cur = 3) then
    -- switch to the monitor bank (R166)
    let r := r.setCtx { x with pc := ret }
    let m := r.bank 3
    let m := { m with wsp := d.w1, wstat := { m.wstat with sspan := d.w2.extractLsb' 12 4 } }
    let m := { (m.enterWindow e old (addr56 ret)) with csw := csw, pc := d.w0 }
    { (r.setBank 3 m) with guest := r.cur, cur := 3, guestSel := false }
  else r.setCtx { (x.enterWindow e old (addr56 ret)) with csw := csw, pc := d.w0 }

/-- FADDR and FSTAT that a blocked event would have set (R177). -/
def EntryKind.where? : EntryKind → Word × Option (Pa × Bool)
  | .exception x => (x.faddr, x.fstat)
  | _ => (0#64, none)

/-- How an entry that was due ended: through its own descriptor, recorded by a double or triple fault in its stead, or not
yet, because it waits or a drain fault went first. -/
inductive Entered where
  | own | blocked | later
  deriving DecidableEq, Repr

/-- An HDT entry for entry number `e` (R170), `ret` its return address. At FAULTDEPTH 1 an exception or TRAP makes a
double-fault entry (R176), at 2 a triple fault (R178). A level-0 interrupt takes its descriptor from the pinned cache (R169). -/
def enterHdt (c : CoreId) (e : Nat) (k : EntryKind) (ret : Word) : M Entered := do
  let r ← getRegs c
  let fd := r.ctx.csw.fd
  let (fa, fs) := k.where?
  let intr := match k with
    | .interrupt _ => true
    | _ => false
  if fd = 2#2 && !intr then
    tripleFault c (fieldN r.dblInfo 16 8) (fieldN r.dblInfo 0 8) e
    return .blocked
  else if fd = 1#2 && !intr then
    enterDouble c e 0 none ret fa fs
    return .blocked
  else
    let d ← (if k = .interrupt true then return .ok (r.pinned.get ⟨e % 16, Nat.mod_lt _ (by decide)⟩)
      else readDesc c (toPa r.hdtb + BitVec.ofNat 52 (32 * e)) : M (Except (Pa × BitVec 8 × Word) Desc))
    match d with
    | .error _ =>
      enterDouble c e 2 none ret fa fs
      return .blocked
    | .ok d =>
      if d.invalid then
        enterDouble c e 1 none ret fa fs
        return .blocked
      else
        modRegs c (fun r => r.enterThrough d e k ret)
        refillMove c
        foldEntry c e (match k with
          | .exception _ => true
          | _ => false) r.ctx.csw.pack (addr56 ret)
        return .own

/-- Take an entry that needs both spill slots free and the reserve in place (R161): the buffer drains first; a drain fault
on the way is entered in its stead, at the same boundary. It waits when a drain cannot proceed. -/
def enterSettled (c : CoreId) (e : Nat) (k : EntryKind) (ret : Word) : M Entered := do
  if (← getCtx c).csw.fd ≠ 0#2 then enterHdt c e k ret
  else
    let s ← get
    match ← (settleFrames c 4).run with
    | .ok () => enterHdt c e k ret
    | .error (.exc x) =>
      modRegs c (fun r => { r with drainFault := none, drainHeld := true })
      let _ ← enterHdt c 0x11 (.exception x) ret
      return .later
    | .error st =>
      set s
      if st = .full && !s.freshWindow (pairOf c) then endWindow (pairOf c)
      return .later

/-! ### Tag traps (R90–R93) -/

/-- TTINFO for a class, an instruction word, the SRCAF field and the two copied tags, with BUSY set (Table 3-8). -/
def ttinfoOf (cls : Nat) (word : BitVec 32) (srcaf : Reg) (ta tb : Tag) : Word :=
  let w : Word := word.setWidth 64
  placed cls 0 ||| bitAt true 7 ||| placed (fieldN w 26 6) 8 ||| placed (fieldN w 0 11) 16 ||| placed (fieldN w 21 5) 27 |||
  placed srcaf.toNat 32 ||| placed (fieldN w 11 5) 37 ||| placed ta.toNat 48 ||| placed tb.toNat 56

/-- The major opcode of an instruction word. -/
def majorOf (w : BitVec 32) : Nat := w.toNat / 2 ^ 26
/-- Register field [25:21] of an instruction word. -/
def dstOf (w : BitVec 32) : Reg := w.extractLsb' 21 5
/-- Register field [20:16] of an instruction word. -/
def srcaOf (w : BitVec 32) : Reg := w.extractLsb' 16 5
/-- Register field [15:11] of an instruction word. -/
def srcbOf (w : BitVec 32) : Reg := w.extractLsb' 11 5

/-- The words copied to k0 and k1 and the SRCAF field of a tag trap (R91 step 4). -/
def tagTrapWords (r : Regs) (word : BitVec 32) (cls : Nat) (srcaf : Option Reg) (k : Option (TW × TW)) : Reg × TW × TW :=
  let a := srcaf.getD (srcaOf word)
  match k with
  | some (k0, k1) => (a, k0, k1)
  | none =>
    let gneg := decide (majorOf word = 0x0E) && decide (fieldN (word.setWidth 64) 0 11 = 5)
    (a, r.read a, if cls = 12 || gneg then TW.zero else r.read (srcbOf word))

/-- A tag trap entry (R91) of the instruction `word` at `at_`; its faults are the instruction's own. A pending product becomes visible in
the context, as at any trap entry (R62). -/
def tagTrapEntry (c : CoreId) (at_ : Word) (word : BitVec 32) (cls : Nat) (srcaf : Option Reg) (k : Option (TW × TW)) : Exec Unit := do
  let r ← lift (getRegs c)
  let x := r.ctx
  let (a, k0, k1) := tagTrapWords r word cls srcaf k
  let info := ttinfoOf cls word a k0.tag k1.tag
  let idle := info &&& ~~~0x80#64
  require (!x.ttinfo.getLsbD 7) (excI 0x03#8 idle 0#64)
  let ea := x.tttb + BitVec.ofNat 64 (8 * cls)
  let t ← queueFault c ea 8 (translate c .read ea onlyCacheable)
  let w ← readWord c t.pa
  queueWord c ea t.pa 8 w
  require (!decide (w.tag = 0x82#8)) (excI 0x06#8 w.val ea)
  require (!decide (w.val = 0#64) && decide (w.val.toNat % 4 = 0) && !high56 w.val) (excI 0x03#8 idle 0#64)
  doSave c
  lift (modCtx c (fun x =>
    let x := (x.setEntry x.wstat.cw 0 k0).setEntry x.wstat.cw 1 k1
    { x with ttra := addr56 at_, ttinfo := info, wstat := { x.wstat with ttw := x.wstat.cw, ttv := true }, pc := w.val }))
  lift (modRegs c (fun r => { r.showProduct with skip := false, posU := 0 }))
  lift (pmEvent c 0x20)
  lift (foldAll c [addr56 at_, info])
  lift (foldRegs c [k0, k1])

/-- Take an exception; the answer is whether an entry was made for it. -/
def takeExc (c : CoreId) (x : Exc) (at_ : Word) : M Bool := do
  match ← enterSettled c x.cause.toNat (.exception x) at_ with
  | .later => return false
  | _ => return true

/-- How an instruction that stopped is taken: an exception through the HDT, a tag trap, or a double fault for SAVE (R176). The answer is
false while it is not taken yet: the instruction is issued again. `at_` is its address and `word` its word. -/
def takeStop (c : CoreId) (at_ : Word) (word : BitVec 32) : Stop → M Bool
  | .exc x => takeExc c x at_
  | .saveDepth => do
    enterDouble c 0 3 none at_ 0#64 none
    return true
  | .tag cls srcaf k => do
    let fd := (← getCtx c).csw.fd
    if fd = 1#2 then
      enterDouble c 0 0 (some cls.toNat) at_ 0#64 none
      return true
    else if fd = 2#2 then
      let r ← getRegs c
      tripleFault c (fieldN r.dblInfo 16 8) (fieldN r.dblInfo 0 8) 0
      return true
    else
      let s ← get
      match ← (tagTrapEntry c at_ word cls.toNat srcaf k).run with
      | .ok () => return true
      | .error (.exc x) => takeExc c x at_
      | .error .wait => return false
      | .error e =>
        set s
        if e = .full && !s.freshWindow (pairOf c) then endWindow (pairOf c)
        return false
  | _ => return false

/-! ### Returns (R172, R93) -/

/-- The tag a committed floating-point result takes (R101); none for a compare, which commits CSW.CC (R113). -/
def fdqTag (w : BitVec 32) : Option Tag :=
  let fn := fieldN (w.setWidth 64) 0 11
  if majorOf w = 0x0E then (if fn = 4 then none else some 0x02#8)
  else if majorOf w = 0x0D then (if fn % 2 = 1 then some 0x05#8 else some 0x02#8)
  else
    let op := fn % 64
    if op = 0x05 then none
    else if op = 0x08 then some 0x05#8
    else if op = 0x09 then some 0x02#8
    else if op = 0x0A then some 0x01#8
    else if fn / 64 % 2 = 1 then some 0x05#8 else some 0x02#8

/-- Commit the entries of the delivered queue that software replaced, from FDQ0 upward (R113 step 1); the answer is CSW.CC
when a compare committed it. -/
def Regs.commitFdq (r : Regs) : List FdqEntry → Regs × Option (BitVec 2)
  | [] => (r, none)
  | e :: t =>
    let (r, cc) :=
      if e.repl then
        match fdqTag e.iword with
        | none => (r, some (e.result.setWidth 2))
        | some tag =>
          let v := if tag = 0x05#8 then e.result &&& 0xFFFFFFFF#64 else e.result
          (r.setBank e.bank ((r.bank e.bank).writeIn e.cw (dstOf e.iword) { tag := tag, val := v }), none)
      else (r, none)
    let (r, cc') := r.commitFdq t
    (r, if cc'.isSome then cc' else cc)

/-- CSW that RTT restores from k6 (R172 step 2). EARLYPROD is restored with the other fields, although R62 says that only MTS to CSW
clears it (DEDUCED, log entry 84). -/
def Csw.restored (w : Csw) (k6 : Word) : Csw :=
  let n := Csw.unpack k6
  { n with
    priv := if n.priv.toNat < w.priv.toNat then n.priv else w.priv
    fd := if n.fd.toNat < w.fd.toNat then n.fd else w.fd
    ublk := n.ublk && w.ublk
    ilm := if w.priv = 0#2 then w.ilm else n.ilm
    key := if w.priv = 0#2 then w.key else n.key }

/-- The checks of RTT on k7 and k6 (R172). Tag 0x00 is refused with cause 0x03, as R172 says, and not with 0x05 (Table 1-10; DEDUCED,
log entry 84). -/
def rttChecks (c : CoreId) : Exec Unit := do
  let r ← lift (getRegs c)
  let k7 := r.read 23#5
  let k6 := r.read 22#5
  require (!decide (k7.tag = 0x82#8)) (excI 0x06#8 k7.val 0#64)
  require (!decide (k6.tag = 0x82#8)) (excI 0x06#8 k6.val 0#64)
  require (decide (k7.tag = 0x01#8) || decide (k7.tag = 0x05#8)) (exc0 0x03#8)
  require (decide (k6.tag = 0x01#8) || decide (k6.tag = 0x05#8)) (exc0 0x03#8)
  require (decide (k7.val.toNat % 4 = 0)) (excA 0x07#8 k7.val)
  require (!decide (fieldN k6.val 0 2 = 2)) (exc0 0x03#8)

/-- Whether RTT in the monitor bank resumes the context that a CTXSW there has selected, and ignores k6 and k7 (R166). -/
def Regs.rttSelected (r : Regs) : Bool :=
  r.mbank && decide (r.cur = 3) && r.guestSel && decide ((r.bank r.guest).csw.priv.toNat < r.ctx.csw.priv.toNat) &&
  !decide (r.ctx.csw.fd = 2#2)

/-- Whether RTT returns from the monitor bank to the guest (R166). -/
def Regs.rttToGuest (r : Regs) : Bool :=
  let x := r.ctx
  r.rttSelected || (r.mbank && decide (r.cur = 3) &&
    decide ((x.csw.restored (r.read 22#5).val).priv.toNat < x.csw.priv.toNat) && !decide (x.csw.fd = 2#2))

/-- The registers after a return to FAULTDEPTH `fd`: at 0 the spill buffer's drain retries (R161). -/
def Regs.returnedTo (r : Regs) (fd : BitVec 2) : Regs := { r with drainHeld := r.drainHeld && !decide (fd = 0#2) }

/-- RTT (R172): the answer is the address at which execution continues. -/
def doRtt (c : CoreId) : Exec Word := do
  let r ← lift (getRegs c)
  let x := r.ctx
  let k7 := r.read 23#5
  let k6 := r.read 22#5
  if !r.rttSelected then rttChecks c
  let new := x.csw.restored k6.val
  let toGuest := r.rttToGuest
  -- the window is given back first: its fill can fault, and nothing else of RTT can
  if x.csw.fd ≠ 2#2 then
    if toGuest then
      lift (modCtx c (fun x => { x with wstat := { x.wstat with cw := x.wstat.cw - 1#5, owed := false } }))
    else giveWindow c 0x12#8
  let commit := r.deliv && !r.rttSelected && decide (addr56 k7.val = r.fdqra)
  let ccNew ← (if commit then do
      let r ← lift (getRegs c)
      let (r', cc) := r.commitFdq r.fdq
      lift (modRegs c (fun _ => { r' with fdq := [], deliv := false, fdqCount := 0, fdqIdle := Vector.replicate 4 (false, 0#64) }))
      pure cc
    else pure none : Exec (Option (BitVec 2)))
  let new := { new with cc := ccNew.getD new.cc }
  if toGuest then
    let g := r.bank r.guest
    let dest := if r.guestSel then g.pc else k7.val
    let csw := if r.guestSel then g.csw else new
    lift (modRegs c (fun r => ({ (r.setBank r.guest { r.bank r.guest with csw := csw }) with cur := r.guest, guestSel := false } : Regs).returnedTo csw.fd))
    lift (foldSys c csw.pack)
    lift (foldEvent c 4 dest 1)
    return dest
  else
    lift (modRegs c (fun r => (r.setCtx { r.ctx with csw := new }).returnedTo new.fd))
    lift (foldSys c new.pack)
    lift (foldEvent c 4 k7.val 1)
    return k7.val

/-- The tag trap returns (R93, Table 3-5): `form` 1 TD, 2 TS, 3 TR; `word` is the instruction's word for cause 0x01. After GCMP, a k0 that is
no fixnum 0–3 gives cause 0x03, an unset one too (R93; DEDUCED, log entry 84). -/
def doRttTag (c : CoreId) (form : Nat) (word : BitVec 32) : Exec Word := do
  let r ← lift (getRegs c)
  let x := r.ctx
  require (x.ttinfo.getLsbD 7 && x.wstat.ttv && decide (x.wstat.cw = x.wstat.ttw)) (excI 0x01#8 (word.setWidth 64) 0#64)
  let k0 := r.read 16#5
  let k1 := r.read 17#5
  let major := fieldN x.ttinfo 8 6
  let fn := fieldN x.ttinfo 16 11
  let cls := fieldN x.ttinfo 0 5
  let dstf : Reg := x.ttinfo.extractLsb' 27 5
  let af : Reg := x.ttinfo.extractLsb' 32 5
  let bf : Reg := x.ttinfo.extractLsb' 37 5
  let gcmp := decide (major = 0x0E) && decide (fn = 4)
  let gneg := decide (major = 0x0E) && decide (fn = 5)
  if form = 1 && gcmp then
    require (!decide (k0.tag = 0x82#8)) (excI 0x06#8 k0.val 0#64)
    require (decide (k0.tag = 0x01#8) && decide (k0.val.toNat < 4)) (exc0 0x03#8)
  doRestore c
  lift (modCtx c (fun x => { x with ttinfo := x.ttinfo &&& ~~~0x80#64, wstat := { x.wstat with ttv := false } }))
  if form = 1 then
    if gcmp then lift (setCc c (k0.val.setWidth 2)) else lift (writeReg c dstf k0)
  else if form = 2 then
    lift (writeReg c af k0)
    if !(gneg || decide (cls = 12)) then lift (writeReg c bf k1)
  let dest := if form = 1 then x.ttra + 4#64 else x.ttra
  lift (foldEvent c 4 dest 1)
  return dest

end Sys2Proof.Machine
end

