-- ==== Sys2Proof/Machine/Journal.lean ====
section
/-! DEFINITION. Sending over Volley (R376, R377, R379) and the journal sequencer (14). -/

namespace Sys2Proof.Machine

/-! ### Sending a flit -/

/-- Volley port `q`. -/
def State.vport (s : State) (q : VPortId) : VPort := unit s.volley.ports q
/-- Change a Volley port. -/
def modVPort (q : VPortId) (f : VPort → VPort) : M Unit :=
  modVolley (fun v => { v with ports := setUnit v.ports q (f (unit v.ports q)) })

/-- The port on the way to node `dst` (R376, R377). -/
def Volley.route (v : Volley) (dst : Nat) : VPortId :=
  let me := v.node.toNat
  if me = 0 then ⟨(dst - 1) / 4 % 4, Nat.mod_lt _ (by decide)⟩
  else if (me - 1) % 4 = 0 ∧ me < dst ∧ dst ≤ me + 3 then ⟨(dst - me) % 4, Nat.mod_lt _ (by decide)⟩
  else 0

/-- Whether a port carries traffic: Up, or in replay or retrain with its flits kept, and no MISWIRE (R376, R380). -/
def VPort.carries (p : VPort) : Bool := decide (p.st = 2 ∨ p.st = 3 ∨ p.st = 4) && decide (p.miswire = 0#3)

/-- Whether a port takes the messages of its link: Up or in Replay, and no MISWIRE (R376, R380). -/
def VPort.receives (p : VPort) : Bool := decide (p.st = 2 ∨ p.st = 3) && decide (p.miswire = 0#3)

/-- The credits of a class on a link and direction, in flits (R382). -/
def credits : Nat → Nat
  | 1 => 4
  | 2 => 16
  | 3 => 16
  | 4 => 8
  | _ => 192

/-- Whether a class has a credit left: one flit uses one until the peer acknowledges it (R382; log entry 52). -/
def VPort.credit (p : VPort) (cls : Nat) : Bool :=
  decide ((p.replay.filter (fun e => decide (e.2.cls = cls))).length < credits cls)

/-- The waiting flit that goes next: the oldest of the first class with a credit, in the order TIME, EPOCH, INTERRUPT, MAILBOX, BULK
(R382). -/
def nextFlit (p : VPort) : Option Flit :=
  ([1, 2, 3, 4, 5] : List Nat).findSome? (fun k => if p.credit k then p.waitq.find? (fun f => decide (f.cls = k)) else none)

/-- Waiting flits leave an Up port while its 128-flit replay buffer has room (R379): the port after, and what it sends. -/
def VPort.pump (p : VPort) : Nat → VPort × List Flit
  | 0 => (p, [])
  | n + 1 =>
    if p.st = 2 ∧ p.replay.length < 128 then
      match nextFlit p with
      | some f =>
        let r := VPort.pump { p with replay := p.replay ++ [(p.txseq, f)], txseq := (p.txseq + 1) % 1024, waitq := p.waitq.erase f } n
        (r.1, f :: r.2)
      | none => (p, [])
    else (p, [])

/-- Send what waits on a port and may leave. -/
def pumpPort (q : VPortId) : M Unit := modVolley (fun v =>
  let r := (unit v.ports q).pump (unit v.ports q).waitq.length
  { v with ports := setUnit v.ports q r.1, sent := v.sent ++ r.2.map (fun f => (q, f)) })

/-- Send a flit on a port: a sequenced flit is kept in the replay buffer until it is acknowledged, and waits while that buffer is full or
its class has no credit; LINK flits (class 0) are not sequenced (R379, R382). A port that carries nothing sends nothing. -/
def sendOn (q : VPortId) (f : Flit) : M Unit := do
  let p := (← get).vport q
  if f.cls = 0 then
    if p.st = 2 ∨ p.st = 3 then modVolley (fun v => { v with sent := v.sent ++ [(q, f)] })
  else if p.carries then
    modVPort q (fun p => { p with waitq := p.waitq ++ [f] })
    pumpPort q

/-- A flit from this node. -/
def Volley.flit (v : Volley) (dst : BitVec 5) (cls kind msgid : Nat) (body : List TW) : Flit :=
  { cls := cls, kind := kind, src := v.node, dst := dst, msgid := msgid, body := body }

/-- Send a message to a node over the tree (R377). -/
def vsend (dst : BitVec 5) (cls kind msgid : Nat) (body : List TW) : M Unit := do
  let v := (← get).volley
  sendOn (v.route dst.toNat) (v.flit dst cls kind msgid body)

/-- A message arrives in sequence on a port that receives (R376, R379); what it carries acts. -/
def accepted (q : VPortId) (m : M Unit) : M Unit := do
  if ((← get).vport q).receives then
    modVPort q (fun p => { p with rxseq := (p.rxseq + 1) % 1024 })
    m

/-- A message of node `src` arrives on the port that leads to it: one for another node is forwarded over the tree, on the downstream port whose
subtree holds the destination or else upward; one for this node acts (R377). -/
def arrive (f : Flit) (here : M Unit) : M Unit := do
  let v := (← get).volley
  accepted (v.route f.src.toNat) (if f.dst = v.node then here else sendOn (v.route f.dst.toNat) f)

/-- Send a message to every node of a list. -/
def vsendAll (cls kind : Nat) (body : List TW) : List Nat → M Unit
  | [] => pure ()
  | d :: t => do
    vsend (BitVec.ofNat 5 d) cls kind 0 body
    vsendAll cls kind body t

/-- Workers that the manager expects or counts present (R375, R388). -/
def Volley.everyWorker (v : Volley) : List Nat := (List.range 17).filter (fun i => decide (i ≠ 0) && (v.expect.getLsbD i || v.present.getLsbD i))

/-- Workers that the manager counts present. -/
def Volley.workers (v : Volley) : List Nat := (List.range 17).filter (fun i => decide (i ≠ 0) && v.present.getLsbD i)

/-! ### Domain time (R342) -/

/-- JTIME advances by one tick; while an offset is being slewed out, tick `n` of the domain clock counts 2 or 0 when it is the 10,000th
(100 ppm, R342). -/
def Journal.tick (j : Journal) (n : Nat) : Journal :=
  if n % 10000 = 0 ∧ 0 < j.slew then { j with time := j.time + 2#64, slew := j.slew - 1 }
  else if n % 10000 = 0 ∧ j.slew < 0 then { j with slew := j.slew + 1 }
  else { j with time := j.time + 1#64 }

/-- Domain time has reached `t` (an event's own condition says so). -/
def reachTime (t : Word) : M Unit := modJ (fun j => if j.time.toNat < t.toNat then { j with time := t } else j)

/-! ### The target stream (R348, R349) -/

/-- A posted write leaves the device. -/
def post (addr : Word) (words : List Word) : M Unit :=
  modPcie (fun p => { p with posted := p.posted ++ [{ addr := addr, words := words, bytes := 8 * words.length }] })

/-- Free bytes of the target stream. -/
def Journal.space (j : Journal) : Nat := j.tgtsize - (j.tgthead - j.tgtrel).toNat

/-- Write an entry of the stream as posted writes; an entry that passes the window's end continues at its base (R348). -/
def streamWrite (words : List Word) : M Unit := do
  let j := (← get).jrnl
  let off := j.tgthead.toNat % j.tgtsize
  let first := min words.length ((j.tgtsize - off) / 8)
  post (j.tgtbase + BitVec.ofNat 64 off) (words.take first)
  if first < words.length then post j.tgtbase (words.drop first)
  modJ (fun j => { j with tgthead := j.tgthead + BitVec.ofNat 64 (8 * words.length) })

/-- The words of a marker (Table 14-4). -/
def markerWords (time : Word) (typ : Nat) (n : BitVec 48) (w2 w3 : Word) : List Word :=
  [time, n.setWidth 64 ||| placed typ 48 ||| placed 0xFF 56, w2, w3]

/-- Write a marker. -/
def marker (typ : Nat) (n : BitVec 48) (w2 w3 : Word) : M Unit := do
  streamWrite (markerWords (← get).jrnl.time typ n w2 w3)

/-- A marker that is written before any further record (R354, R355). -/
def markFirst (typ : Nat) (n : BitVec 48) (w2 w3 : Word) : M Unit :=
  modJ (fun j => { j with marks := j.marks ++ [{ typ := typ, epoch := n, w2 := w2, w3 := w3 }] })

/-- The journal error state (R350): reason 1 timeout, 2 AER, 3 poison. -/
def journalError (reason : Nat) (n : BitVec 48) : M Unit := do
  if !(← get).jrnl.err then
    modJ (fun j => { j with err := true })
    fireIrt 0x7D9
    fisinLog 5 0 1 (placed reason 0) (n.setWidth 64)

/-! ### Epochs (R344, R345) -/

/-- A ring as registered; an unregistered one reads zero (Table 14-8). -/
def Journal.ring (j : Journal) (r : Nat) : Ring :=
  Tab.getD j.rings r { base := 0#64, log2 := 0#5, en := false, trapfull := false, drained := 0#32, released := 0#32 }

/-- Change a ring. -/
def Journal.setRing (j : Journal) (r : Nat) (x : Ring) : Journal :=
  { j with rings := Tab.setD j.rings r x { base := 0#64, log2 := 0#5, en := false, trapfull := false, drained := 0#32, released := 0#32 } }

/-- The open epoch. -/
def Journal.opened (j : Journal) : Option Epoch := j.epochs.find? (fun e => decide (e.st = .opened))

/-- The sequencer acts by itself: standalone, manager, or a worker that is detached. -/
def Journal.own (j : Journal) : Bool := decide (j.role ≠ 2) || j.detached

/-- Whether an epoch still blocks the opening of the next but one (R344): it is not Closed; a provisional epoch of a
detached worker stops blocking once it is durable (R354). -/
def Journal.blocks (j : Journal) (e : Epoch) : Bool := !(j.detached && decide (e.st = .reported))

/-- The sequencer broadcasts a new open epoch to every core (R345). -/
def broadcast (n : BitVec 48) : M Unit := modify (fun s => { s with cores := s.cores.map (fun k => { k with epoch := n }) })

/-- Open epoch `n` at `start` (R344, R345). -/
def openAt (n : BitVec 48) (start : Word) : M Unit := do
  modJ (fun j => { j with epochs := j.epochs ++ [{ n := n, st := .opened, start := start, bytes := 0 }], first := n + 1#48 })
  broadcast n

/-- Open the next epoch when none is open and at most one epoch is unclosed (R344); a manager announces it (R353). A
manager's waiting rejoins are admitted at this boundary with n' := max(c + 1, h + 1) (R355). -/
def tryOpen : M Unit := do
  let s ← get
  let j := s.jrnl
  let live := j.epochs.filter (fun e => j.blocks e)
  if s.ready0 50 && j.own && j.opened.isNone && decide (live.length ≤ 1) && decide (j.first ≠ 0#48) then
    let n : BitVec 48 := j.rejoins.foldl (fun n r => if n.toNat < r.2.2.toNat + 1 then r.2.2 + 1#48 else n) j.first
    openAt n j.time
    if j.role = 1 then
      vsendAll 2 0 [TW.raw (n.setWidth 64), TW.raw j.time] s.volley.workers
      for r in j.rejoins do
        let a := Tab.getD j.absentFrom r.1.toNat 1#48
        vsend r.1 2 5 0 [TW.raw (a.setWidth 64), TW.raw (n.setWidth 64), TW.raw j.time]
        modVolley (fun v => { v with present := v.present ||| BitVec.ofNat 17 (2 ^ r.1.toNat) })
        modJ (fun j => { j with absentFrom := j.absentFrom.drop r.1.toNat
                                durableOf := Tab.put j.durableOf r.1.toNat (n - 1#48) })
      modJ (fun j => { j with rejoins := [] })

/-- The open epoch ends: it becomes Sealing and the next opens when it may (R344, R351). -/
def sealOpen : M Unit := do
  modJ (fun j => { j with epochs := j.epochs.map (fun e => if e.st = .opened then { e with st := .sealing } else e) })
  tryOpen

/-- The epoch under which a record stamped `e` leaves or left the device: a voided epoch's records are re-stamped (R355). -/
def Journal.stampOf (j : Journal) (e : BitVec 48) : BitVec 48 :=
  j.voided.foldl (fun e v => if v.1.toNat ≤ e.toNat ∧ e.toNat ≤ v.2.1.toNat then v.2.2 else e) e

/-- A core still holds an append notice of epoch `n` (R345). -/
def holdsNotice (s : State) (c : CoreId) (n : BitVec 48) : Bool :=
  (s.waiting c).any (fun op => match op with
    | .notice _ e _ _ => decide (s.jrnl.stampOf e = n)
    | _ => false)

/-- Every core has acknowledged the seal of epoch `n`; the cores of a lost die are not asked (R345, R416). -/
def sealedAll (s : State) (n : BitVec 48) : Bool :=
  (List.finRange 48).all (fun c => s.dieLost (dieOf c) || !holdsNotice s c n)

/-- RELEASE of a ring moves to `head`: the word at the ring's control area, written by the sequencer (R346, R348). -/
def releaseRing (r : Nat) (head : BitVec 32) : M Unit := do
  let x := (← get).jrnl.ring r
  let pa : Pa := toPa (x.base + BitVec.ofNat 64 (2 ^ x.log2.toNat))
  modJ (fun j => j.setRing r { j.ring r with released := head })
  hubWrite pa (TW.raw (head.setWidth 64))

/-- Release the ring space of a list of records, in order. -/
def releaseAll : List JRec → M Unit
  | [] => pure ()
  | r :: t => do releaseRing r.ring.toNat r.head; releaseAll t

/-- Release every kept record whose epoch, after any re-stamping, satisfies `f`. -/
def releaseEpochs (f : BitVec 48 → Bool) : M Unit := do
  let j := (← get).jrnl
  modJ (fun j => { j with kept := j.kept.filter (fun r => !f (j.stampOf r.epoch)) })
  releaseAll (j.kept.filter (fun r => f (j.stampOf r.epoch)))

/-- Epoch `n` becomes Closed (Table 14-1): its records are released and the next epoch may open. -/
def closeEpoch (n : BitVec 48) : M Unit := do
  modJ (fun j => { j with epochs := j.epochs.filter (fun e => !decide (e.n = n)), closed := n })
  releaseEpochs (fun e => decide (e.toNat ≤ n.toNat))
  tryOpen

/-- The manager closes global epochs, oldest first, that are durable everywhere it counts present (R353). -/
def closeGlobal : Nat → M Unit
  | 0 => pure ()
  | fuel + 1 => do
    let s ← get
    match s.jrnl.epochs with
    | e :: _ =>
      if s.jrnl.role = 1 ∧ e.st = .reported ∧
          s.volley.workers.all (fun w => decide (e.n.toNat ≤ (Tab.getD s.jrnl.durableOf w 0#48).toNat)) = true then
        -- workers counted absent: this epoch closes without them
        modJ (fun j => { j with absentFrom := (List.range 17).foldl (fun t w =>
          if w ≠ 0 ∧ s.volley.expect.getLsbD w = true ∧ s.volley.present.getLsbD w = false ∧ Tab.has t w = false then Tab.put t w e.n else t) j.absentFrom })
        vsendAll 2 2 [TW.raw (e.n.setWidth 64)] s.volley.workers
        closeEpoch e.n
        closeGlobal fuel
    | [] => pure ()

/-- Epoch `n` becomes durable (R348 step 4): Closed when standalone; reported by an attached worker; provisional on a
detached one; a manager waits for its workers. -/
def makeDurable (n : BitVec 48) : M Unit := do
  modJ (fun j => { j with durable := n, epochs := j.epochs.map (fun e => if e.n = n then { e with st := .reported } else e) })
  let j := (← get).jrnl
  if j.role = 0 then closeEpoch n
  else if j.role = 1 then closeGlobal 4
  else if j.detached then tryOpen
  else vsend 0#5 2 1 0 [TW.raw (n.setWidth 64)]

/-! ### Draining (R348, R355) -/

/-- The words of `n` bytes of a ring ending at byte count `head`, read through the home slices; none when poison is met. -/
def ringRead (x : Ring) (start : Nat) : Nat → M (Option (List Word))
  | 0 => return some []
  | n + 1 => do
    let pa : Pa := toPa (x.base + BitVec.ofNat 64 (start % 2 ^ x.log2.toNat))
    let w ← hubRead pa
    if w.tag = 0x82#8 then return none
    else match ← ringRead x (start + 8) n with
      | none => return none
      | some t => return some (w.val :: t)

/-- Drain one record to the stream, under its stamp or its new one (R348, R355 step 4); whether it was written. JRDRAIN
counts it once. -/
def drainRec (r : JRec) : M Bool := do
  let j := (← get).jrnl
  let x := j.ring r.ring.toNat
  match ← ringRead x ((r.head.toNat + 2 ^ 32 - r.bytes) % 2 ^ 32) (r.bytes / 8) with
  | none => journalError 3 r.epoch; return false
  | some ws =>
    let n := j.stampOf r.epoch
    streamWrite (if n = r.epoch then ws else match ws with
      | t :: h :: rest => t :: ((h &&& 0xFFFF000000000000#64) ||| n.setWidth 64) :: rest
      | _ => ws)
    modJ (fun j =>
      let j := if (r.head - x.drained).toNat < 2 ^ 31 then j.setRing r.ring.toNat { j.ring r.ring.toNat with drained := r.head } else j
      { j with epochs := j.epochs.map (fun e => if e.n = n then { e with bytes := e.bytes + r.bytes } else e) })
    return true

/-- Kept records in ring order: ring by ring, each in append order. -/
def ringOrder (ks : List JRec) : List JRec := (List.range 255).flatMap (fun r => ks.filter (fun k => decide (k.ring.toNat = r)))

/-- Drain queued records in arrival order while the target has space (R348). Waiting markers go first; after a RESTAMP marker
come the copies of the voided epochs' records, in ring order (R355 step 4). -/
def drainQueue : Nat → M Unit
  | 0 => pure ()
  | fuel + 1 => do
    let j := (← get).jrnl
    if j.err || decide (j.tgtsize = 0) then pure ()
    else
      match j.marks with
      | m :: rest =>
        if 32 ≤ j.space then
          marker m.typ m.epoch m.w2 m.w3
          modJ (fun j => { j with marks := rest })
          if m.typ = 5 then
            let voided (r : JRec) : Bool := decide (j.stampOf r.epoch = m.epoch)
            modJ (fun j => { j with queue := ringOrder (j.kept.filter voided) ++ j.queue, kept := j.kept.filter (fun r => !voided r) })
          drainQueue fuel
      | [] =>
        match j.queue with
        | [] => pure ()
        | r :: rest =>
          if r.bytes ≤ j.space then
            modJ (fun j => { j with queue := rest })
            if ← drainRec r then
              modJ (fun j => { j with kept := j.kept ++ [r] })
              drainQueue fuel
            else modJ (fun j => { j with queue := r :: j.queue })

/-- Sealing epochs whose seal every core has acknowledged become Draining (R345). -/
def sealStep : M Unit := modify (fun s =>
  { s with jrnl := { s.jrnl with epochs := s.jrnl.epochs.map (fun e =>
    if e.st = .sealing ∧ sealedAll s e.n = true then { e with st := .draining } else e) } })

/-- Draining epochs with no record left get their COMMIT marker and doorbell write, in order (R348 steps 1 and 2). -/
def commitStep : List Epoch → M Unit
  | [] => pure ()
  | e :: t => do
    let j := (← get).jrnl
    if e.st = .draining then
      if !j.err && j.marks.isEmpty && !(j.queue.any (fun r => decide (j.stampOf r.epoch = e.n))) && decide (j.tgtsize ≠ 0) && decide (32 ≤ j.space) then
        let off := j.tgthead
        marker 1 e.n (BitVec.ofNat 64 e.bytes) 0#64
        post j.tgtdb [off]
        modJ (fun j => { j with epochs := j.epochs.map (fun x => if x.n = e.n then { x with st := .committing } else x) })
        commitStep t
    else if e.st ≠ .sealing then commitStep t

/-- What the sequencer does by itself after an event: seals acknowledged, records drained, markers written. -/
def journalRun : M Unit := do
  if (← get).ready0 50 then
    sealStep
    let j := (← get).jrnl
    drainQueue (j.queue.length + j.kept.length + j.marks.length + 1)
    commitStep (← get).jrnl.epochs

/-- The epoch whose completion is awaited: the oldest in Committing (R348 step 3). -/
def Journal.awaited (j : Journal) : Option (BitVec 48) := (j.epochs.find? (fun e => decide (e.st = .committing))).map (·.n)

/-- A JCOMPL write (R348 step 3): ignored unless it equals the epoch awaited. -/
def jcomplWrite (n : BitVec 48) : M Unit := do
  let j := (← get).jrnl
  if j.awaited = some n && !j.err then
    modJ (fun j => { j with jcompl := n })
    makeDurable n
    journalRun

/-- How JWAIT of epoch `n` would complete now (Table 14-5); none while it waits. -/
def State.jwaitCc (s : State) (n : BitVec 48) : Option (BitVec 2) :=
  let j := s.jrnl
  if n = 0#48 then some 0#2
  else if (j.voided.any (fun v => decide (v.1.toNat ≤ n.toNat) && decide (n.toNat ≤ v.2.1.toNat))) then some 2#2
  else if j.role = 0 ∧ n.toNat ≤ j.durable.toNat then some 0#2
  else if j.role ≠ 0 ∧ n.toNat ≤ j.closed.toNat then some 0#2
  else if j.detached ∧ n.toNat ≤ j.durable.toNat ∧ j.prov.toNat ≤ n.toNat then some 1#2
  else if j.err ∧ ¬ n.toNat ≤ j.durable.toNat then some 3#2
  else none

end Sys2Proof.Machine
end

