-- ==== Sys2Proof/Machine/Pcie.lean ====
section
/-! DEFINITION. The root complex, the IOMMU and the interrupt routing table (15). -/

namespace Sys2Proof.Machine

/-! ### Interrupt routing (R370–R373) -/

/-- An IRT entry's word, without ERR. -/
def Pcie.entry (p : Pcie) (i : Nat) : Word := Tab.getD p.irt i p.irtRest

/-- Change an IRT entry. -/
def setIrt (i : Nat) (w : Word) : M Unit := modPcie (fun p => { p with irt := Tab.setD p.irt i w p.irtRest })

/-- ERR of an IRT entry (R373). -/
def irtErr (w : Word) : Bool :=
  let l := fieldN w 8 4
  let v := fieldN w 12 8
  (decide (l = 0) && !(decide (0x80 ≤ v) && decide (v ≤ 0x8F))) || (decide (1 ≤ l) && decide (v < 0x90))

/-- An IRT entry as it reads (Table 15-6). -/
def irtRead (w : Word) : Word := w ||| bitAt (irtErr w) 4

/-- The physical core that a logical core number names (R401). -/
def Fisin.logical (f : Fisin) (n : Nat) : Option CoreId :=
  if h : n < 48 then
    let b := f.lmap.get ⟨n, h⟩
    if b.getLsbD 7 then
      let c := b.toNat % 32 * 2 + (if b.getLsbD 5 then 1 else 0)
      if hc : c < 48 then some ⟨c, hc⟩ else none
    else none
  else none

/-- Whether a core takes deliveries: it runs, or its pair is halted or rallying and will run on (R290, R373). -/
def Core.takes (k : Core) : Bool := decide (k.run = .running) || decide (k.run = .rallying) || decide (k.run = .halted)

/-- An interrupt arrives at a core's IPEND; an arrival of a pending vector merges with it and keeps the lower level (R173). -/
def raiseVector (c : CoreId) (v : Nat) (level : BitVec 4) : M Unit := modCore c (fun k =>
  let old := Tab.getD k.ipend v level
  { k with ipend := Tab.put k.ipend v (if old.toNat < level.toNat then old else level) })

/-- A pending IRT entry is delivered (R373): VECTOR at LEVEL to logical core TARGET, and PEND clears; otherwise nothing. -/
def irtDeliver (i : Nat) : M Unit := do
  let s ← get
  let w := s.pcie.entry i
  if w.getLsbD 3 && w.getLsbD 0 && !w.getLsbD 1 && !irtErr w then
    match s.fisin.logical (fieldN w 20 6) with
    | none => pure ()
    | some c =>
      if (s.core c).takes then
        setIrt i (w &&& ~~~0x8#64)
        raiseVector c (fieldN w 12 8) (BitVec.ofNat 4 (fieldN w 8 4))

/-! ### Fault records (R367) -/

/-- Record a fault: the ring entry, or OVF when the ring is full; iommu-fault fires for a record (R367). -/
def ioFault (iova : Word) (rid : BitVec 16) (reason : Nat) (write : Bool) (level : Nat) : M Unit := do
  let p := (← get).pcie
  let size := 2 ^ p.fltsize.toNat / 16
  let next := (p.flthead.toNat + 1) % size
  if next = p.flttail.toNat % size then modPcie (fun p => { p with fltovf := true })
  else
    let pa := p.fltbase + BitVec.ofNat 52 (16 * p.flthead.toNat)
    hubWrite pa (TW.raw iova)
    hubWrite (pa + 8#52) (TW.raw (rid.setWidth 64 ||| placed reason 16 ||| bitAt write 20 ||| placed level 24))
    modPcie (fun p => { p with flthead := BitVec.ofNat 16 next })
    fireIrt 0x7DC

/-! ### Translation of inbound requests (R365, R366, R368) -/

/-- A refusal of the IOMMU: REASON, LEVEL, and whether its record is suppressed (FPD). -/
structure IoRefusal where
  reason : Nat
  level : Nat
  quiet : Bool
  deriving DecidableEq, Repr

/-- A table read of the IOMMU: from ready memory, REASON 6 otherwise and 5 on poison (R366). -/
def ioWord (pa : Pa) (level : Nat) (quiet : Bool) : M (Except IoRefusal Word) := do
  let s ← get
  if s.memReady pa && !s.dieLost (homeDie s (lineOf pa)) then
    let l ← coherentRead (lineOf pa)
    let w := l.get (wordIx pa)
    if w.tag = 0x82#8 then return .error { reason := 5, level := level, quiet := quiet } else return .ok w.val
  else return .error { reason := 6, level := level, quiet := quiet }

/-- The context of a requester: cached, or read through the root and context tables (Table 15-3, R368). -/
def ioContext (rid : BitVec 16) : M (Except IoRefusal IoCtx) := do
  let p := (← get).pcie
  match p.ctxs.find? (fun c => decide (c.rid = rid)) with
  | some c => return .ok c
  | none =>
    match ← ioWord (p.ioctxbase + BitVec.ofNat 52 (8 * (rid.toNat / 256))) 0 false with
    | .error e => return .error e
    | .ok root =>
      if !root.getLsbD 0 then return .error { reason := 1, level := 0, quiet := false }
      else
        let pa := toPa (root &&& 0x000FFFFFFFFFF000#64) + BitVec.ofNat 52 (16 * (rid.toNat % 256))
        match ← ioWord pa 0 false with
        | .error e => return .error e
        | .ok w0 =>
          match ← ioWord (pa + 8#52) 0 false with
          | .error e => return .error e
          | .ok w1 =>
            let c : IoCtx := { rid := rid, mode := fieldN w0 1 2, fpd := w0.getLsbD 3, vmid := w0.extractLsb' 16 16
                               root := toPa (w1 &&& 0x000FFFFFFFFF0000#64) }
            if !w0.getLsbD 0 || decide (c.mode = 3) || (decide (c.mode = 1) && decide (c.vmid = 0#16)) then
              return .error { reason := 1, level := 0, quiet := w0.getLsbD 0 && c.fpd }
            else
              modPcie (fun p => { p with ctxs := p.ctxs ++ [c] })
              return .ok c

/-- Install a walk cache entry of the IOMMU: in an invalid place, else over any one: R368 gives its 32 entries no replacement rule. -/
def ioWalkInstall (e : WalkEntry) : M Unit := do
  let w := (← get).pcie.iowalk
  if w.contains e then pure ()
  else if w.length < 32 then modPcie (fun p => { p with iowalk := p.iowalk ++ [e] })
  else
    let i ← drawBelow 32
    modPcie (fun p => { p with iowalk := p.iowalk.set i e })

/-- The IOMMU's stage-2 walk (R213, R214, R366). -/
def ioWalk (c : IoCtx) (write : Bool) (ipa level : Nat) (table : Pa) : Nat → M (Except IoRefusal Leaf)
  | 0 => return .error { reason := 2, level := level, quiet := c.fpd }
  | fuel + 1 => do
    match ← ioWord (descPa table level ipa) level c.fpd with
    | .error e => return .error e
    | .ok d =>
      if (← get).badDesc level d then return .error { reason := 2, level := level, quiet := c.fpd }
      else
        let oa : Pa := toPa (d &&& ~~~0xFFF#64)
        if d.getLsbD 1 && decide (level < 3) then
          ioWalkInstall { vmid := c.vmid, level := level, ipre := ipa / 2 ^ levelShift level, table := oa }
          ioWalk c write ipa (level + 1) oa fuel
        else if (if write then !d.getLsbD 3 else !d.getLsbD 2) || d.getLsbD 8 then
          return .error { reason := 3, level := level, quiet := c.fpd }
        else if !d.getLsbD 5 || (write && !d.getLsbD 6) then
          return .error { reason := 4, level := level, quiet := c.fpd }
        else
          let leaf : Leaf :=
            { pa := BitVec.ofNat 52 (oa.toNat + ipa % 2 ^ levelShift level), size := levelShift level, level := level, r := d.getLsbD 2
              w := d.getLsbD 3, x := d.getLsbD 4, d := d.getLsbD 6, c := d.getLsbD 7, se := d.getLsbD 8, at? := none }
          return .ok leaf

/-- The deepest walk cache table for an IPA (R368). -/
def Pcie.walkHit (p : Pcie) (vmid : BitVec 16) (level ipa : Nat) : Option Pa :=
  (p.iowalk.find? (fun e => decide (e.vmid = vmid) && decide (e.level = level)
    && decide (e.ipre = ipa / 2 ^ levelShift level))).map (·.table)

/-- Install an IOTLB entry: in an invalid place, else over a random one (R368). -/
def ioTlbInstall (e : IoTlb) : M Unit := do
  if (← get).pcie.iotlb.length < 512 then modPcie (fun p => { p with iotlb := p.iotlb ++ [e] })
  else
    let i ← drawBelow 512
    modPcie (fun p => { p with iotlb := p.iotlb.set i e })

/-- The PA of an inbound request (R365, R366). -/
def ioTranslate (rid : BitVec 16) (iova : Word) (write : Bool) : M (Except IoRefusal Pa) := do
  if iova >>> 52 ≠ 0#64 then return .error { reason := 9, level := 0, quiet := false }
  else
    match ← ioContext rid with
    | .error e => return .error e
    | .ok c =>
      let check (pa : Pa) (level : Nat) : M (Except IoRefusal Pa) := do
        let s ← get
        if s.memReady pa && !s.dieLost (homeDie s (lineOf pa)) then return .ok pa
        else return .error { reason := 6, level := level, quiet := c.fpd }
      if c.mode = 0 then return .error { reason := 1, level := 0, quiet := c.fpd }
      else if c.mode = 2 then check (toPa iova) 0
      else
        let ipa := iova.toNat
        let hit (e : IoTlb) : Bool := decide (e.vmid = c.vmid) && decide (e.ipage = ipa / 2 ^ e.size)
        -- a write that hits an entry with D = 0 reads the leaf again, as R217 has the core TLB do
        if write then modPcie (fun p => { p with iotlb := p.iotlb.filter (fun e => !(hit e && e.w && !e.se && !e.d)) })
        let p := (← get).pcie
        match p.iotlb.find? hit with
        | some e =>
          let lvl := (39 - e.size) / 9
          if (if write then !e.w else !e.r) || e.se then return .error { reason := 3, level := lvl, quiet := c.fpd }
          else check (BitVec.ofNat 52 (e.ppage * 2 ^ e.size + ipa % 2 ^ e.size)) lvl
        | none =>
          let (lvl, table, fuel) := match p.walkHit c.vmid 2 ipa, p.walkHit c.vmid 1 ipa, p.walkHit c.vmid 0 ipa with
            | some t, _, _ => (3, t, 1)
            | none, some t, _ => (2, t, 2)
            | none, none, some t => (1, t, 3)
            | none, none, none => (0, c.root, 4)
          match ← ioWalk c write ipa lvl table fuel with
          | .error e => return .error e
          | .ok leaf =>
            ioTlbInstall { rid := rid, vmid := c.vmid, ipage := ipa / 2 ^ leaf.size, ppage := leaf.pa.toNat / 2 ^ leaf.size
                           size := leaf.size, r := leaf.r, w := leaf.w, d := leaf.d, se := leaf.se }
            check leaf.pa ((39 - leaf.size) / 9)

/-! ### Inbound requests -/

/-- An event for an IRT entry from a requester (R370): the entry may check its requester ID. -/
def msiFire (i : Nat) (rid : BitVec 16) (iova : Word) : M Unit := do
  let w := (← get).pcie.entry i
  if w.getLsbD 2 && !decide (w.extractLsb' 32 16 = rid) then ioFault iova rid 8 true 0
  else fireIrt i

/-- A write to the MSI range of the bus (R370): only 4 bytes at its first address name an entry. -/
def msiArrive (rid : BitVec 16) (addr : Word) (size data : Nat) : M Unit := do
  if addr = 0xFEE00000#64 ∧ size = 4 ∧ data % 2048 < 0x7C0 then msiFire (data % 2048) rid addr
  else ioFault addr rid 7 true 0

/-- A write to the journal completion range (R371). -/
def completionArrive (rid : BitVec 16) (addr : Word) (size : Nat) (data : Word) : M Unit := do
  if ¬ (addr = 0xFEF00000#64 ∧ size = 8) then ioFault addr rid 7 true 0
  else if rid ≠ (← get).jrnl.tgtrid then ioFault addr rid 8 true 0
  else jcomplWrite (data.setWidth 48)

/-- Write the bytes of an inbound write, byte `i` first, word by word (Table 1-9): a partial write into a poison word is
discarded and logged. -/
def dmaWords (port : PortId) (rid : BitVec 16) (pa : Nat) (bytes : List Byte) : Nat → M Unit
  | 0 => pure ()
  | n + 1 => do
    let off := pa % 8
    let k := min (8 - off) bytes.length
    if k ≠ 0 then
      let a : Pa := BitVec.ofNat 52 pa
      let l ← coherentRead (lineOf a)
      let w := l.get (wordIx a)
      let v := BitVec.ofNat 64 (ofBytes (bytes.take k))
      if k = 8 then coherentWrite (lineOf a) (l.setWord a (fun _ => TW.raw v))
      else if w.tag = 0x82#8 then fisinLog 6 port.val 1 (BitVec.ofNat 64 pa) (rid.setWidth 64)
      else coherentWrite (lineOf a) (l.setWord a (fun w => { tag := 0x05#8, val := mergeBytes w.val off k v }))
      dmaWords port rid (pa + k) (bytes.drop k) n

/-- Poison the lines of an inbound write with EP set (R366): SOURCE 6, LOC the port. -/
def dmaPoison (port : PortId) (first : Nat) : Nat → M Unit
  | 0 => pure ()
  | n + 1 => do
    coherentWrite (first + n) (poisonLine (poisonWord (← get) port.val 0 6))
    dmaPoison port first n

/-- The bytes of `n` bytes of memory from a PA, and whether a line among them holds poison. -/
def dmaRead (pa : Nat) : Nat → M (List Byte × Bool)
  | 0 => return ([], false)
  | n + 1 => do
    let l ← coherentRead (pa / 64)
    let w := l.get (wordIx (BitVec.ofNat 52 pa))
    let (bs, ep) ← dmaRead (pa + 1) n
    return (byteOf w.val (pa % 8) :: bs, ep || l.toList.any (fun x => decide (x.tag = 0x82#8)))

/-- A read completion leaves the device: 0 SC, 1 UR, 2 EP. -/
def complete (rid : BitVec 16) (status : Nat) (data : List Byte) : M Unit :=
  modPcie (fun p => { p with completed := p.completed ++ [(rid, status, data)] })

/-- An inbound memory read (R365, R366, R371). -/
def inboundRead (rid : BitVec 16) (addr : Word) (len : Nat) : M Unit := do
  if addr.toNat / 4096 = 0xFEF00 then complete rid 1 []
  else
    match ← ioTranslate rid addr false with
    | .error e =>
      if !e.quiet then ioFault addr rid e.reason false e.level
      complete rid 1 []
    | .ok pa =>
      let (bs, ep) ← dmaRead pa.toNat len
      complete rid (if ep then 2 else 0) bs

/-- An inbound memory write (R365, R366, R370, R371). -/
def inboundWrite (port : PortId) (rid : BitVec 16) (addr : Word) (bytes : List Byte) (ep : Bool) : M Unit := do
  let data := ofBytes bytes
  if addr.toNat / 2 ^ 20 = 0xFEE then msiArrive rid addr bytes.length data
  else if addr.toNat / 4096 = 0xFEF00 then completionArrive rid addr bytes.length (BitVec.ofNat 64 data)
  else
    match ← ioTranslate rid addr true with
    | .error e => if !e.quiet then ioFault addr rid e.reason true e.level
    | .ok pa =>
      if ep then
        let first := lineOf pa
        dmaPoison port first ((pa.toNat + max bytes.length 1 - 1) / 64 - first + 1)
      else dmaWords port rid pa.toNat bytes (bytes.length + 1)

/-! ### Outbound requests and machine checks (R182, R363, R364) -/

/-- A machine check for core `c` becomes due at a boundary, before any pair-retired event (Table 6-7), and is logged (R182). -/
def machineCheck (c : CoreId) (info faddr : Word) : M Unit := do
  let mc (a : Async) : Bool := decide (a.cause = 0x20#8)
  modCore c (fun k => { k with
    async := k.async.filter mc ++ [{ cause := 0x20#8, info := info, faddr := faddr }] ++ k.async.filter (fun a => !mc a) })
  fisinLog 1 (pairOf c).val 5 info faddr

/-- The port of an outbound request; ECAM accesses to buses beyond 0 go to the port that the standard bus number registers
give, which the spec does not hold (a free choice). -/
def State.portOf (s : State) (pa : Pa) : PortId :=
  match s.paKind pa with
  | .outbound p => p
  | .ecam => (ecamPort pa).getD ⟨Config.freeChoice (pa.toNat / 2 ^ 20 % 256) % 16, Nat.mod_lt _ (by decide)⟩
  | _ => 0

/-- The oldest read of a core that still waits for its completion. -/
def Core.outstanding (k : Core) : Option PcieWait := k.pcie.find? (fun q => q.done.isNone)

/-- A request of a core fails (R363): reason 1 UR, 2 CA, 3 timeout, 4 EP, 5 link down. -/
def failRequest (c : CoreId) (q : PcieWait) (reason : Nat) : M Unit := do
  let port := (← get).portOf q.pa
  modCore c (fun k => { k with pcie := k.pcie.filter (fun r => !decide (r = q)) })
  machineCheck c (placed 7 0 ||| placed reason 4 ||| placed port.val 8) (q.pa.setWidth 64)

/-- The oldest outstanding request of a core fails (R363). -/
def requestFails (c : CoreId) (reason : Nat) : M Unit := do
  match ((← get).core c).outstanding with
  | some q => failRequest c q reason
  | none => pure ()

/-- Fail the requests of a list that are outstanding at a port. -/
def failEach (p : PortId) (c : CoreId) : List PcieWait → M Unit
  | [] => pure ()
  | q :: t => do
    if q.done.isNone && decide ((← get).portOf q.pa = p) then failRequest c q 5
    failEach p c t

/-- Fail the outstanding requests of a list of cores to a port. -/
def failPort (p : PortId) : List CoreId → M Unit
  | [] => pure ()
  | c :: t => do
    failEach p c ((← get).core c).pcie
    failPort p t

/-- A completion arrives for a core's oldest outstanding request (R363): its data is retained until the access re-executes (R364). -/
def requestDone (c : CoreId) (data : Word) : M Unit := modCore c (fun k =>
  match k.outstanding with
  | some q => { k with pcie := k.pcie.map (fun r => if r = q then { q with done := some data } else r) }
  | none => k)

/-- IOINV ends (R368): every context and IOTLB entry, or the requester's, is removed and BUSY returns to 0. -/
def ioInvalidate : M Unit := modPcie (fun p =>
  let p := { p with invBusy := false }
  if p.invAll then { p with ctxs := [], iotlb := [] }
  else { p with ctxs := p.ctxs.filter (fun c => !decide (c.rid = p.invRid)), iotlb := p.iotlb.filter (fun e => !decide (e.rid = p.invRid)) })

/-- What TLBI forms 0, 1, 2 and 4 remove from the IOMMU (R227, R368). -/
def ioTlbi (form : Nat) (operand : Word) (vmid : BitVec 16) : M Unit :=
  let page := operand.toNat / 4096
  modPcie (fun p =>
    match form with
    | 0 => { p with iotlb := [], iowalk := [] }
    | 1 => { p with iotlb := p.iotlb.filter (fun e => !decide (e.vmid = vmid)), iowalk := p.iowalk.filter (fun e => !decide (e.vmid = vmid)) }
    | 2 => { p with
        iotlb := p.iotlb.filter (fun e => !(decide (e.vmid = vmid) && decide (e.ipage * 2 ^ e.size ≤ page * 4096) && decide (page * 4096 < (e.ipage + 1) * 2 ^ e.size)))
        iowalk := p.iowalk.filter (fun e => !decide (e.vmid = vmid)) }
    | 4 => { p with iotlb := p.iotlb.filter (fun e => !(decide (e.ppage * 2 ^ e.size ≤ page * 4096) && decide (page * 4096 < (e.ppage + 1) * 2 ^ e.size))) }
    | _ => p)

end Sys2Proof.Machine
end

