-- ==== Sys2Proof/Machine/Tags.lean ====
section
/-! DEFINITION. Tag classes (01, R21, Table 1-2). -/

namespace Sys2Proof.Machine

/-- Tags reserved by Table 1-2. -/
def reservedTag (t : Tag) : Bool :=
  let n := t.toNat
  (decide (0x07 ≤ n) && decide (n ≤ 0x1F)) || (decide (0x48 ≤ n) && decide (n ≤ 0x5F)) || (decide (0x85 ≤ n))

/-- The pointer class (R21). -/
def pointerTag (t : Tag) : Bool := decide (t.toNat / 64 = 1)

/-- The system class (R21). -/
def systemTag (t : Tag) : Bool := decide (t.toNat / 64 = 2)

/-- The immediate class (R21). -/
def immediateTag (t : Tag) : Bool := decide (t.toNat / 64 = 0)

end Sys2Proof.Machine
end

