-- ==== Sys2Proof/Machine/Volley.lean ====
section
/-! DEFINITION. The Volley link: ports, announced retrains, BULK transfers, and the epoch and time messages (16). -/

namespace Sys2Proof.Machine

/-! ### Flits on the link (R378) -/

/-- Word 0 of a flit (Table 16-1), with its sequence number and what the port acknowledges. -/
def Flit.head (f : Flit) (seqno ack : Nat) (ackv nak : Bool) : Word :=
  placed f.cls 0 ||| placed f.kind 4 ||| placed (seqno % 1024) 8 ||| placed (ack % 1024) 18 ||| bitAt ackv 28 ||| bitAt nak 29 |||
  placed f.src.toNat 32 ||| placed f.dst.toNat 40 ||| placed (f.msgid % 65536) 48

/-- Whether a link carries a flit of this class: 6–15 are reserved (Table 16-1). -/
def Flit.classOk (f : Flit) : Bool := decide (f.cls ≤ 5)

/-- The CRC after one more byte: polynomial 0x04C1_1DB7, taken least significant bit first as IEEE 802.3 does (DEDUCED, log entry 96). -/
def crcByte (c : BitVec 32) (b : Byte) : BitVec 32 :=
  (List.range 8).foldl (fun x _ => if x.getLsbD 0 then (x >>> 1) ^^^ 0xEDB88320#32 else x >>> 1) (c ^^^ b.setWidth 32)

/-- The CRC-32 of bytes (R378): initial value all ones, result complemented. -/
def crc32 (bs : List Byte) : BitVec 32 := ~~~(bs.foldl crcByte 0xFFFFFFFF#32)

/-- The 64 bytes of a flit (Table 16-1): word 0, the 52 bytes of its body (short bodies are filled with zeros, log entry 96), and the CRC
of bytes 0–59, little-endian. -/
def wireBytes (head : Word) (body : List Byte) : List Byte :=
  let first := (List.range 8).map (byteOf head) ++ (List.range 52).map (fun i => body.getD i 0#8)
  first ++ (List.range 4).map (byteOf ((crc32 first).setWidth 64))

/-- A received flit passes its CRC check (R378, R379). -/
def crcPasses (bs : List Byte) : Bool :=
  decide (bs.length = 64) && decide (ofBytes (bs.drop 60) = (crc32 (bs.take 60)).toNat)

/-- The body of a WRITE flit (R383): bytes 0–7 hold WIN, NW and the word offset, 8–39 the payloads and 40–43 the tags. -/
def writeBody (head : Word) (ws : List TW) : List Byte :=
  (List.range 8).map (byteOf head) ++
  ((List.range 4).flatMap (fun i => (List.range 8).map (byteOf (ws.getD i (TW.raw 0#64)).val))) ++
  (List.range 4).map (fun i => (ws.getD i { val := 0#64, tag := 0#8 }).tag)

/-! ### Ports (R379–R381) -/

/-- READYMAP's bit of a Volley port follows its state (R380). -/
def vportReady (q : VPortId) : M Unit := do
  let p := (← get).vport q
  setReady1 (16 + q.val) (decide (p.st = 2) && decide (p.miswire = 0#3))

/-- A link is named by the node at its lower end (R376). -/
def Volley.link (v : Volley) (q : VPortId) : Nat :=
  let me := v.node.toNat
  if me = 0 then 1 + 4 * q.val
  else if q = 0 then me
  else me + q.val

/-- Whether a node lies below link `l` (R376). -/
def below (l n : Nat) : Bool :=
  decide (l ≠ 0) && if (l - 1) % 4 = 0 then decide (l ≤ n) && decide (n ≤ l + 3) else decide (n = l)

/-- Freeze the timers of messages whose path crosses link `l` (R381). -/
def Volley.freeze (v : Volley) (l : Nat) : Volley :=
  { v with
    msgs := v.msgs.map (fun m =>
      if below l v.node.toNat ≠ below l m.dst.toNat ∧ m.frozen.contains l = false then { m with frozen := m.frozen ++ [l] } else m)
    frozen := if v.frozen.contains l then v.frozen else v.frozen ++ [l] }

/-- The timers frozen for link `l` resume (R381). -/
def Volley.thaw (v : Volley) (l : Nat) : Volley :=
  { v with msgs := v.msgs.map (fun m => { m with frozen := m.frozen.filter (fun k => !decide (k = l)) })
           frozen := v.frozen.filter (fun k => !decide (k = l)) }

/-- Send a LINK flit naming a link on every Up port but one (R381): kind 1 HOLD, 2 RESUME. -/
def announce (kind l : Nat) (except_ : VPortId) : M Unit := do
  for q in List.finRange 4 do
    let s ← get
    if q ≠ except_ ∧ (s.vport q).st = 2 then
      sendOn q (s.volley.flit 0#5 0 kind 0 [TW.raw (BitVec.ofNat 64 l)])

/-- A port enters Replay and asserts retry-hold (Table 16-2). -/
def portReplay (q : VPortId) : M Unit := do
  modVPort q (fun p => { p with st := 3, hold := true, naks := 1 })
  modVolley (fun v => v.freeze (v.link q))
  vportReady q

/-- A port enters an announced Retrain (Table 16-2, R381). -/
def portRetrain (q : VPortId) : M Unit := do
  modVPort q (fun p => { p with st := 4, hold := true, retrains := if p.retrains = 0xFF#8 then p.retrains else p.retrains + 1#8 })
  modVolley (fun v => v.freeze (v.link q))
  announce 1 ((← get).volley.link q) q
  vportReady q

/-- A NAK is sent or received: an Up port enters Replay, and the 8th NAK of an episode retrains (Table 16-2). -/
def portNak (q : VPortId) : M Unit := do
  let p := (← get).vport q
  if p.st = 2 then portReplay q
  else if p.st = 3 then
    modVPort q (fun p => { p with naks := p.naks + 1 })
    if 8 ≤ p.naks + 1 then portRetrain q

/-- A LINK flit that acknowledges what a port has received in order, with NAK asking for the next one; its body holds its word 0
(Table 16-1). -/
def Volley.nakFlit (v : Volley) (q : VPortId) : Flit :=
  let p := unit v.ports q
  let f := v.flit p.peer 0 0 0 []
  { f with body := [TW.raw (f.head 0 (p.rxseq + 1023) true true)] }

/-- A flit fails its CRC, or arrives whole with a sequence number other than the next expected one: it is discarded and NAK is sent
(R379). A flit in sequence is no error. -/
def flitFails (q : VPortId) (seqno : Option Nat) : M Unit := do
  let s ← get
  let p := s.vport q
  if (p.st = 2 ∨ p.st = 3) ∧ seqno ≠ some p.rxseq then
    if seqno.isNone then modVPort q (fun p => { p with crccnt := if p.crccnt = 0xFFFF#16 then p.crccnt else p.crccnt + 1#16 })
    sendOn q (s.volley.nakFlit q)
    portNak q

/-- Resend every unacknowledged flit in sequence order (R379). -/
def resend (q : VPortId) : M Unit :=
  modVolley (fun v => { v with sent := v.sent ++ (unit v.ports q).replay.map (fun e => (q, e.2)) })

/-- The port returns to Up: retry-hold is released (Table 16-2). -/
def portUp (q : VPortId) (announced : Bool) : M Unit := do
  modVPort q (fun p => { p with st := 2, hold := false, naks := 0 })
  let l := (← get).volley.link q
  modVolley (fun v => v.thaw l)
  if announced then announce 2 l q
  vportReady q

/-- VPORTSTAT as it reads (Table 16-6). -/
def VPort.word (p : VPort) : Word :=
  placed p.st 0 ||| placed p.peer.toNat 3 ||| placed p.miswire.toNat 8 ||| placed p.crccnt.toNat 16 ||| placed p.retrains.toNat 32

/-- The port goes Down and its replay buffer is discarded (Table 16-2, R390); the event is logged. -/
def portDown (q : VPortId) (announced : Bool) : M Unit := do
  modVPort q (fun p => { p with st := 0, hold := false, naks := 0, replay := [], waitq := [] })
  let l := (← get).volley.link q
  modVolley (fun v => v.thaw l)
  if announced then announce 2 l q
  vportReady q
  fisinLog 7 q.val 1 ((← get).vport q).word 0#64

/-- What a HELLO shows of a link (R376): the MISWIRE reason, 0 for a good link. `node` is the number that the upper end
assigned, `port` the peer's port, `mgr` its role. -/
def miswire (v : Volley) (worker : Bool) (q : VPortId) (node : BitVec 5) (port : BitVec 2) (mgr : Bool) : Nat :=
  if !worker then
    (if mgr then 1 else if port ≠ 0#2 then 2 else 0)
  else if q = 0 then
    (if mgr then 0 else if port = 0#2 then 2 else if (node.toNat + 3) % 4 = 0 then 3 else 0)
  else if mgr || decide (port ≠ 0#2) then 2
  else if v.node ≠ 0#5 ∧ (v.node.toNat + 3) % 4 ≠ 0 then 3 else 0

/-! ### Detach and rejoin (R354, R355, R388) -/

/-- A worker detaches (R354). -/
def detach : M Unit := do
  let j := (← get).jrnl
  if !j.detached then
    let p := match j.epochs with
      | e :: _ => e.n
      | [] => j.first
    modJ (fun j => { j with detached := true, src := 0#2, prov := p })
    modVolley (fun v => { v with attached := false })
    markFirst 2 p 0#64 0#64
    fireIrt 0x7DA
    fisinLog 5 0 2 (p.setWidth 64) 0#64
    tryOpen
    journalRun

/-- A detached worker is admitted at epoch `n` (R355 steps 3 to 5); `a` is the first epoch closed without it. -/
def admitAt (a n : BitVec 48) (start : Word) : M Unit := do
  journalRun
  let j := (← get).jrnl
  let p := j.prov
  let h := j.first - 1#48
  let lo := if p.toNat < a.toNat then a else p
  let voids := decide (lo.toNat ≤ h.toNat)
  -- what is drained or still queued of the local epochs is retained until it is released or copied
  modJ (fun j => { j with kept := j.kept ++ j.queue, queue := [], epochs := [] })
  if p.toNat < a.toNat then
    markFirst 3 p ((a - 1#48).setWidth 64) 0#64
    releaseEpochs (fun e => decide (p.toNat ≤ e.toNat) && decide (e.toNat < a.toNat))
  if voids then
    markFirst 4 lo (h.setWidth 64) 0#64
    markFirst 5 n (lo.setWidth 64) (h.setWidth 64)
    modJ (fun j => { j with voided := j.voided ++ [(lo, h, n)] })
  modJ (fun j => { j with closed := if j.closed.toNat < a.toNat then a - 1#48 else j.closed })
  openAt n start
  modJ (fun j => { j with restamp := n, detached := false, src := 2#2, everAttached := true })
  modVolley (fun v => { v with attached := true })
  fireIrt 0x7DA
  fisinLog 5 0 3 (n.setWidth 64) (a.setWidth 64)
  journalRun

/-- A detached worker sends REJOIN, with p and its highest local epoch (R355 step 1). -/
def sendRejoin : M Unit := do
  let j := (← get).jrnl
  vsend 0#5 2 4 0 [TW.raw (j.prov.setWidth 64), TW.raw ((j.first - 1#48).setWidth 64)]

/-- When a port reaches Up from Down (R388): the lower end sends DURABLE for each durable epoch it holds without CLOSED, or
REJOIN when it is detached; the upper end sends OPEN and CLOSED. -/
def resynchronise (q : VPortId) : M Unit := do
  let s ← get
  let j := s.jrnl
  let p := s.vport q
  if p.miswire = 0#3 then
    if s.fisin.role && decide (q = 0) then
      if j.detached then sendRejoin
      else
        modVolley (fun v => { v with attached := true })
        modJ (fun j => { j with everAttached := true, src := 2#2 })
        for e in j.epochs do
          if e.st = .reported then vsend 0#5 2 1 0 [TW.raw (e.n.setWidth 64)]
    else
      let counted := s.volley.present.getLsbD p.peer.toNat
      if !s.fisin.role && !counted && !j.frozen then
        modVolley (fun v => { v with present := v.present ||| BitVec.ofNat 17 (2 ^ p.peer.toNat) })
      if s.fisin.role || counted || !j.frozen then
        match j.opened with
        | some e => vsend p.peer 2 0 0 [TW.raw (e.n.setWidth 64), TW.raw e.start]
        | none => pure ()
        vsend p.peer 2 2 0 [TW.raw (j.closed.setWidth 64)]

/-- An offset of JTIME is measured (R342): it is stepped out by a worker's first exchange in Staging, else slewed out. -/
def discipline (offset : Int) (step : Bool) : M Unit := modJ (fun j =>
  let off : BitVec 32 := BitVec.ofInt 32 offset
  let lock := decide (-20 ≤ offset ∧ offset ≤ 20)
  if step then { j with time := j.time - BitVec.ofInt 64 offset, offset := off, lock := lock, stepped := true, slew := 0 }
  else { j with offset := off, lock := lock, slew := -offset })

/-! ### BULK transfers (R383–R386) -/

/-- Write a descriptor's STATUS word (Table 16-4). -/
def Volley.descPa (v : Volley) (off : Nat) : Pa := v.sqbase + BitVec.ofNat 52 off

/-- Complete the descriptors at the head of the ring that are done, in ring order (R383, R384). -/
def completeDescs : Nat → M Unit
  | 0 => pure ()
  | fuel + 1 => do
    let v := (← get).volley
    match v.descs with
    | d :: rest =>
      if d.done then
        hubWrite (v.descPa d.off + 24#52) (TW.raw (placed 1 0 ||| placed d.code 1 ||| placed d.acked 40))
        modVolley (fun v => { v with descs := rest
                                     sqhead := BitVec.ofNat 15 ((d.off / 32 + 1) % (2 ^ v.sqsize.toNat / 32))
                                     msgs := v.msgs.filter (fun m => !decide (m.desc = some d.off)) })
        if d.w2.getLsbD 51 then fireIrt (fieldN d.w2 40 11)
        completeDescs fuel
    | [] => pure ()

/-- A WRITE flit of descriptor `d` (Table 16-3). -/
def VDesc.owns (d : VDesc) (f : Flit) : Bool := decide (f.cls = 5 ∧ f.kind = 0) && d.msgids.any (fun m => decide (m.1 = f.msgid))

/-- The device sends no flit for words after a failure (R384): WRITE flits of a descriptor that have not left are dropped. -/
def Volley.cancel (v : Volley) (d : VDesc) : Volley :=
  let gone := v.ports.toList.flatMap (fun p => p.waitq.filter d.owns)
  let dst := fieldN d.w1 24 5
  { v with ports := v.ports.map (fun p => { p with waitq := p.waitq.filter (fun f => !d.owns f) })
           sentTo := if gone = [] then v.sentTo else Tab.put v.sentTo dst (Tab.getD v.sentTo dst 0 - gone.length) }

/-- Settle descriptor `off` with a code, when it has no earlier failure (R384). -/
def failDesc (off code : Nat) : M Unit := do
  modVolley (fun v =>
    match v.descs.find? (fun d => decide (d.off = off) && !d.done) with
    | some d => { v.cancel d with descs := v.descs.map (fun x => if x.off = off ∧ x.done = false then { x with done := true, code := code } else x) }
    | none => v)
  completeDescs 9

/-- Body bytes 0–7 of a WRITE flit (R383): WIN, NW and the landing word offset. -/
def writeHead (win n off : Nat) : TW := TW.raw (placed win 0 ||| placed n 4 ||| placed off 8)

/-- A WRITE flit waits on the way to a node: the next one is formed once it has left (R382, R383). -/
def Volley.bulkWaits (v : Volley) (dst : BitVec 5) : Bool :=
  (unit v.ports (v.route dst.toNat)).waitq.any (fun f => decide (f.cls = 5 ∧ f.kind = 0))

/-- Send the flits of words that are left, up to 4 words each (R383), as far as the port takes them; a failing group ends the descriptor. True
once every word is sent. -/
def sendWords (off : Nat) (dst : BitVec 5) (win : Nat) (src : Nat) (landing : Nat) (left : Nat) : Nat → M Bool
  | 0 => return decide (left = 0)
  | fuel + 1 => do
    let s ← get
    if left = 0 then return true
    else if s.volley.bulkWaits dst then return false
    else
      let k := min 4 left
      let as : List Pa := (List.range k).map (fun i => BitVec.ofNat 52 (src + 8 * i))
      if as.any (fun a => !s.memReady a || s.dieLost (homeDie s (lineOf a))) then failDesc off 3; return false
      else
        let mut ws : List TW := []
        for a in as do
          let l ← coherentRead (lineOf a)
          ws := ws ++ [l.get (wordIx a)]
        if ws.any (fun w => decide (w.tag = 0x83#8) || reservedTag w.tag) then failDesc off 2; return false
        else
          let id := (← get).volley.nextMsg
          modVolley (fun v => { v with
            nextMsg := (v.nextMsg + 1) % 65536
            msgs := v.msgs ++ [{ msgid := id, dst := dst, desc := some off, chan := none, frozen := v.frozen.filter (fun l => decide (below l v.node.toNat ≠ below l dst.toNat)) }]
            sentTo := Tab.put v.sentTo dst.toNat (Tab.getD v.sentTo dst.toNat 0 + 1)
            descs := v.descs.map (fun d => if d.off = off then { d with sent := d.sent + k, msgids := d.msgids ++ [(id, k)] } else d) })
          vsend dst 5 0 id (writeHead win k landing :: ws)
          sendWords off dst win (src + 8 * k) (landing + k) (left - k) fuel

/-- Words that a descriptor sends (Table 16-4). -/
def VDesc.words (d : VDesc) : Nat := fieldN d.w1 0 24
/-- Every word of a descriptor is sent, and its RAISE when it has one (R384). -/
def VDesc.allSent (d : VDesc) : Bool := decide (d.sent = d.words) && (d.raised || !d.w1.getLsbD 47)

/-- A descriptor goes on (R383, R384): the words that are left, then its RAISE behind the data; one with nothing left to be acknowledged is
done. -/
def descRun (off : Nat) : M Unit := do
  match (← get).volley.descs.find? (fun d => decide (d.off = off) && !d.done) with
  | none => pure ()
  | some d =>
    let dst : BitVec 5 := d.w1.extractLsb' 24 5
    let left := d.words - d.sent
    let all ← sendWords off dst (fieldN d.w1 32 4) (d.w0.toNat % 2 ^ 52 / 8 * 8 + 8 * d.sent) (fieldN d.w2 3 37 + d.sent) left (left / 4 + 1)
    let v := (← get).volley
    if all && d.w1.getLsbD 47 && !d.raised && !v.bulkWaits dst then
      let id := v.nextMsg
      modVolley (fun v => { v with
        nextMsg := (v.nextMsg + 1) % 65536
        msgs := v.msgs ++ [{ msgid := id, dst := dst, desc := some off, chan := none, frozen := v.frozen.filter (fun l => decide (below l v.node.toNat ≠ below l dst.toNat)) }]
        descs := v.descs.map (fun d => if d.off = off then { d with raised := true, msgids := d.msgids ++ [(id, 0)] } else d) })
      vsend dst 3 0 id [TW.raw (BitVec.ofNat 64 (fieldN d.w1 36 11)), TW.raw (BitVec.ofNat 64 (Tab.getD v.sentTo dst.toNat 0))]
    modVolley (fun v => { v with descs := v.descs.map (fun d => if d.off = off ∧ d.msgids.isEmpty = true ∧ d.allSent = true then { d with done := true } else d) })
    completeDescs 9

/-- The descriptors in flight go on, in ring order. -/
def bulkRun : M Unit := do
  for d in (← get).volley.descs do descRun d.off

/-- Whether a descriptor's bits are well formed (Table 16-4). -/
def descOk (w0 w1 w2 w3 : Word) : Bool :=
  decide (w0 &&& 0xFFF0000000000007#64 = 0#64) && decide (w1 &&& 0xFFFF0000E0000000#64 = 0#64) &&
  decide (w2 &&& 0xFFF0000000000007#64 = 0#64) &&
  decide (w3 &&& 0x000000FFFFFFFFF0#64 = 0#64) &&
  decide (w2.toNat % 2 ^ 40 + 8 * fieldN w1 0 24 ≤ 2 ^ 40) &&
  !(w1.getLsbD 47 && decide (0x7C0 ≤ fieldN w1 36 11))

/-- Read and start the next send descriptor (R383): at most 8 are in flight. -/
def descSend : M Unit := do
  let s ← get
  let v := s.volley
  let ring := 2 ^ v.sqsize.toNat / 32
  let next := (v.sqhead.toNat + v.descs.length) % ring
  if v.descs.length < 8 ∧ next ≠ v.sqtail.toNat % ring then
    let pa := v.descPa (32 * next)
    -- a descriptor lies within one line; where no ready memory is, it reads as free values (log entry 45)
    let l : Line ← (if s.hubReach pa then coherentRead (lineOf pa) else do
      let base := s.free
      set { s with free := base + 8 }
      return Vector.ofFn (fun i => TW.raw (Config.freeWord (base + i.val))))
    let w (i : Nat) : Word := (l.get (wordIx (pa + BitVec.ofNat 52 (8 * i)))).val
    let dst : BitVec 5 := (w 1).extractLsb' 24 5
    let off := 32 * next
    modVolley (fun v => { v with descs := v.descs ++ [{ off := off, w0 := w 0, w1 := w 1, w2 := w 2, acked := 0, sent := 0, raised := false, code := 0, done := false, msgids := [] }] })
    if !descOk (w 0) (w 1) (w 2) (w 3) then failDesc off 6
    else if 16 < dst.toNat ∨ dst = v.node ∨ (s.vport (v.route dst.toNat)).carries = false then failDesc off 5
    else descRun off

/-- An acknowledgement of a BULK WRITE or ACKI arrives (R384, R386): its descriptor is done once every word and its RAISE are sent and
acknowledged, or at its first failure. -/
def bulkAck (id code : Nat) : M Unit := do
  let v := (← get).volley
  modVolley (fun v => { v with msgs := v.msgs.filter (fun m => !decide (m.msgid = id)) })
  match v.descs.find? (fun d => !d.done && d.msgids.any (fun m => decide (m.1 = id))) with
  | none => pure ()
  | some d =>
    if code = 0 then
      let n := ((d.msgids.filter (fun m => decide (m.1 = id))).map (·.2)).foldl (· + ·) 0
      let left := d.msgids.filter (fun m => !decide (m.1 = id))
      modVolley (fun v => { v with descs := v.descs.map (fun x =>
        if x.off = d.off then { x with acked := x.acked + n, msgids := left, done := left.isEmpty && d.allSent } else x) })
      completeDescs 9
    else
      failDesc d.off code
      bulkRun

/-- A RAISE whose count is reached fires its entry, or is discarded with REASON 8, and ACKI is answered (R386). -/
def raiseFire (src : BitVec 5) (irt id : Nat) : M Unit := do
  msiFire irt (BitVec.ofNat 16 (0xF000 + src.toNat)) (BitVec.ofNat 64 irt)
  vsend src 3 1 id []

/-- RAISEs from a source whose count has been reached. -/
def raisesDue (src : BitVec 5) : M Unit := do
  let v := (← get).volley
  let due := v.raises.filter (fun r => decide (r.1 = src) && decide (r.2.2.1 ≤ Tab.getD v.landedFrom src.toNat 0))
  modVolley (fun v => { v with raises := v.raises.filter (fun r => !due.contains r) })
  for r in due do raiseFire r.1 r.2.1 r.2.2.2

/-- Land words at rising PAs. -/
def landWords (pa : Nat) : List TW → M Unit
  | [] => pure ()
  | w :: t => do hubWrite (BitVec.ofNat 52 pa) w; landWords (pa + 8) t

/-- A BULK WRITE flit arrives (R385): it lands, or is refused with CODE 1 or 2 and acknowledged. -/
def bulkLand (src : BitVec 5) (win off : Nat) (ws : List TW) (id : Nat) : M Unit := do
  let s ← get
  let i : Fin 16 := ⟨win % 16, Nat.mod_lt _ (by decide)⟩
  let w := unit s.volley.wins i
  let base := w.base.toNat + 8 * off
  let inside := decide (8 * off + 8 * ws.length ≤ w.frames * 4096)
  let ready := (List.range ws.length).all (fun k => s.hubReach (BitVec.ofNat 52 (base + 8 * k)))
  if !(w.en && w.srcmask.getLsbD src.toNat && inside && ready) then
    modVolley (fun v => { v with wins := setUnit v.wins i { unit v.wins i with refused := (unit v.wins i).refused + 1#32 } })
    vsend src 5 1 id [TW.raw 1#64]
  else if ws.any (fun x => decide (x.tag = 0x83#8) || reservedTag x.tag) then vsend src 5 1 id [TW.raw 2#64]
  else
    landWords base ws
    modVolley (fun v => { v with landedFrom := Tab.put v.landedFrom src.toNat (Tab.getD v.landedFrom src.toNat 0 + 1) })
    vsend src 5 1 id [TW.raw 0#64]
    raisesDue src

end Sys2Proof.Machine
end

