-- ==== Sys2Proof/Machine/Reply.lean ====
section
/-! DEFINITION. Mailbox results (17, R403–R405) and the operating mode (R14). -/

namespace Sys2Proof.Machine

/-- A status word's RESULT codes (Table 17-9). -/
inductive Status where
  | ok | busy | badCommand | badArgument | notReady | denied | inProgress | failed | timeout
  deriving DecidableEq, Repr

/-- The code of a status (Table 17-9). -/
def Status.code : Status → Byte
  | .ok => 0#8 | .busy => 1#8 | .badCommand => 2#8 | .badArgument => 3#8 | .notReady => 4#8
  | .denied => 5#8 | .inProgress => 6#8 | .failed => 7#8 | .timeout => 8#8

/-- A response: its status, DETAIL and result words 1–7. -/
structure Resp where
  status : Status
  detail : Nat
  res : List Word
  deriving DecidableEq, Repr

/-- A response with a status alone. -/
def Resp.of (s : Status) : Resp := { status := s, detail := 0, res := [] }
/-- A response OK with result words. -/
def Resp.good (ws : List Word) : Resp := { status := .ok, detail := 0, res := ws }
/-- BAD_ARGUMENT with the number of the first invalid word; words with no field in Table 17-10 are not looked at (DEDUCED, log entry 98). -/
def Resp.badArg (i : Nat) : Resp := { status := .badArgument, detail := i, res := [] }
/-- FAILED with its DETAIL code. -/
def Resp.fail (d : Nat) : Resp := { status := .failed, detail := d, res := [] }

/-- The RSP words of a response to a command word 0 (Table 17-8): CODE and CTAG echoed, DETAIL. -/
def Resp.words (r : Resp) (cmd0 : Word) : Vector Word 8 := Vector.ofFn (fun i =>
  if i.val = 0 then (cmd0 &&& 0xFF00FFFF#64) ||| placed r.detail 32 else r.res.getD (i.val - 1) 0#64)

/-- Mailbox channel `i`. -/
def State.mbox (s : State) (i : Fin 64) : Mbox := unit s.fisin.chans i
/-- Change a mailbox channel. -/
def modMbox (i : Fin 64) (f : Mbox → Mbox) : M Unit :=
  modFisin (fun x => { x with chans := setUnit x.chans i (f (unit x.chans i)) })

/-- The final result of a command (R405 steps 3 and 4): the response, RESULT and DONE are written, ACTIVE clears;
"mailbox-done" fires for a long command, or when IRQEN was set. A remote command is answered over Volley (R387). -/
def respond (dest : Reply) (r : Resp) (long : Bool) : M Unit := do
  match dest with
  | .chan i =>
    let irq := ((← get).mbox i).irqen
    modMbox i (fun b => { b with rsp := r.words (b.cmd.get 0), result := r.status.code, done := true, active := false })
    if long || irq then fireIrt 0x7DB
  | .ext => modFisin (fun x => { x with ext := { x.ext with rsp := r.words (x.ext.cmd.get 0), result := r.status.code, done := true, active := false } })
  | .remote node cmd0 =>
    vsend node 4 1 (fieldN cmd0 24 8) (TW.raw (r.status.code.setWidth 64) :: (r.words cmd0).toList.map TW.raw)

/-- IN_PROGRESS (R405 step 4): ACTIVE stays set; a remote node gets a first response (R387). -/
def respondLong (dest : Reply) : M Unit := do
  match dest with
  | .chan i => modMbox i (fun b => { b with result := Status.inProgress.code, active := true })
  | .ext => pure ()
  | .remote node cmd0 => vsend node 4 1 (fieldN cmd0 24 8) (TW.raw (Status.inProgress.code.setWidth 64) :: ((Resp.of .inProgress).words cmd0).toList.map TW.raw)

/-- The mode follows the service flags (R14): Service exactly while one is set, unless Fenced or Halted. -/
def Dev.settle (d : Dev) : Dev :=
  if d.mode = 2 ∨ d.mode = 3 then { d with mode := if d.ucode || d.fwswap || d.retrain || d.agate then 3 else 2 } else d

/-- Change the service flags. -/
def setService (f : Dev → Dev) : M Unit := modDev (fun d => (f d).settle)

end Sys2Proof.Machine
end

