-- ==== Sys2Proof/Machine/Channels.lean ====
section
/-! DEFINITION. Memory channels: configuration, training, zero-fill, retraining and the Sweeper (12, 13). -/

namespace Sys2Proof.Machine

/-! ### Staging (R306–R310) -/

/-- A configuration parameter, or its default (Table 17-4). -/
def Fisin.param (f : Fisin) (id : Nat) (dflt : Nat) : Nat :=
  match Tab.look f.params id with
  | some v => v.toNat
  | none => dflt

/-- Whether a DIMM is of Table 12-1 (R306): an RDIMM, not stacked, with 40-bit sub-channels of x4 or x8 devices of a listed density. -/
def dimmOk (d : Dimm) : Bool :=
  decide (d.kind = .rdimm) && !d.stacked && decide (d.lanes = 40) && decide (d.width = 4 ∨ d.width = 8) &&
  [16, 24, 32, 64].contains d.density && decide (d.ranks = 1 ∨ d.ranks = 2 ∨ d.ranks = 4) && decide (1 ≤ d.gib ∧ d.gib ≤ 512) &&
  decide (d.rate.toNat ≤ 4)

/-- A channel identified at Staging (R306, R307): Training when its DIMM is supported and it is not in CHMASK. -/
def identify (mask : Nat) (ch : ChanId) (d : Option Dimm) : M Unit := do
  match d with
  | none => modChan ch (fun k => { k with st := 0 }); setFail0 (36 + ch.val) true
  | some d =>
    if !dimmOk d then
      modChan ch (fun k => { k with st := 0 })
      setFail0 (36 + ch.val) true
      -- SPD bytes 0–7 are no operand: a free value
      fisinLog 3 ch.val 1 (← drawWord) 0#64
    else if mask.testBit ch.val then modChan ch (fun k => { k with st := 0 }); setFail0 (36 + ch.val) true
    else
      let rec_ := Tab.look (← get).fisin.repairs ch.val
      modChan ch (fun k =>
        let k := { k with st := 2, x8 := decide (d.width = 8), ranks := d.ranks, gib := d.gib, rate := d.rate, rfm := d.rfm, serial := d.serial }
        match rec_ with
        | some (ser, rm, fd) =>
          if ser = d.serial then
            { k with remap := rm, faildev := fd
                     reapplied := (List.finRange 32).foldl (fun w i => if (rm.get i).v then w ||| BitVec.ofNat 32 (2 ^ i.val) else w) 0#32 }
          else k
        | none => k)

/-- The channels of a list that enter Training, in order. -/
def trainingOf (s : State) (l : List ChanId) : List ChanId := l.filter (fun c => decide ((s.chan c).st = 2))

/-- C of a set: the smallest visible capacity, in whole GiB (R307). -/
def setCap (s : State) (l : List ChanId) : Nat :=
  match l.map (fun c => (s.chan c).frames s.integ.agatemax * 4096 / oneGiB) with
  | [] => 0
  | c :: t => t.foldl min c

/-- Write CHMAP for the channels of a set (R307). -/
def mapSet (mode : BitVec 2) (base cap n : Nat) : Nat → List ChanId → M Unit
  | _, [] => pure ()
  | i, c :: t => do
    modChan c (fun k => { k with mode := mode, pos := i, n := n, base := base, cap := cap })
    mapSet mode base cap n (i + 1) t

/-- The memory map at Staging (R307), and the common data rate (Table 12-1). -/
def mapMemory : M Unit := do
  let s ← get
  let all := trainingOf s (List.finRange 12)
  let rate := all.foldl (fun r c => if (s.chan c).rate.toNat < r then (s.chan c).rate.toNat else r) 4
  for c in all do modChan c (fun k => { k with rate := BitVec.ofNat 3 rate })
  if s.fisin.param 3 0 = 1 then mapSet 1#2 0 (setCap s all) all.length 0 all
  else
    let w := all.filter (fun c => decide (c.val < 6))
    let e := all.filter (fun c => decide (6 ≤ c.val))
    mapSet 0#2 0 (setCap s w) w.length 0 w
    mapSet 0#2 (w.length * setCap s w) (setCap s e) e.length 0 e

/-! ### Training, readiness and retraining (R310–R312, R319) -/

/-- CHSTAT as it reads (Table 12-5). -/
def Channel.stat (k : Channel) (agate : Nat) : Word :=
  placed k.st 0 ||| bitAt (decide (k.gib ≠ 0) && decide (k.wm = k.frames agate) && decide (k.wm ≠ 0)) 3 ||| bitAt k.retryact 4 ||| bitAt k.hot 5

/-- The cells of memory that do not belong to channel `ch`. -/
def dropChannel (s : State) (ch : ChanId) : Memory :=
  let mine (a : Nat) : Bool := match s.locate (BitVec.ofNat 52 a) with
    | some (c, _) => decide (c = ch)
    | none => false
  { bytes := s.mem.bytes.filter (fun e => !mine e.1), tags := s.mem.tags.filter (fun e => !mine (8 * e.1)) }

/-- Remove every cached copy of a channel's lines, in every core and in the LLC, without write-back (R319 step 3). -/
def dropCached (ch : ChanId) : M Unit := modify (fun s =>
  let mine (n : Nat) : Bool := match s.locate (linePa n) with
    | some (c, _) => decide (c = ch)
    | none => false
  { s with
    llc := s.llc.filter (fun e => !mine e.1)
    dir := s.dir.filter (fun e => !mine e.1)
    cores := s.cores.map (fun k => { k with
      l2 := k.l2.filter (fun e => !mine e.1), l1d := k.l1d.filter (fun e => !mine e.2), l1i := k.l1i.filter (fun e => !mine e.2)
      victim := k.victim.filter (fun n => !mine n), strbuf := k.strbuf.filter (fun n => !mine n), miss := k.miss.filter (fun m => !mine m.line) }) })

/-- The retrain command completes and SVC_RETRAIN clears (R319 step 5). -/
def retrainEnds (ch : ChanId) (ok : Bool) : M Unit := do
  let s ← get
  match s.fisin.retrainOp with
  | some (dest, c) =>
    if c = ch then
      modFisin (fun f => { f with retrainOp := none })
      setService (fun d => { d with retrain := false })
      let st := ((← get).chan ch).stat s.integ.agatemax
      respond dest { status := if ok then .ok else .failed, detail := if ok then 0 else 7, res := [st] } true
  | none => pure ()

/-- A rank's read and write delays are set: the spec gives them no values (free values). -/
def trimRank (ch : ChanId) (rank : Fin 4) : M Unit := do
  let r ← drawWord
  let w ← drawWord
  modChan ch (fun k => { k with delays := setUnit k.delays rank (r, w) })

/-- Zero-fill writes the lines that `here` picks: an armed injection that names one of them corrupts it (R311, R333). -/
def Channel.fillInject (k : Channel) (agate : Nat) (here : Nat → Bool) : Channel :=
  let loc := k.resolve agate k.injaddr.toNat
  if k.injctl.getLsbD 19 && (k.place agate loc).isSome && here loc then k.lineWritten agate loc else k

/-- Zero-fill goes on up to frame `n`, in ascending order, each frame's data and parity lines together (R311). -/
def Channel.fillTo (k : Channel) (agate n : Nat) : Channel :=
  { (k.fillInject agate (fun loc => decide (loc < spareBase) && decide (k.wm ≤ (blockIndex loc).1) && decide ((blockIndex loc).1 < n))) with wm := n }

/-- Training passes: Ready with WM := 0, the contents lost and the spare area filled; or the channel is Failed (Table 12-3, R311, R333). -/
def trainingEnds (ch : ChanId) (pass : Bool) (selftest : BitVec 2) (phase : Nat) : M Unit := do
  let k := (← get).chan ch
  if k.st = 2 then
    let retr := k.retrain
    if pass && decide (selftest = 1#2) then
      let ag := (← get).integ.agatemax
      modify (fun s => { s with mem := dropChannel s ch })
      modChan ch (fun k =>
        let k := { k with st := 3, wm := 0, retrain := false, selftest := selftest, errs := [], pdiff := [], pcache := [] }
        k.fillInject ag (fun loc => decide (spareBase ≤ loc)))
      for r in (List.finRange 4).filter (fun r => decide (r.val < k.ranks)) do trimRank ch r
      setReady0 (36 + ch.val) true
      setFail0 (36 + ch.val) false
      if retr then retrainEnds ch true
    else
      modChan ch (fun k => { k with st := 4, retrain := false, selftest := selftest })
      setReady0 (36 + ch.val) false
      if !retr then setFail0 (36 + ch.val) true
      fisinLog 3 ch.val 2 (placed phase 0) 0#64
      if retr then retrainEnds ch false

/-- Zero-fill reaches F (R311). The controller issues nothing while commands are retried (R317). -/
def zeroFill (ch : ChanId) : M Unit := do
  let ag := (← get).integ.agatemax
  modChan ch (fun k => if k.st = 3 ∧ k.retryact = false ∧ k.wm < k.frames ag then k.fillTo ag (k.frames ag) else k)

/-- A channel enters Failed from Ready or Draining (R312, R317): its ready bit clears, and a retrain in progress has failed (R319). -/
def channelFails (ch : ChanId) : M Unit := do
  let retr := ((← get).chan ch).retrain
  modChan ch (fun k => { k with st := 4, retryact := false, retrain := false })
  setReady0 (36 + ch.val) false
  if retr then retrainEnds ch false

/-- The retry of a CA parity or write CRC event succeeds: CHRETRY counts it, and the requests that waited issue (R317). -/
def retryEnds (ch : ChanId) : M Unit := modChan ch (fun k =>
  if k.retryact then
    (if k.retryWcrc then { k with retryact := false, rdq := [], wrq := [], wcrc := if k.wcrc = 0xFFFF#16 then k.wcrc else k.wcrc + 1#16 }
     else { k with retryact := false, rdq := [], wrq := [], capar := if k.capar = 0xFFFF#16 then k.capar else k.capar + 1#16 })
  else k)

/-- CHRETRY as it reads (Table 12-5). -/
def Channel.retryWord (k : Channel) : Word := placed k.capar.toNat 0 ||| placed k.wcrc.toNat 16

/-! ### The Sweeper (R335, R337, R338) -/

/-- QUOTA (R337): ⌈lines in the channel ÷ (LAPMIN × 60,000)⌉. -/
def Channel.quota (k : Channel) : Nat :=
  if k.lapmin = 0 ∨ k.gib = 0 then 0 else (k.gib * oneGiB / 64 + k.lapmin * 60000 - 1) / (k.lapmin * 60000)

/-- Lines of a lap, as the example after R338 counts them: every line of the DIMM. Data and parity of every frame come first,
then the spare area, then the lines that R309 leaves unused. -/
def Channel.lapLines (k : Channel) : Nat := k.gib * oneGiB / 64

/-- The channel address of the line at index `i` of a lap (R337). -/
def Channel.lapAddr (k : Channel) (agate i : Nat) : Nat :=
  if i < k.frames agate * (64 + agate) then blockAddr (i / (64 + agate)) (i % (64 + agate))
  else spareBase + 64 * (i - k.frames agate * (64 + agate))

/-- A frame lies in the region under conversion (R330). -/
def State.converting (s : State) (ch : ChanId) (f : Nat) : Bool :=
  match s.integ.conv with
  | none => false
  | some c =>
    let pa := s.paOfChan ch (f * 4096)
    let inR (r : Region) : Bool := r.v && decide (r.base * oneGiB ≤ pa) && decide (pa < (r.base + r.n) * oneGiB)
    inR c.old || inR (s.integ.regions.get c.region)

/-- A copy of a line in an LLC slice or an L2 that is in coherence (R335 step 1). -/
def State.cachedCopy (s : State) (n : Nat) : Option Line :=
  match (List.finRange 48).findSome? (fun c => (s.core c).l2Answer n) with
  | some l => some l.data
  | none => (s.llc.look n).map (·.data)

/-- The Sweeper finds a data line that it cannot decode or rebuild (R335): a cached copy is written to DRAM, else it is poisoned. -/
def sweepLost (ch : ChanId) (cls addr : Nat) : M Unit := do
  let s ← get
  let n := s.paOfChan ch addr / 64
  match s.cachedCopy n with
  | some l =>
    modify (fun s => { s with mem := s.mem.setLine n l })
    writeStored ch addr
    modChan ch (fun k => { k with recalled := if k.recalled = 0xFF#8 then k.recalled else k.recalled + 1#8 })
  | none =>
    poisonMem ch cls 1 addr
    if (s.chan ch).pfirq then fireIrt (0x7C0 + ch.val)

/-- The Sweeper's parity check of a frame (R338). With S ≥ 2 each column that disagrees is located and rewritten; where that cannot be done
the suspects become poison, and with no suspect the parity is rewritten from the data. -/
def sweepParity (ch : ChanId) (f : Nat) : M Unit := do
  let s ← get
  let k := s.chan ch
  let S := s.strength ch f
  let off (k : Channel) : List Nat := (List.range 72).filter (fun x => (List.range S).any (fun j => decide (bitsAt (k.parityDiff f j) x ≠ 0)))
  if 2 ≤ S then
    let fixes := (off k).filterMap (fun x => match k.column s.integ.agatemax f S [] x with
      | some v => if v.bytes.isEmpty then none else some (x, v)
      | none => none)
    applyFixes ch f [] fixes
  let k := (← get).chan ch
  if (off k).isEmpty then pure ()
  else match k.suspects with
    | [] => parityFresh ch f S
    | sus =>
      for a in sus do
        poisonMem ch 5 1 a
        if k.pfirq then fireIrt (0x7C0 + ch.val)

/-- The Sweeper reads the line of a data or parity address where it lies (R335, R338). -/
def sweepStored (ch : ChanId) (a : Nat) : M Unit := do
  let (f, i) := blockIndex a
  if !(← get).converting ch f then
    let (fixed, lost) ← decodeLine ch a [] []
    if fixed && decide (i < 64) then modChan ch (fun k => { k with suspects := k.suspects ++ [a] })
    if lost then loseLine ch a (sweepLost ch)

/-- The Sweeper reads one line and moves to the next (R337, R338): a remapped line is skipped at its original location and read at its slot;
lines of the DIMM that R309 leaves unused hold nothing. -/
def sweepLine (ch : ChanId) : M Unit := do
  let s ← get
  let k := s.chan ch
  let ag := s.integ.agatemax
  let a := k.lapAddr ag k.swpos
  let (f, i) := blockIndex a
  if a < spareBase then
    if i = 0 then modChan ch (fun k => { k with suspects := [] })
    if k.resolve ag a = a then sweepStored ch a
    if i = 63 && !s.converting ch f then sweepParity ch f
  else if (k.place ag a).isSome then
    match k.owner ag a with
    | some b => sweepStored ch b
    | none => if k.resolve ag a = a then let _ ← decodeLine ch a [] []
  modChan ch (fun k =>
    if k.swpos + 1 < k.lapLines then { k with swpos := k.swpos + 1 }
    else { k with swpos := 0, laps := k.laps + 1#24, lapms := BitVec.ofNat 40 (k.lapClock + 1), lapClock := 0 })

/-- Read `n` lines. -/
def sweepLines (ch : ChanId) : Nat → M Unit
  | 0 => pure ()
  | n + 1 => do sweepLine ch; sweepLines ch n

/-- A pacing interval of 1 ms in which `idle` lines could be read in idle cycles (R337). While commands are retried its reads wait, and
with them the interval (R317). -/
def sweep (ch : ChanId) (idle : Nat) : M Unit := do
  let k := (← get).chan ch
  if k.swen && decide (k.st = 3) && !(← get).dieLost (dieOfChan ch) then
    if k.retryact then modChan ch (fun k => { k with waits := true })
    else
      let q := k.quota
      modChan ch (fun k => { k with behind := decide (idle < q) })
      sweepLines ch (q + min (k.boost * q) (idle - q))
      modChan ch (fun k => { k with lapClock := k.lapClock + 1 })

/-! ### Strength conversion (R330) -/

/-- The frames of a channel whose lines have stored errors or parity lines apart from the data's, ascending. No other frame holds anything
that a conversion reads differently. -/
def Channel.framesHeld (k : Channel) (agate : Nat) : List Nat :=
  let frame (n : Nat) : Option Nat :=
    if 64 * n < spareBase then some (blockIndex (64 * n)).1 else (k.owner agate (64 * n)).map (fun b => (blockIndex b).1)
  (((k.errs.map (·.1) ++ k.pdiff.map (·.1) ++ k.pcache.map (·.n)).filterMap frame).foldl (fun t f => Tab.put t f ()) ([] : Tab Unit)).map (·.1)

/-- Convert a frame to strength `new` (R330): its data lines are read under the old one, and the parity lines j < new are computed from them
and written, those above become zero. The spec does not say what becomes of a line that cannot be rebuilt here: it is poisoned as in R328
(DESIGN CHOICE, log entry 94). -/
def convertFrame (ch : ChanId) (f new : Nat) : M Unit := do
  let old := (← get).strength ch f
  for i in List.range 64 do
    let s ← get
    if !((s.chan ch).errAt s.integ.agatemax (blockAddr f i)).isEmpty then
      let (_, bad) ← decodeLine ch (blockAddr f i) [] []
      if bad then loseLine ch (blockAddr f i) (fun cls b => poisonMem ch cls 5 b)
  for j in List.range (max old new) do
    if new ≤ j then modChan ch (fun k => { k with pcache := k.pcache.filter (fun p => !decide (p.n = parityLineNo f j)) })
    setParity ch f j []

/-- A channel converts its frames of the region up to frame `n`, in ascending order (R330). -/
def convertTo (ch : ChanId) (n : Nat) : M Unit := do
  let s ← get
  match s.integ.conv with
  | none => pure ()
  | some _ =>
    let k := s.chan ch
    for f in (k.framesHeld s.integ.agatemax).filter (fun f => decide (k.agwm ≤ f) && decide (f < n) && s.converting ch f) do
      convertFrame ch f (strengthIn s.integ.regions s.integ.defs (s.paOfChan ch (f * 4096)))
    modChan ch (fun k => { k with agwm := n })

/-- A conversion ends: every channel that takes part has converted its last frame, and the command completes. -/
def convertEnds : M Unit := do
  let s ← get
  match s.integ.conv with
  | none => pure ()
  | some c =>
    for ch in List.finRange 12 do
      if (s.chan ch).st = 3 && !s.dieLost (dieOfChan ch) then convertTo ch ((s.chan ch).frames s.integ.agatemax)
    modify (fun s => { s with integ := { s.integ with conv := none } })
    setService (fun d => { d with agate := false })
    let r := s.integ.regions.get c.region
    respond c.reply (Resp.good [bitAt r.v 0 ||| placed r.s 4 ||| placed r.base 8 ||| placed r.n 30]) true

/-- An idle tick of a Ready channel of a surviving die (R414) whose controller issues: the next frame is zero-filled, and the next one of a conversion converted (R311,
R330; log entry 56). -/
def channelTick (ch : ChanId) : M Unit := do
  let s ← get
  let k := s.chan ch
  let ag := s.integ.agatemax
  if k.st = 3 && !k.retryact && !s.dieLost (dieOfChan ch) then
    if k.wm < k.frames ag then modChan ch (fun k => k.fillTo ag (k.wm + 1))
    if s.integ.conv.isSome && decide (k.agwm < k.frames ag) then convertTo ch (k.agwm + 1)

/-- REGION[r] as it reads (Table 13-7). -/
def Region.word (r : Region) : Word := bitAt r.v 0 ||| placed r.s 4 ||| placed r.base 8 ||| placed r.n 30

end Sys2Proof.Machine
end

