-- ==== Sys2Proof/Machine/Modes.lean ====
section
/-! DEFINITION. Fenced and Halted (R412–R417), resets (R434), Dormant (R421, R422), clocks and margins (R418–R426). -/

namespace Sys2Proof.Machine

/-! ### Halted (R417) -/

/-- Copy new log entries to flash, which keeps the last 262,144 (R410). -/
def Fisin.flushLog (f : Fisin) : Fisin :=
  let fresh := f.sram.drop f.flushed
  let all := f.flashlog ++ fresh
  { f with flashlog := all.drop (all.length - 262144), flushed := f.sram.length }

/-- Take every PCIe link down (R417 step 4, R421 step 3). -/
def linksDown : M Unit := do
  modPcie (fun p => { p with ports := p.ports.map (fun q => { q with l0 := false, rate := 0#3, width := 0#5 }) })
  modVolley (fun v => { v with ports := v.ports.map (fun p => { p with st := 0, hold := false, replay := [], waitq := [] }) })
  modFisin (fun f => { f with rdy1 := 0#64 })
  modStandby (fun b => { b with perst := true })

/-- The device enters Halted (R417): FAULT_N, the cores' clocks stop, the DIMMs refresh themselves, links go down, the log is
saved. -/
def enterHalted : M Unit := do
  if (← get).dev.mode ≠ 0 then
    modDev (fun d => { d with mode := 5 })
    modStandby (fun b => { b with faultN := true, selfRefresh := true })
    linksDown
    modFisin (·.flushLog)

/-! ### Fenced (R256, R415, R416) -/

/-- Pairs of a die. -/
def diePairs (d : DieId) : List PairId := (List.finRange 24).filter (fun p => decide (p.val / 12 = d.val))

/-- The containment poison of a lost die (R34, R256): SOURCE 4, CLASS 0, LOC the die. -/
def lostWord (s : State) (d : DieId) : Word := poisonWord s d.val 0 4

/-- R256 steps 2 and 3: lines homed on the lost die in the surviving cores, and lines the lost die's cores own. -/
def poisonLost (d : DieId) : M Unit := do
  let s ← get
  let v := lostWord s d
  let lostHome (n : Nat) : Bool := decide (homeDie s n = d) && !inBoot n
  let mine (c : Fin 48) : Bool := decide (dieOf c = d)
  modify (fun s => { s with
    cores := Vector.ofFn (fun i =>
      let k := s.cores.get i
      if mine i then k
      else { k with
        l1d := k.l1d.filter (fun e => !lostHome e.2), l1i := k.l1i.filter (fun e => !lostHome e.2)
        victim := k.victim.filter (fun n => !lostHome n), strbuf := k.strbuf.filter (fun n => !lostHome n)
        l2 := k.l2.map (fun e => if lostHome e.1 then (e.1, { e.2 with st := .s, data := poisonLine v }) else e) })
    dir := s.dir.filterMap (fun e =>
      if lostHome e.1 then some e
      else match e.2 with
        | .owned o => if mine o then none else some e
        | .shared w =>
          let w' := (List.finRange 48).foldl (fun w c => if mine c then w &&& ~~~(BitVec.ofNat 48 (2 ^ c.val)) else w) w
          if w' = 0#48 then none else some (e.1, .shared w')) })
  let owned := s.dir.filterMap (fun e => match e.2 with
    | .owned o => if mine o && !lostHome e.1 then some e.1 else none
    | .shared _ => none)
  for n in owned do llcPut n true (poisonLine v)

/-- The journal rings in the lost die's memory are disabled and their undrained records discarded (R416). -/
def dropRings (d : DieId) : M Unit := do
  let s ← get
  for (r, x) in s.jrnl.rings do
    if x.en && decide (homeDie s (lineOf (toPa x.base)) = d) && (s.locate (toPa x.base)).isSome then
      let lost := s.jrnl.queue.filter (fun q => decide (q.ring.toNat = r))
      modJ (fun j => { (j.setRing r { x with en := false }) with
        queue := j.queue.filter (fun q => !decide (q.ring.toNat = r)), kept := j.kept.filter (fun q => !decide (q.ring.toNat = r)) })
      fisinLog 5 0 4 (BitVec.ofNat 64 r) (BitVec.ofNat 64 ((lost.map (·.bytes)).foldl (· + ·) 0))

/-- The image that a cluster's cores run: bank B's while BANKUSE is 2, else bank A's (Table 7-1, R183). -/
def Cluster.running (k : Cluster) : Option Image := if k.bankuse = 2#2 then k.bankB else k.bankA

/-- Step 1 of Table 7-7 begins: every core reads bank A. A bank A marked bad first takes the running image back, since the
cores can only switch to the same image (R185, DEDUCED, log entry 41). -/
def commitStart (c : CluId) : M Unit := modCluster c (fun k =>
  { k with bankuse := 1#2, phase := 1#3, abad := false, bankA := if k.abad then k.running else k.bankA })

/-- A commit ends: SVC_UCODE clears, the result is written, and a periodic pass that waited runs (R202, R406). -/
def commitEnds (k : Commit) (failed : Bool) : M Unit := do
  modFisin (fun f => { f with commitOp := none, verifyRun := f.verifyRun || f.verifyDue, verifyDue := false })
  setService (fun d => { d with ucode := false })
  respond k.reply { status := if failed then .failed else .ok, detail := if failed then 5 else 0
                    res := [k.done.setWidth 64, k.single.setWidth 64] } true

/-- The next cluster of a commit starts, or the command completes (R202). -/
def commitNext (k : Commit) : M Unit := do
  modFisin (fun f => { f with commitOp := some k })
  match k.left with
  | c :: _ => commitStart c
  | [] => commitEnds k (decide (k.single ≠ 0#12))

/-- The next bank of a verify pass's repair begins as step 1 of Table 7-7: the cores read the other bank. With none left the pass ends and is
reported (R200). -/
def repairNext (v : VerifyFix) : M Unit := do
  match v.left with
  | (c, b, _) :: _ =>
    modFisin (fun f => { f with verifyFix := some v })
    modCluster c (fun k => { k with phase := 1#3, bankuse := if b then 1#2 else 2#2 })
  | [] =>
    let f := (← get).fisin
    modFisin (fun f => { f with verifyOp := none, verifyRun := false, verifyFix := none })
    match f.verifyOp with
    | some dest => respond dest (Resp.good [v.mismatch.setWidth 64, v.fixed.setWidth 64, bitAt v.sigOk 0]) true
    | none => pure ()

/-- The service operations of a lost die end as Table 18-2 states. -/
def fenceService (d : DieId) : M Unit := do
  let s ← get
  match s.fisin.retrainOp with
  | some (_, ch) =>
    if ch.val / 6 = d.val then
      modChan ch (fun k => { k with st := 4, retrain := false })
      retrainEnds ch false
  | none => pure ()
  match s.fisin.commitOp with
  | some c =>
    let lost (k : CluId) : Bool := decide (k.val / 6 = d.val)
    let c' : Commit := { c with left := c.left.filter (fun k => !lost k) }
    match c.left with
    | h :: _ =>
      if lost h then
        modCluster h (fun k => { k with phase := 0#3 })
        commitNext c'
      else modFisin (fun f => { f with commitOp := some c' })
    | [] => pure ()
  | none => pure ()
  match s.fisin.verifyFix with
  | some v =>
    let lost (k : CluId) : Bool := decide (k.val / 6 = d.val)
    let v' : VerifyFix := { v with left := v.left.filter (fun k => !lost k.1) }
    match v.left with
    | (h, _, _) :: _ =>
      if lost h then
        modCluster h (fun k => { k with phase := 0#3 })
        repairNext v'
      else modFisin (fun f => { f with verifyFix := some v' })
    | [] => pure ()
  | none => pure ()

/-- A pair of an isolated die stops (R256, Table 11-6): a checked pair that runs at its next window boundary, split cores and a halted pair
where they stand. -/
def fencePair (p : PairId) : M Unit := do
  let s ← get
  let live (c : CoreId) : Bool := !decide ((s.core c).run = .stopped) && !decide ((s.core c).run = .retired)
  let run := (s.core (evenOf p)).run
  if (s.pair p).checked && (decide (run = .running) || decide (run = .rallying)) then
    stopPair p 1
    applyStop p
  else if live (evenOf p) || live (oddOf p) then
    beginRetire p ((if live (evenOf p) then 1#2 else 0#2) ||| (if live (oddOf p) then 2#2 else 0#2)) 6#4

/-- The device enters Fenced with a die isolated (R256, R416); a containment event while Fenced halts it (R413). Table 0-5
has no other mode that it leaves for Fenced. -/
def enterFenced (cause : BitVec 2) (d : DieId) : M Unit := do
  let m := (← get).dev.mode
  if m = 4 then enterHalted
  else if m = 2 ∨ m = 3 then
    poisonLost d
    modDev (fun x => { x with mode := 4, cause := cause, die := BitVec.ofNat 1 d.val })
    for p in diePairs d do fencePair p
    modFisin (fun f => { f with
      rdy0 := (List.range 56).foldl (fun w i =>
        if (i < 24 ∧ i / 12 = d.val) ∨ (24 ≤ i ∧ i < 36 ∧ (i - 24) / 6 = d.val) ∨ (36 ≤ i ∧ i < 48 ∧ (i - 36) / 6 = d.val) ∨ i = 53 + d.val
        then withBit w i false else w) f.rdy0 })
    dropRings d
    fenceService d
    journalRun

/-! ### Resets and Dormant (R396, R412, R421, R422, R434) -/

/-- What outlives a reset: the standby domain, the flash with its log and repair record, fuses, powered hours, and the
model's own fields. -/
def State.afterReset (s : State) : State :=
  let r := State.reset
  { r with
    standby := { s.standby with faultN := false, perst := false, selfRefresh := false, armed := false, wakePending := false }
    power := { r.power with hours := s.power.hours, mons := r.power.mons.zipWith (fun a b => { a with floor := b.floor }) s.power.mons }
    fisin := { r.fisin with
      flash := s.fisin.flash, keys := s.fisin.keys, svn := s.fisin.svn, flashlog := s.fisin.flashlog
      fwslot := s.fisin.fwnamed, bootslot := s.fisin.bootnamed
      fwnamed := s.fisin.fwnamed, bootnamed := s.fisin.bootnamed, ucimage := s.fisin.ucimage
      seq := match s.fisin.flashlog.getLast? with
        | some e => e.seq + 1#32
        | none => 0#32
      repairs := (List.finRange 12).foldl (fun t ch =>
        let k := s.chan ch
        if k.gib = 0 then t else Tab.put t ch.val (k.serial, k.remap.map (fun m => { m with copying := false }), k.faildev)) s.fisin.repairs }
    free := s.free, now := s.now, pending := s.pending }

/-- RESET_N low, or PWRGOOD falling (R434): the device stops and its arrays are lost; it stays held until RESET_N rises.
THERMTRIP_N is released when PWRGOOD falls (R420). -/
def assertReset (powerFell : Bool) : M Unit := modify (fun s =>
  let s' := s.afterReset
  { s' with
    standby := { s'.standby with resetN := false, pwrgood := s.standby.pwrgood && !powerFell, thermtrip := s.standby.thermtrip && !powerFell }
    dev := { s'.dev with mode := if s.dev.mode = 0 then 0 else s'.dev.mode } })

/-- RESET_N rises with PWRGOOD high (R396, R433): straps are sampled and Staging begins; WAKEINFO takes the retention
register, whose VALID then clears (R422). With both boot record copies bad, `record` is false and slot A of each kind and microcode image 0
are used. A rise while PWRGOOD is low is ignored (R434). -/
def riseReset (role bootsrc pairsafe record : Bool) : M Unit := modify (fun s =>
  if s.standby.pwrgood then
    let s' := s.afterReset
    { s' with
      standby := { s'.standby with resetN := true, valid := false }
      power := { s'.power with wake0 := s.standby.token, wakeReason := if s.standby.valid then s.standby.reason else 0#3, wakeValid := s.standby.valid }
      fisin := { s'.fisin with role := role, bootsrc := bootsrc, pairsafe := pairsafe, recordOk := record,
                                fwslot := record && s'.fisin.fwnamed, bootslot := record && s'.fisin.bootnamed } }
  else s)

/-- Dormant entry completes (Table 18-5): with a pending wake, a reset into Staging with REASON 3; else PWR_REQ falls. Only Operational leads
to Dormant (R5): in another mode the entry is given up (DESIGN CHOICE, log entry 44). -/
def dormantDone : M Unit := do
  let s ← get
  match s.fisin.dormantOp with
  | none => pure ()
  | some token =>
    if s.dev.mode ≠ 2 then modFisin (fun f => { f with dormantOp := none })
    else
      modFisin (fun f => { f.flushLog with dormantOp := none })
      linksDown
      modStandby (fun b => { b with token := token, valid := true, reason := 0#3 })
      let b := (← get).standby
      if b.wakePending then
        modStandby (fun b => { b with reason := 3#3 })
        let f := (← get).fisin
        riseReset f.role f.bootsrc f.pairsafe f.recordOk
      else
        modify (fun s =>
          let s' := s.afterReset
          { s' with dev := { s'.dev with mode := 0 }
                    standby := { s'.standby with pwrReq := false, armed := true, resetN := false, pwrgood := false } })

/-- A WAKE_N falling edge (R421, R422). -/
def wakeEdge : M Unit := do
  let s ← get
  if s.dev.mode = 0 then
    if s.standby.armed && s.standby.vstby then modStandby (fun b => { b with reason := 1#3, pwrReq := true, armed := false })
  else if s.standby.armed then modStandby (fun b => { b with wakePending := true })

/-! ### Clocks, heat and margins (R418–R426) -/

/-- Cluster `c`'s clock. -/
def State.clock (s : State) (c : CluId) : Clock := unit s.power.clocks c
/-- Change a cluster's clock. -/
def modClock (c : CluId) (f : Clock → Clock) : M Unit :=
  modPower (fun p => { p with clocks := setUnit p.clocks c (f (unit p.clocks c)) })

/-- The highest frequency up to `f` whose voltage fits under 1,045 mV (R419). -/
def fitVoltage (c gb : Nat) : Nat → Nat
  | 0 => 12
  | f + 1 => if f + 1 ≤ 12 ∨ Config.fusedMv c (f + 1) + gb ≤ 1045 then f + 1 else fitVoltage c gb f

/-- The change under a guardband and cap to what is requested now (R418, R419): BUSY until it has settled. -/
def Clock.change (k : Clock) (c gb cap : Nat) : Clock :=
  let want := min k.req (min cap k.thermcap)
  let fit := fitVoltage c gb want
  let k := { k with plancap := if fit < want then fit else cap }
  if fit = k.freq ∧ k.mv = Config.fusedMv c fit + gb then k else { k with target := fit, busy := true }

/-- Start the change to what is requested now, under the plan in force. -/
def Clock.start (k : Clock) (c : Nat) : Clock := k.change c k.gb k.cap

/-- A plan is in force; the proposal is no longer pending once it is the plan in force (R426). -/
def Clock.inForce (k : Clock) (p : Nat × Nat) : Clock :=
  { k with gb := p.1, cap := p.2, applying := none, pend := k.pend && !(decide (k.pgb = p.1) && decide (k.pcap = p.2)) }

/-- Start the application of the proposal (R426): the plan is in force when its change ends, at once when nothing changes. -/
def Clock.applyNow (k : Clock) (c : Nat) : Clock :=
  let k := ({ k with planWait := false } : Clock).change c k.pgb k.pcap
  if k.busy then { k with applying := some (k.pgb, k.pcap) } else k.inForce (k.pgb, k.pcap)

/-- A frequency request (R418): it waits while a change is in progress, the last one replacing an earlier one. -/
def Clock.request (k : Clock) (c v : Nat) : Clock :=
  let v := max 12 (min 30 v)
  if k.busy then { k with req := v, waiting := some v } else ({ k with req := v } : Clock).start c

/-- The change in progress ends: the new clock, voltage and plan are in force; then a plan that waits is applied, before a waiting request
starts (R418, R426). -/
def Clock.finish (k : Clock) (c : Nat) : Clock :=
  if k.busy then
    let k := match k.applying with
      | some p => k.inForce p
      | none => k
    let k := { k with freq := k.target, mv := Config.fusedMv c k.target + k.gb, busy := false }
    if k.planWait then k.applyNow c
    else match k.waiting with
      | some _ => ({ k with waiting := none } : Clock).start c
      | none => k
  else k

/-- Move a thermal cap by one (R420) and let the clock follow. -/
def Clock.thermal (k : Clock) (c : Nat) (hot : Bool) : Clock :=
  let cap := if hot then (if 12 < k.thermcap then k.thermcap - 1 else 12) else (if k.thermcap < 30 then k.thermcap + 1 else 30)
  if cap = k.thermcap then k
  else if k.busy then { k with thermcap := cap, waiting := some k.req } else ({ k with thermcap := cap } : Clock).start c

/-- MARGIN[c] as it reads (Table 18-7). -/
def Clock.margin (k : Clock) : Word :=
  placed k.gb 0 ||| placed k.cap 8 ||| placed k.pgb 16 ||| placed k.pcap 24 ||| bitAt k.pend 32

/-- Whether every monitor of cluster `c` keeps SLACK ≥ FLOOR + 10 ps at a guardband and frequency (R425). -/
def Power.safe (p : Power) (c gb freq : Nat) : Bool :=
  (List.range 4).all (fun k =>
    let i := 4 * c + k
    let m := p.mons.toList.getD i { slack := 0#16, floor := 0#16, drift := 0#16, reads := 0#16, points := [] }
    let now := (p.clocks.toList.getD c Reset.clock).gb
    decide (m.floor.toNat + 10 ≤ Config.slackAt i m.slack.toNat now gb freq))

/-- The plan of a cluster (R425): guardband in mV and cap. -/
def Power.plan (p : Power) (c : Nat) : Nat × Nat :=
  match [0, 5, 10, 15, 20, 25, 30, 35, 40].find? (fun gb => p.safe c gb 30) with
  | some gb => (gb, 30)
  | none => (40, (([30, 29, 28, 27, 26, 25, 24, 23, 22, 21, 20, 19, 18, 17, 16, 15, 14, 13] : List Nat).find? (fun f => p.safe c 40 f)).getD 12)

/-- Apply a cluster's proposed plan (R426): at once, or when the change in progress ends. -/
def applyPlan (c : CluId) : M Unit := do
  let k := (← get).clock c
  if k.pend && !k.planWait && !decide (k.applying = some (k.pgb, k.pcap)) then
    modClock c (fun k => if k.busy then { k with planWait := true } else k.applyNow c.val)
    fisinLog 8 c.val 2 (placed k.pgb 0 ||| placed k.pcap 8) 0#64

/-- A plan is computed for a cluster (R425, R426): at Staging it is in force at once; otherwise it may only raise GB or lower
CAP, and waits for MARGIN_PLAN_APPLY unless MARGINAUTO = 1. -/
def planCluster (c : CluId) : M Unit := do
  let s ← get
  let (gb, cap) := s.power.plan c.val
  let k := s.clock c
  if s.dev.mode = 1 then
    modClock c (fun k => ({ k with gb := gb, cap := cap, pgb := gb, pcap := cap, pend := false, applying := none, planWait := false, phours := s.power.hours } : Clock).start c.val)
  else
    let gb' := max k.gb gb
    let cap' := min k.cap cap
    if gb' ≠ k.gb ∨ cap' ≠ k.cap then
      modClock c (fun k => { k with pgb := gb', pcap := cap', pend := true, phours := s.power.hours })
      if s.fisin.param 8 1 = 1 then applyPlan c

/-- A reading of an ageing monitor (R424): DRIFT is fitted again to the slacks read against powered hours; the spec names no fit (log
entry 62). -/
def AgeMon.read (m : AgeMon) (hours : Nat) (slack : BitVec 16) : AgeMon :=
  let ps := m.points ++ [(hours, slack.toNat)]
  { m with slack := slack, points := ps, drift := Config.driftFit ps
           reads := if m.reads = 0xFFFF#16 then m.reads else m.reads + 1#16 }

end Sys2Proof.Machine
end

