-- ==== Sys2Proof/Machine/Mailbox.lean ====
section
/-! DEFINITION. Mailbox channels and the commands that need no other chapter's procedure (17, R403–R411; 18, R427). -/

namespace Sys2Proof.Machine

/-- A command that Fisin executes: its words and where it came from. -/
structure Cmd where
  words : Vector Word 8
  reply : Reply
  /-- The channel is a Monitor channel (R404). -/
  monitor : Bool
  /-- The channel has VMCHK = 1 (R407). -/
  vmchk : Bool
  deriving DecidableEq, Repr

/-- Request word `i` of a command. -/
def Cmd.w (k : Cmd) (i : Nat) : Word := k.words.toList.getD i 0#64

/-- OWNER.PRIV = 3 and VMCHK = 0 (R404). -/
def Mbox.monitor (b : Mbox) : Bool := decide (fieldN b.owner 0 2 = 3) && !b.owner.getLsbD 2

/-- What Table 17-10 says of a command: its code, M, the modes S O V F, and acceptance by R387 (remote) and R409 (external). -/
structure Spec where
  code : Nat
  m : Bool
  modes : List Nat
  remote : Bool
  ext : Bool
  deriving DecidableEq, Repr

/-- CMD[0] has non-zero reserved bits (Table 17-8). That words with no field in Table 17-10 are not looked at is DEDUCED, log entry 98. -/
def badWord0 (w : Word) : Bool := !decide (w &&& 0xFFFFFFFF00E00000#64 = 0#64)

/-- A remote request is carried to its node (R387): the message is tracked until its response. -/
def sendRemote (k : Cmd) (dst : BitVec 5) : M Unit := do
  let v := (← get).volley
  let id := v.nextMsg
  let chan : Option (Fin 64) := match k.reply with
    | .chan i => some i
    | _ => none
  modVolley (fun v => { v with
    nextMsg := (v.nextMsg + 1) % 65536
    msgs := v.msgs ++ [{ msgid := id, dst := dst, desc := none, chan := chan, frozen := v.frozen.filter (fun l => decide (below l v.node.toNat ≠ below l dst.toNat)) }] })
  vsend dst 4 0 id (k.words.toList.map TW.raw)

/-- R405 step 2 on a command whose code is known: BAD_COMMAND, DENIED, the remote path, then the command's own checks and
effect. A result that is none is a long command's IN_PROGRESS. -/
def serve (sp : Spec) (k : Cmd) (body : Cmd → M (Option Resp)) : M Unit := do
  let s ← get
  let node : BitVec 5 := (k.w 0).extractLsb' 16 5
  if badWord0 (k.w 0) then respond k.reply (Resp.of .badCommand) false
  else if (sp.m && !k.monitor) || !sp.modes.contains s.dev.mode then respond k.reply (Resp.of .denied) false
  else if node ≠ 0#5 ∧ (match k.reply with | .chan _ => true | _ => false) = true then
    if s.fisin.role || !sp.remote then respond k.reply (Resp.of .denied) false else sendRemote k node
  else
    match ← body k with
    | some r => respond k.reply r false
    | none => respondLong k.reply

/-- The external channel takes a command (R405, R409): in every mode but Dormant, while none is in flight and no handover of a swap lasts. -/
def State.extTakes (s : State) : Bool := decide (s.dev.mode ≠ 0) && !s.fisin.ext.active && !s.handover

/-- Fisin serves a mailbox command (R405, R406): from a channel, the one whose doorbell is oldest; from the external channel
at once (R409), a request for another node over Volley (R387), which a Halted device cannot send (log entry 101). During the handover of a swap
doorbells are held. -/
def mailbox (src : MSrc) (sp : Spec) (body : Cmd → M (Option Resp)) : M Unit := do
  let s ← get
  match src with
  | .chan i =>
    let b := s.mbox i
    if s.ready0 48 && decide (s.dev.mode ≠ 0) && decide (s.dev.mode ≠ 5) && s.fisin.swapOp.isNone && b.active &&
        decide (s.fisin.bells.head? = some i) && decide (fieldN (b.cmd.get 0) 0 16 = sp.code) then
      modFisin (fun f => { f with bells := f.bells.drop 1 })
      serve sp { words := b.cmd, reply := .chan i, monitor := b.monitor, vmchk := b.owner.getLsbD 2 } body
  | .ext cmd =>
    if s.extTakes && decide (fieldN (cmd.get 0) 0 16 = sp.code) then
      modFisin (fun f => { f with ext := { f.ext with cmd := cmd, done := false } })
      let node : BitVec 5 := (cmd.get 0).extractLsb' 16 5
      if badWord0 (cmd.get 0) then respond .ext (Resp.of .badCommand) false
      else if !sp.ext then respond .ext (Resp.of .denied) false
      else if node ≠ 0#5 then
        if s.fisin.role || decide (s.dev.mode = 5) then respond .ext (Resp.of .denied) false
        else
          modFisin (fun f => { f with ext := { f.ext with active := true } })
          sendRemote { words := cmd, reply := .ext, monitor := false, vmchk := false } node
      else
        match ← body { words := cmd, reply := .ext, monitor := false, vmchk := false } with
        | some r => respond .ext r false
        | none => pure ()

/-- A doorbell whose word 0 is unknown or malformed (R405): BAD_COMMAND. -/
def unknownServe (src : MSrc) (known : List Nat) : M Unit := do
  let s ← get
  let bad (w : Word) : Bool := !known.contains (fieldN w 0 16) || badWord0 w
  match src with
  | .chan i =>
    let b := s.mbox i
    if s.ready0 48 && decide (s.dev.mode ≠ 0) && decide (s.dev.mode ≠ 5) && s.fisin.swapOp.isNone && b.active &&
        decide (s.fisin.bells.head? = some i) && bad (b.cmd.get 0) then
      modFisin (fun f => { f with bells := f.bells.drop 1 })
      respond (.chan i) (Resp.of .badCommand) false
  | .ext cmd =>
    if s.extTakes && bad (cmd.get 0) then
      modFisin (fun f => { f with ext := { f.ext with cmd := cmd, done := false } })
      respond .ext (Resp.of .badCommand) false

/-- Flag to number. -/
def b2n (b : Bool) : Nat := if b then 1 else 0

/-! ### Signed images (R394, R395) -/

/-- `n` bytes of flash from an offset, as a number, little-endian. -/
def Fisin.flashN (f : Fisin) (off n : Nat) : Nat := ofBytes ((List.range n).map (fun i => f.flashByte (off + i)))

/-- The flash offset and size of a kind's slot: 1 Fisin firmware, 2 boot firmware, 3 configuration (Table 17-2). -/
def slotOf (kind : Nat) (b : Bool) : Nat × Nat :=
  if kind = 1 then (if b then 0x410000 else 0x10000, 0x400000)
  else if kind = 2 then (if b then 0x1850000 else 0x850000, 0x1000000)
  else (0x2850000, 0x40000)

/-- The checks of an image header (R395, Table 17-3) read by `rd off n`: 0 accepted, else the DETAIL code. -/
def imageCheck (f : Fisin) (rd : Nat → Nat → Nat) (kind size : Nat) (sig : Bool) : Nat :=
  let key := rd 0x18 1
  let zeros := (List.range 39).all (fun i => decide (rd (0x19 + i) 1 = 0))
  let entry := rd 0x14 4
  if rd 0 4 ≠ 0x46534931 ∨ rd 4 2 ≠ kind ∨ rd 6 2 ≠ 0x4830 ∨ zeros = false ∨ size < 0x40 + rd 0x10 4 + 96 ∨
      (if kind = 1 then key ≠ 0 else ¬ (1 ≤ key ∧ key ≤ 3)) ∨ f.keys.getLsbD key = false ∨
      (if kind = 2 then entry % 4 ≠ 0 else entry ≠ 0) then 1
  else if !sig then 2
  else if rd 0x0C 4 < f.svn.toList.getD (kind - 1) 0 then 3
  else 0

/-- Firmware slot `b` runs: its VERSION and SVN (Table 17-3). -/
def Fisin.runs (f : Fisin) (b : Bool) : Fisin :=
  { f with fwslot := b, fwver := f.flashN ((slotOf 1 b).1 + 8) 4, fwsvn := f.flashN ((slotOf 1 b).1 + 0xC) 4 }

/-- The boot record is rewritten to name a firmware slot (R427 step 5); what else it names is what this Staging uses. -/
def Fisin.recordSlot (f : Fisin) (b : Bool) : Fisin :=
  { f with fwnamed := b, bootnamed := f.recordOk && f.bootnamed, ucimage := f.recordOk && f.ucimage, recordOk := true }

/-- Write bytes of flash. -/
def flashWrite (t : List Host.Cell) (off : Nat) : List Byte → List Host.Cell
  | [] => t
  | b :: rest => flashWrite (Tab.setD t off b 0xFF#8) (off + 1) rest

/-- The bytes of memory that a command reads, none when they are not ready memory or poisoned (DETAIL 8). -/
def fetchBytes (pa : Nat) (n : Nat) : M (Option (List Byte)) := do
  let s ← get
  if (List.range (n / 4096 + 2)).any (fun i => let a := min (pa + 4096 * i) (pa + n - 1); !s.memReady (BitVec.ofNat 52 a) || s.dieLost (homeDie s (a / 64))) then return none
  else
    let (bs, ep) ← dmaRead pa n
    return if ep then none else some bs

/-! ### Bodies -/

/-- READYMAP word 0 as it reads (Table 17-5). -/
def Fisin.word0 (f : Fisin) : Word := f.rdy0 ||| bitAt f.settled 63

/-- GET_READINESS. -/
def getReadinessBody (_ : Cmd) : M (Option Resp) := do
  let s ← get
  return some (Resp.good [s.fisin.word0, s.fisin.rdy1, s.fisin.fail0, s.fisin.fail1, s.dev.word, placed s.fisin.fwver 0 ||| bitAt s.fisin.fwslot 32])

/-- PAIRCFG in force (R6, R7, R272): every pair under PAIRSAFE. -/
def Fisin.paircfg (f : Fisin) : Nat := if f.pairsafe then 0xFFFFFF else f.param 1 0xFFFFFF % 2 ^ 24

/-- The map in force (R272): in Staging pair 0 runs checked whatever PAIRCFG holds (R17). -/
def State.paircfgNow (s : State) : Nat := if s.dev.mode = 1 then s.fisin.paircfg ||| 1 else s.fisin.paircfg

/-- A map of pairs, bit n for pair n. -/
def pairMap (f : PairId → Bool) : Word := (List.finRange 24).foldl (fun w p => if f p then w ||| placed 1 p.val else w) 0#64

/-- GET_PAIRCFG (R272): retired pairs, and stopped pairs that are not retired. -/
def getPaircfgBody (_ : Cmd) : M (Option Resp) := do
  let s ← get
  let retired (p : PairId) : Bool := decide ((s.core (evenOf p)).run = .retired) || decide ((s.core (oddOf p)).run = .retired)
  let stopped (p : PairId) : Bool := !retired p && (decide ((s.core (evenOf p)).run = .stopped) || decide ((s.core (oddOf p)).run = .stopped))
  return some (Resp.good [placed s.paircfgNow 0 ||| bitAt s.fisin.pairsafe 24, pairMap retired, pairMap stopped])

/-- FIRMWARE_STAGE: a long command, completed by FIRMWARE_STAGE_DONE. -/
def firmwareStageBody (k : Cmd) : M (Option Resp) := do
  let s ← get
  let kind := fieldN (k.w 1) 0 2 + 1
  if kind = 4 ∨ k.w 1 >>> 2 ≠ 0#64 then return some (Resp.badArg 1)
  else if k.w 2 >>> 52 ≠ 0#64 then return some (Resp.badArg 2)
  else if (k.w 3).toNat < 0x40 + 96 ∨ (slotOf kind false).2 < (k.w 3).toNat then return some (Resp.badArg 3)
  else if s.fisin.fwOp.isSome then return some (Resp.of .busy)
  else
    modFisin (fun f => { f with fwOp := some (k.reply, kind, toPa (k.w 2), (k.w 3).toNat) })
    return none

/-- The staged firmware image is checked and written (R395, R398): never over the running or the mapped slot. -/
def firmwareStageEnds (sig : Bool) : M Unit := do
  let s ← get
  match s.fisin.fwOp with
  | none => pure ()
  | some (dest, kind, pa, n) =>
    modFisin (fun f => { f with fwOp := none })
    let slot := if kind = 1 then !s.fisin.fwslot else if kind = 2 then !s.fisin.bootslot else false
    let (off, size) := slotOf kind slot
    match ← fetchBytes pa.toNat n with
    | none => respond dest (Resp.fail 8) true
    | some bs =>
      let d := imageCheck s.fisin (fun o k => ofBytes ((List.range k).map (fun i => bs.getD (o + i) 0#8))) kind (min size n) sig
      if d ≠ 0 then
        fisinLog 0 0 2 (placed kind 0 ||| placed d 16) (BitVec.ofNat 64 off)
        respond dest (Resp.fail d) true
      else
        modFisin (fun f => { f with flash := flashWrite f.flash off bs })
        respond dest (Resp.good [BitVec.ofNat 64 (ofBytes ((bs.drop 8).take 4)), BitVec.ofNat 64 off]) true

/-- A channel holds an IN_PROGRESS command (R406). -/
def Fisin.inProgress (f : Fisin) (me : Reply) : Bool :=
  (List.finRange 64).any (fun i => let b := f.chans.get i; b.active && decide (b.result = 6#8) && !decide (me = .chan i))

/-- A service flag is set. -/
def Dev.flags (d : Dev) : Bool := d.ucode || d.fwswap || d.retrain || d.agate

/-- FIRMWARE_SWAP (R427). -/
def firmwareSwapBody (k : Cmd) : M (Option Resp) := do
  let s ← get
  if s.fisin.inProgress k.reply || s.dev.flags || s.fisin.swapOp.isSome then return some (Resp.of .busy)
  else
    let (off, size) := slotOf 1 (!s.fisin.fwslot)
    let d := imageCheck s.fisin (fun o n => s.fisin.flashN (off + o) n) 1 size (Config.imageSigned s.fisin.flash off)
    if d ≠ 0 then
      fisinLog 0 0 2 (placed 1 0 ||| placed d 16) (BitVec.ofNat 64 off)
      return some (Resp.fail d)
    else
      modFisin (fun f => { f with swapOp := some k.reply })
      setService (fun d => { d with fwswap := true })
      return none

/-- A swap ends: the new firmware is in force (R427 step 5), or the old one restarts with FAILED, DETAIL 7. -/
def swapEnds (ok : Bool) : M Unit := do
  match (← get).fisin.swapOp with
  | none => pure ()
  | some dest =>
    modFisin (fun f =>
      let f := { f with swapOp := none }
      if ok then (f.runs (!f.fwslot)).recordSlot (!f.fwslot) else f)
    drainEvents
    setService (fun d => { d with fwswap := false })
    let f := (← get).fisin
    respond dest (if ok then Resp.good [BitVec.ofNat 64 f.fwver] else Resp.fail 7) true

/-- INTEGRITY_REGION_SET (R324, R325, R330). -/
def integrityRegionSetBody (k : Cmd) : M (Option Resp) := do
  let s ← get
  let i : Fin 64 := ⟨fieldN (k.w 1) 0 6, Nat.mod_lt _ (by decide)⟩
  let r : Region := { v := (k.w 1).getLsbD 6, s := fieldN (k.w 1) 8 4, base := fieldN (k.w 2) 0 22, n := fieldN (k.w 3) 0 22 }
  if k.w 1 &&& 0xFFFFFFFFFFFFF080#64 ≠ 0#64 ∨ [0, 1, 2, 4, 8].contains r.s = false ∨ s.integ.agatemax < r.s then return some (Resp.badArg 1)
  else if k.w 2 >>> 22 ≠ 0#64 then return some (Resp.badArg 2)
  else if k.w 3 >>> 22 ≠ 0#64 ∨ 6144 < r.base + r.n then return some (Resp.badArg 3)
  else if s.integ.conv.isSome then return some (Resp.of .busy)
  else
    let old := s.integ.regions.get i
    let new := setUnit s.integ.regions i r
    -- a conversion is needed when the strength of a frame in use changes: compare at the GiBs of memory in use
    let used := (List.range 6144).any (fun g => (s.locate (BitVec.ofNat 52 (g * oneGiB))).isSome &&
      !decide (strengthIn s.integ.regions s.integ.defs (g * oneGiB) = strengthIn new s.integ.defs (g * oneGiB)))
    modify (fun s => { s with integ := { s.integ with regions := new } })
    if used then
      modify (fun s => { s with integ := { s.integ with conv := some { region := i, old := old, reply := k.reply } }
                                chans := s.chans.map (fun c => { c with agwm := 0 }) })
      setService (fun d => { d with agate := true })
      return none
    else return some (Resp.good [r.word])

/-- SCRUB_RATE_SET (R337). -/
def scrubRateSetBody (k : Cmd) : M (Option Resp) := do
  let mask := fieldN (k.w 1) 0 12
  let lap := fieldN (k.w 2) 0 16
  if k.w 1 >>> 12 ≠ 0#64 then return some (Resp.badArg 1)
  else if k.w 2 &&& 0xFFFFFFFFFEF80000#64 ≠ 0#64 ∨ lap < 10 ∨ 10080 < lap then return some (Resp.badArg 2)
  else
    for ch in List.finRange 12 do
      if mask.testBit ch.val then
        modChan ch (fun c => { c with lapmin := lap, boost := fieldN (k.w 2) 16 3, swen := (k.w 2).getLsbD 24 })
    return some (Resp.good [placed mask 0])

/-- CHANNEL_RETRAIN (R319): a long command. -/
def channelRetrainBody (k : Cmd) : M (Option Resp) := do
  let s ← get
  if h : (k.w 1).toNat < 12 then
    let ch : ChanId := ⟨(k.w 1).toNat, h⟩
    let c := s.chan ch
    if c.st = 0 then return some (Resp.badArg 1)
    else if c.st = 4 then return some (Resp.of .denied)
    else if c.st ≠ 3 then return some (Resp.of .notReady)
    else if s.fisin.retrainOp.isSome then return some (Resp.of .busy)
    else
      modFisin (fun f => { f with retrainOp := some (k.reply, ch) })
      setService (fun d => { d with retrain := true })
      setReady0 (36 + ch.val) false
      modChan ch (fun c => { c with st := 5, retrain := true })
      return none
  else return some (Resp.badArg 1)

/-- A bit map of a channel's remap entries in use. -/
def Channel.remapBits (k : Channel) : Nat := (List.finRange 32).foldl (fun w e => if (k.remap.get e).v then w ||| 2 ^ e.val else w) 0

/-- REMAPST as it reads (Table 13-7). -/
def Channel.remapst (k : Channel) : Word := placed k.used 0 ||| bitAt (decide (k.used = 32)) 8

/-- ISTAT as it reads (Table 13-7). -/
def Channel.istat (k : Channel) (conv : Bool) : Word :=
  (List.finRange 8).foldl (fun w g => w ||| placed (k.faildev.get g) (4 * g.val)) 0#64 ||| placed k.selftest.toNat 32 ||| bitAt conv 34 ||| bitAt k.failovf 35

/-- REMAP_QUERY (R332). -/
def remapQueryBody (k : Cmd) : M (Option Resp) := do
  let s ← get
  if h : (k.w 1).toNat < 12 then
    let c := s.chan ⟨(k.w 1).toNat, h⟩
    return some (Resp.good [c.remapst, BitVec.ofNat 64 c.remapBits, c.istat false &&& 0xFFFFFFFF#64, c.serial.setWidth 64, c.reapplied.setWidth 64])
  else return some (Resp.badArg 1)

/-- The four words of an error log entry (R410). -/
def LogEntry.words (e : LogEntry) : List Word :=
  [e.time, e.seq.setWidth 64 ||| placed e.unit 32 ||| placed e.inst 40 ||| placed e.event 48, e.d0, e.d1]

/-- The entries that can be read: flash, then what SRAM holds beyond it (R410). -/
def Fisin.logAll (f : Fisin) : List LogEntry := f.flashlog ++ f.sram.drop f.flushed

/-- Write log entries to memory. -/
def writeLog (pa : Nat) : List LogEntry → M Unit
  | [] => pure ()
  | e :: t => do
    landWords pa (e.words.map TW.raw)
    writeLog (pa + 32) t

/-- ERROR_LOG_READ (R407, R410). -/
def errorLogReadBody (k : Cmd) : M (Option Resp) := do
  let s ← get
  let count := (k.w 2).toNat
  let buf := (k.w 3).toNat
  if k.vmchk && decide (buf ≠ 0) then return some (Resp.of .denied)
  else if (match k.reply with | .ext => true | _ => false) && decide (buf ≠ 0) then return some (Resp.of .denied)
  else if k.w 1 >>> 32 ≠ 0#64 then return some (Resp.badArg 1)
  else if count < 1 ∨ 4096 < count then return some (Resp.badArg 2)
  else if buf % 32 ≠ 0 ∨ 2 ^ 52 ≤ buf then return some (Resp.badArg 3)
  else
    let all := s.fisin.logAll
    let es := (all.filter (fun e => decide ((k.w 1).toNat ≤ e.seq.toNat))).take count
    let oldest := match all with
      | e :: _ => e.seq
      | [] => s.fisin.seq
    if buf = 0 then
      let one := es.take 1
      let next := match one with
        | e :: _ => e.seq + 1#32
        | [] => s.fisin.seq
      return some (Resp.good ([BitVec.ofNat 64 one.length, next.setWidth 64, oldest.setWidth 64] ++ (match one with | e :: _ => e.words | [] => [])))
    else if (List.range es.length).any (fun i => !s.hubReach (BitVec.ofNat 52 (buf + 32 * i))) then return some (Resp.fail 8)
    else
      writeLog buf es
      let next := match es.getLast? with
        | some e => e.seq + 1#32
        | none => s.fisin.seq
      return some (Resp.good [BitVec.ofNat 64 es.length, next.setWidth 64, oldest.setWidth 64])

/-- COUNTER_RULE_SET (R293, R339): windows in µs. A device or row rule judges at once the times it has kept. -/
def counterRuleSetBody (k : Cmd) : M (Option Resp) := do
  let s ← get
  if h : (k.w 1).toNat < 5 then
    let i : Fin 5 := ⟨(k.w 1).toNat, h⟩
    if k.w 2 >>> 16 ≠ 0#64 then return some (Resp.badArg 2)
    else if (k.w 3).toNat < 1 ∨ 604800000000 < (k.w 3).toNat then return some (Resp.badArg 3)
    else
      let (t, w) := s.fisin.rules.get i
      modFisin (fun f => { f with rules := setUnit f.rules i ((k.w 2).toNat, (k.w 3).toNat * 1000) })
      rejudgeAll i.val
      return some (Resp.good [BitVec.ofNat 64 t, BitVec.ofNat 64 (w / 1000)])
  else return some (Resp.badArg 1)

/-- The smaller days figure of a list of monitors, 16 bits (R425). -/
def daysOf (p : Power) (is : List Nat) : Nat :=
  is.foldl (fun d i =>
    let m := p.mons.toList.getD i { slack := 0#16, floor := 0#16, drift := 0#16, reads := 0#16, points := [] }
    min d (min 0xFFFF (Config.floorDays (m.slack.toNat) (m.floor.toNat) (m.drift.toNat)))) 0xFFFF

/-- AGEING_REPORT (R425): a cluster with a cap below 30 in force reports 0 days. -/
def ageingReportBody (_ : Cmd) : M (Option Resp) := do
  let p := (← get).power
  let clu (c : Nat) : Nat := if (p.clocks.toList.getD c Reset.clock).cap < 30 then 0 else daysOf p [4 * c, 4 * c + 1, 4 * c + 2, 4 * c + 3]
  let word (w : Nat) : Word := placed (clu (4 * w)) 0 ||| placed (clu (4 * w + 1)) 16 ||| placed (clu (4 * w + 2)) 32 ||| placed (clu (4 * w + 3)) 48
  let phy := (List.range 12).foldl (fun (b : Nat × Nat) ch => let d := daysOf p [52 + ch]; if d < b.1 then (d, ch) else b) (daysOf p [52], 0)
  return some (Resp.good [word 0, word 1, word 2, placed (daysOf p [48, 49]) 0 ||| placed (daysOf p [50, 51]) 16, placed phy.1 0 ||| placed phy.2 16, BitVec.ofNat 64 p.hours])

/-- MARGIN_PLAN_GET (R426). -/
def marginPlanGetBody (k : Cmd) : M (Option Resp) := do
  if h : (k.w 1).toNat < 12 then
    let s ← get
    let c := s.clock ⟨(k.w 1).toNat, h⟩
    return some (Resp.good [placed c.gb 0 ||| placed c.cap 8, placed c.pgb 0 ||| placed c.pcap 8, BitVec.ofNat 64 c.phours])
  else return some (Resp.badArg 1)

/-- MARGIN_PLAN_APPLY (R426): a cluster with nothing pending is reported applied. -/
def marginPlanApplyBody (k : Cmd) : M (Option Resp) := do
  if k.w 1 >>> 12 ≠ 0#64 then return some (Resp.badArg 1)
  else
    for c in List.finRange 12 do
      if (k.w 1).getLsbD c.val then applyPlan c
    return some (Resp.good [k.w 1])

/-- VCFG as it reads (Table 16-6). -/
def State.vcfg (s : State) : Word := bitAt s.fisin.role 0 ||| placed s.volley.node.toNat 4 ||| placed s.volley.expect.toNat 32

/-- VOLLEY_CONFIG (R375). -/
def volleyConfigBody (k : Cmd) : M (Option Resp) := do
  let s ← get
  let absent := fieldN (k.w 2) 0 16
  let msg := fieldN (k.w 2) 16 16
  if k.w 1 >>> 17 ≠ 0#64 ∨ (k.w 1).getLsbD 0 = true ∨ (s.fisin.role = true ∧ k.w 1 ≠ 0#64) then return some (Resp.badArg 1)
  else if k.w 2 >>> 32 ≠ 0#64 ∨ absent < 10 ∨ 1000 < absent ∨ msg < 500 ∨ 10000 < msg ∨ absent * 1000 ≤ msg then return some (Resp.badArg 2)
  else if k.w 3 >>> 4 ≠ 0#64 then return some (Resp.badArg 3)
  else
    modVolley (fun v => { v with expect := (k.w 1).setWidth 17, absentMs := absent, msgUs := msg
                                 ports := Vector.ofFn (fun q => { v.ports.get q with en := (k.w 3).getLsbD q.val }) })
    modJ (fun j => { j with role := if s.fisin.role then 2 else if (k.w 1) = 0#64 then 0 else 1 })
    return some (Resp.good [(← get).vcfg])

/-- VDOM as it reads (Table 16-6). -/
def Volley.vdom (v : Volley) : Word := placed v.present.toNat 0 ||| bitAt v.attached 20

/-- DOMAIN_STATUS (R407). -/
def domainStatusBody (_ : Cmd) : M (Option Resp) := do
  let s ← get
  let out : Word := match s.jrnl.role, s.jrnl.epochs with
    | 1, e :: _ => s.volley.workers.foldl (fun w i => if (Tab.getD s.jrnl.durableOf i 0#48).toNat < e.n.toNat then w ||| placed 1 i else w) 0#64
    | _, _ => 0#64
  return some (Resp.good [s.volley.vdom ||| bitAt s.jrnl.detached 21, s.jrnl.closed.setWidth 64, s.jrnl.durable.setWidth 64, out])

/-- JSEQSTAT as it reads (Table 14-8). -/
def State.jseqstat (s : State) : Word :=
  let j := s.jrnl
  (match j.opened with | some e => e.n.setWidth 64 | none => 0#64) ||| bitAt (s.ready0 50 && j.opened.isNone) 48 ||| bitAt j.err 49 ||| bitAt j.detached 50

/-- JOURNAL_CONFIG (R342, R350, R407): SETTIME, SETEPOCH and SETCFG only in Staging, SETCFG also with RESTART in error. -/
def journalConfigBody (k : Cmd) : M (Option Resp) := do
  let s ← get
  let w1 := k.w 1
  let cfg := w1.getLsbD 0
  let stime := w1.getLsbD 1
  let restart := w1.getLsbD 2
  let sep := w1.getLsbD 3
  let staging := decide (s.dev.mode = 1) && !s.jrnl.frozen
  let jlen := fieldN (k.w 2) 0 24
  if ((stime || sep) && !staging) || (cfg && !staging && !(restart && s.jrnl.err)) || (stime && s.jrnl.settime) then return some (Resp.of .denied)
  else if w1 &&& 0xFFFFFFFF0000FFF0#64 ≠ 0#64 ∨ ((stime || sep) && s.fisin.role) = true ∨ (restart && !s.jrnl.err) = true then return some (Resp.badArg 1)
  else if cfg && (decide (jlen < 10) || decide (10000 < jlen) || decide (fieldN (k.w 2) 48 16 ≠ 0)) then return some (Resp.badArg 2)
  else if cfg && (decide ((k.w 4).toNat % 4096 ≠ 0) || decide ((k.w 4).toNat < 65536) || decide (2 ^ 40 ≤ (k.w 4).toNat)) then return some (Resp.badArg 4)
  else if sep && (decide (k.w 7 = 0#64) || decide (k.w 7 >>> 48 ≠ 0#64)) then return some (Resp.badArg 7)
  else if !s.ready0 50 then return some (Resp.of .notReady)
  else
    if cfg then
      modJ (fun j => { j with jlen := jlen, tgttmo := fieldN (k.w 2) 24 24, tgtbase := k.w 3, tgtsize := (k.w 4).toNat
                              tgtdb := k.w 5, tgtrid := w1.extractLsb' 16 16 })
    if stime then modJ (fun j => { j with time := k.w 6, settime := true })
    if sep then
      -- the numbers start at the value given: an open epoch is renumbered
      let n : BitVec 48 := (k.w 7).setWidth 48
      if (← get).jrnl.opened.isSome then
        modJ (fun j => { j with first := n + 1#48, epochs := [{ n := n, st := .opened, start := j.time, bytes := 0 }] })
        broadcast n
      else modJ (fun j => { j with first := n })
    if restart then
      -- draining resumes at the first record not yet durable, which is written again (R350)
      modJ (fun j =>
        let again := j.kept.filter (fun r => decide (j.durable.toNat < (j.stampOf r.epoch).toNat))
        { j with err := false, queue := again ++ j.queue, kept := j.kept.filter (fun r => decide ((j.stampOf r.epoch).toNat ≤ j.durable.toNat))
                 epochs := j.epochs.map (fun e => { e with st := if e.st = .committing then .draining else e.st, bytes := if j.durable.toNat < e.n.toNat then 0 else e.bytes }) })
    journalRun
    return some (Resp.good [(← get).jseqstat])

/-- ENTER_DORMANT (R406, R421). -/
def enterDormantBody (k : Cmd) : M (Option Resp) := do
  let s ← get
  if s.fisin.inProgress k.reply || s.dev.flags then return some (Resp.of .busy)
  else
    modFisin (fun f => { f with dormantOp := some (k.w 1) })
    match k.reply with
    | .chan i => if !(s.mbox i).irqen then fireIrt 0x7DB
    | _ => pure ()
    modStandby (fun b => { b with armed := true, wakePending := false })
    return some (Resp.good [])

end Sys2Proof.Machine
end

