-- ==== Sys2Proof/Machine/Pairs.lean ====
section
/-! DEFINITION. Checked pairs: windows, verdicts, rallies, retirement, starts and the debugger (11). -/

namespace Sys2Proof.Machine

/-! ### Verdicts and rallies (R284–R293) -/

/-- Release the oldest window (R284–R287): its stores drain in order, its log entries and its deferred line go. -/
def releaseWindow (p : PairId) (w : Window) (rest : List Window) : M Unit := do
  let c := evenOf p
  modPair p (fun q => { q with
    windows := rest, mismatched := none, retryHold := false
    dlog := q.dlog.filter (fun e => !posLt (e.n, e.u) (w.ended.getD (w.startN, w.startU)))
    cleared := if w.access then w.ended else q.cleared })
  modCore c (fun k => if k.run = .rallying then { k with run := .running } else k)
  performAll c w.gate
  pmEvent c 0x31
  applyStop p
  journalRun

/-- A window as a rally reopens it (R291): nothing in it, to end where it ended before. -/
def Window.reopened (w : Window) : Window :=
  { w with sig := 0#64, gate := [], loads := [], logged := 0, writes := 0, retired := 0, events := [], ended := none, line := none
           goal := if w.goal.isSome then w.goal else w.ended }

/-- The registers that a checkpoint restores outside the core's banks (R291): CACHECTL's enables, the locks, PMCTL, SLIP and WINLEN. -/
def restoreSide (p : PairId) (x : Side) : M Unit := do
  modPair p (fun q => { q with slipNext := x.slip, winlenNext := x.winlen })
  modCore (evenOf p) (fun k => { k with
    l2en := x.l2en, vcen := x.vcen, lockD := x.lockD, lockI := x.lockI
    pm := Vector.ofFn (fun i => { k.pm.get i with ctl := x.pmctl.get i }) })

/-- Whether the log holds a stop that a rally will meet again. -/
def DEntry.isStop (e : DEntry) : Bool :=
  match e.what with
  | .stop _ => true
  | _ => false

/-- Steps 1 to 4 of R291: both windows are discarded and the older one's checkpoint is restored; the delivery log is replayed, its
stops too (R289). -/
def unwind (p : PairId) : M Unit := do
  let q ← getPair p
  match q.windows with
  | [] => pure ()
  | w :: _ =>
    modRegs (evenOf p) (fun _ => w.checkpoint)
    restoreSide p w.side
    modCore (evenOf p) (fun k => { k with run := .rallying, tlbi := none, jwait := none, miss := [], kept := [], used := 0 })
    modPair p (fun q => { q with
      windows := [w.reopened], replay := q.dlog, retryHold := true, cleared := none, winend := false
      stopDue := if q.dlog.any (·.isStop) then none else q.stopDue })

/-- A rally is counted (R291, R305, R411). -/
def countRally (p : PairId) : M Unit := do
  modPair p (fun q => { q with rallies := if q.rallies = 0xFFFF#16 then q.rallies else q.rallies + 1#16 })
  pmEvent (evenOf p) 0x30
  fisinLog 1 p.val 1 (← getPair p).misinfo 0#64

/-- A rally that counts toward REASON 2 (R293); when its rule fires, the pair is retired instead. -/
def rally (p : PairId) : M Unit := do
  countRally p
  let s ← get
  let (ts, fired) := ruleCount (s.fisin.rules.get 4) s.now (s.pair p).rallyTimes
  modPair p (fun q => { q with rallyTimes := ts })
  if fired then
    fisinLog 0 0 1 4#64 (BitVec.ofNat 64 p.val)
    beginRetire p 3#2 2#4
  else unwind p

/-- A mismatch (R285, R291, R293, R301). `verdict` is 1 when both Umpires mismatched and 2 when they differed. -/
def mismatch (p : PairId) (w : Window) (verdict : Nat) (sig : Word) : M Unit := do
  let q ← getPair p
  let start := (w.startN, w.startU)
  let again := decide (q.mismatched = some start)
  modPair p (fun q => { q with
    misinfo := posWord start ||| placed verdict 56 ||| bitAt again 58, siglead := w.sig, sigtrail := sig
    suspect := q.suspect || decide (verdict = 2) })
  if verdict = 2 then fisinLog 1 p.val 2 (← getPair p).misinfo 0#64
  if q.holdmis then
    unwind p
    modPair p (fun q => { q with
      heldmis := true, mismatched := some start, windows := q.windows.map (fun w => { w with ended := some (w.startN, w.startU) }) })
  else if again then beginRetire p 3#2 1#4
  else
    modPair p (fun q => { q with mismatched := some start })
    rally p

/-- The first pair of events that differ, leading then trailing; one that is missing counts as zero. -/
def firstDiffering : List Event → List Event → Option (Event × Event)
  | [], [] => none
  | a :: x, b :: y => if a = b then firstDiffering x y else some (a, b)
  | a :: _, [] => some (a, { k := 0, v := 0#64, t := 0 })
  | [], b :: _ => some ({ k := 0, v := 0#64, t := 0 }, b)

/-- The verdict on a single position of a replay (R301): it goes on while the events agree, and stops at the first that
differs, whose values DBGTKIND, DBGTVAL and DBGLVAL give. Positions that differ in their end or their count of stores alone show zero there
(DESIGN CHOICE, log entry 85). -/
def replayVerdict (p : PairId) (base w : Window) (trail : List Event) (agree : Bool) : M Unit := do
  match firstDiffering w.events trail with
  | none =>
    if agree then
      modPair p (fun q => { q with windows := [{ base with gate := base.gate ++ w.gate, loads := base.loads ++ w.loads }] })
    else
      modPair p (fun q => { q with
        windows := [base], replaystop := true, stepping := false, misinfo := posWord (w.startN, w.startU)
        dbgtval := 0#64, dbglval := 0#64, dbgtkind := 0#64 })
  | some (l, t) =>
    modPair p (fun q => { q with
      windows := [base], replaystop := true, stepping := false, misinfo := posWord (w.startN, w.startU)
      dbgtval := t.v, dbglval := l.v, dbgtkind := placed (t.k % 8) 0 ||| placed (t.t % 256) 8 })

/-- Both Umpires judge the oldest window that has ended (R282, R285): signatures, end positions and store counts. `umpireBad`
and `thirdBad` say that a comparator's own result is wrong. `trail` are the trailing core's events at a single position (R301). -/
def verdict (p : PairId) (sig : Word) (n : BitVec 48) (u stores : Nat) (umpireBad thirdBad : Bool) (trail : List Event) : M Unit := do
  let q ← getPair p
  let there (w : Window) : Bool := decide (w.ended = some (n, u)) && decide (stores = w.gate.length)
  let same (w : Window) : Bool := decide (sig = w.sig) && there w
  match q.windows with
  | [] => pure ()
  | w :: rest =>
    match rest with
    | v :: _ =>
      if q.heldmis then
        if v.ended.isSome then replayVerdict p w v trail (there v && !umpireBad && !thirdBad)
      else if w.ended.isSome then
        let a := same w != umpireBad
        let b := same w != thirdBad
        if a && b then releaseWindow p w rest else mismatch p w (if a = b then 1 else 2) sig
    | [] =>
      if w.ended.isSome && !q.heldmis then
        let a := same w != umpireBad
        let b := same w != thirdBad
        if a && b then releaseWindow p w rest else mismatch p w (if a = b then 1 else 2) sig

/-- A pair held at a mismatch rallies normally, and the rally is counted (R301 step 5). -/
def leaveHold (p : PairId) : M Unit := do
  if (← getPair p).heldmis then
    modPair p (fun q => { q with heldmis := false, replaystop := false, stepping := false })
    rally p

/-! ### The pair's registers as they read (Table 11-11) -/

/-- A run state's code (Table 11-11). -/
def RunState.code : RunState → Nat
  | .stopped => 0 | .running => 1 | .rallying => 2 | .halted => 3 | .retiring => 4 | .retired => 5

/-- PAIRSTAT. -/
def State.pairStat (s : State) (p : PairId) : Word :=
  let q := s.pair p
  placed (s.core (evenOf p)).run.code 0 ||| placed (if q.checked then 0 else (s.core (oddOf p)).run.code) 4 |||
  bitAt q.checked 8 ||| bitAt q.suspect 9 ||| bitAt q.hard 10 ||| placed q.reason.toNat 12 ||| placed (rallyWin s q % 256) 16

/-! ### Starting (R298) -/

/-- A core with every register at its reset value, about to run at `pc` (R298). Its coherent lines, with the state of their
replacement, and its retired stores are not registers and stay. -/
def Core.restarted (k : Core) (run : RunState) (pc : Word) : Core :=
  { Reset.core with
    run := run, regs := Reset.regs.setCtx { Reset.ctx with pc := pc }, l1d := k.l1d, l1i := k.l1i
    l1dlru := k.l1dlru, l1ilru := k.l1ilru, l2lru := k.l2lru, victim := k.victim, strbuf := k.strbuf, l2 := if k.l2Coherent then k.l2 else [], stbuf := k.stbuf, epoch := k.epoch
    lastStamp := k.lastStamp }

/-- A pair's checker registers at their reset values (R297, R298, Table 11-10). -/
def Pair.restarted (q : Pair) : Pair :=
  { q with slip := 128#10, winlen := 256#11, slipNext := 128#10, winlenNext := 256#11, windows := [], dlog := [], replay := []
           mismatched := none, retryHold := false, cleared := none, winend := false, stopDue := none, bank := none, heldmis := false
           replaystop := false, stepping := false, halted := false }

/-- Start a stopped pair or core (R298); a running or retired one ignores it. -/
def startCore (p : PairId) (odd : Bool) (addr : Word) : M Unit := do
  let s ← get
  let q := s.pair p
  let c := if odd then oddOf p else evenOf p
  if s.ready0 p.val && decide ((s.core c).run = .stopped) && !(odd && q.checked) then
    modCore c (fun k => k.restarted .running addr)
    if q.checked then
      modCore (oddOf p) (fun k => k.restarted .stopped 0#64)
      modPair p Pair.restarted

/-! ### Retirement (R294–R297) -/

/-- The logical number of a physical core, 0 when LOGICALMAP names none. -/
def Fisin.logOf (f : Fisin) (c : CoreId) : Nat := ((List.range 48).find? (fun n => decide (f.logical n = some c))).getD 0

/-- TRAPINFO of cause 0x1F (Table 11-8). -/
def State.retireInfo (s : State) (p : PairId) (cores : BitVec 2) (reason : BitVec 4) (rescued : Bool) : Word :=
  let q := s.pair p
  placed p.val 0 ||| bitAt (!q.checked) 5 ||| bitAt (decide (reason ≠ 4#4)) 6 ||| bitAt rescued 7 ||| placed reason.toNat 8 |||
  placed (s.fisin.logOf (evenOf p)) 12 ||| (if q.checked then 0#64 else placed (s.fisin.logOf (oddOf p)) 18) ||| placed cores.toNat 24

/-- PA of a pair's rescue area (Table 11-11). -/
def Pair.rescueBase (q : Pair) : Nat := (q.rescue &&& 0x000FFFFFFFFE0000#64).toNat

/-- A bank with the frames of its spill slots resident again, OW lowered (R295). -/
def Regs.bankWhole (r : Regs) (b : Fin 4) : Ctx :=
  (r.spill.filter (fun s => decide (s.bank = b))).foldl (fun x s =>
    let x := x.setFrame s.win s.frame (List.finRange 16)
    { x with wstat := { x.wstat with ow := x.wstat.ow - 1#5 } }) (r.bank b)

/-- Write a bank's context save area at a PA, and the resident frame of each window w at 0x800 + 128w from there (Table 11-7). -/
def rescueBank (base : Nat) (r : Regs) (b : Fin 4) : M Unit := do
  let x := r.bankWhole b
  landWords base (x.csaWords.set 2 (TW.raw (x.wstat.pack 0)))
  for w in windowRun x.wstat.ow x.resident do landWords (base + 0x800 + 128 * w.toNat) (x.frame w).toList

/-- The interrupts taken after the checkpoint, at most 8 (Table 11-7). -/
def takenWords (log : List DEntry) : List Word :=
  let ws := (log.filterMap (fun e => match e.what with
    | .interrupt v l => some (v.setWidth 64 ||| placed l.toNat 8 ||| bitAt true 15)
    | _ => none)).take 8
  ws ++ List.replicate (8 - ws.length) 0#64

/-- Banks that hold a context: the current one, and those with a context number. -/
def Regs.heldBanks (r : Regs) : List (Fin 4) := (List.finRange 4).filter (fun b => decide (b = r.cur) || !decide ((r.bank b).id = 0#16))

/-- Write one core's part of the rescue area at a PA (Table 11-7). -/
def writeRescue (base : Nat) (r : Regs) (info : Word) (verified : Bool) (log : List DEntry) : M Unit := do
  let banks := r.heldBanks.foldl (fun w b => w ||| placed 1 b.val) 0#64
  let fdq := (List.finRange 4).flatMap (fun n => (List.range 6).map (fun i => r.fdqReg n i))
  landWords base (([info, posWord r.pos, banks ||| placed r.cur.val 4 ||| bitAt r.mbank 6 ||| bitAt verified 7, r.fdqra] ++ fdq ++
    takenWords log).map TW.raw)
  for b in r.heldBanks do rescueBank (base + 0x2000 * (b.val + 1)) r b

/-- Free words at rising PAs: the undefined contents of an area whose rescue stopped (R295). -/
def scribble (pa : Nat) : Nat → M Unit
  | 0 => pure ()
  | n + 1 => do
    let v ← drawWord
    let t ← drawWord
    hubWrite (BitVec.ofNat 52 pa) { tag := t.setWidth 8, val := v }
    scribble (pa + 8) n

/-- The lowest-numbered logical core that runs. -/
def State.lowestRunning (s : State) : Option CoreId :=
  (List.range 48).findSome? (fun n => match s.fisin.logical n with
    | some c => if (s.core c).takes then some c else none
    | none => none)

/-- A core that cause 0x1F can be raised at: RETTGT's, or the lowest-numbered running one (R294). -/
def State.retireTarget (s : State) (p : PairId) : Option CoreId :=
  match s.fisin.logical (s.pair p).rettgt.toNat with
  | some c => if (s.core c).takes then some c else s.lowestRunning
  | none => s.lowestRunning

/-- Whether a logical number is one of a pair's cores. -/
def Fisin.namesPair (f : Fisin) (p : PairId) (n : Nat) : Bool :=
  match f.logical n with
  | some c => decide (pairOf c = p)
  | none => false

/-- The rescue area is written, or cannot be, and the pair's retirement or stop completes (R294 steps 2 to 5, R295, R297).
`agree` says that the two checkpoints of a checked pair agreed word by word. -/
def retirementEnds (p : PairId) (agree : Bool) : M Unit := do
  let s ← get
  let q := s.pair p
  match q.rescuing with
  | none => pure ()
  | some (cores, reason) =>
    let base := q.rescueBase
    let reach := q.rescue.getLsbD 0 && (decide (reason ≠ 6#4) || decide (s.dev.cause = 2#2)) &&
      (List.range 32).all (fun i => s.memReady (BitVec.ofNat 52 (base + 4096 * i)))
    let rescued := reach && (!q.checked || agree)
    let info := s.retireInfo p cores reason rescued
    if reach then
      if q.checked then
        if agree then writeRescue base (s.regs (evenOf p)) info true q.dlog else scribble base 8192
      else
        if cores.getLsbD 0 then writeRescue base (s.regs (evenOf p)) info false []
        if cores.getLsbD 1 then writeRescue (base + 0x10000) (s.regs (oddOf p)) info false []
    let ends (c : CoreId) : M Unit := modCore c (fun k => if reason = 4#4 then k.restarted .stopped 0#64 else { k with run := .retired })
    if cores.getLsbD 0 then ends (evenOf p)
    if cores.getLsbD 1 then (if q.checked && decide (reason = 4#4) then modCore (oddOf p) (fun k => k.restarted .stopped 0#64) else ends (oddOf p))
    modPair p (fun q => { q with rescuing := none, dlog := [], halted := false, heldmis := false, replaystop := false, stepping := false, stopDue := none })
    if reason = 4#4 && q.checked then modPair p Pair.restarted
    if reason ≠ 4#4 then
      setReady0 p.val false
      let retargeted (w : Word) : Word := if s.fisin.namesPair p (fieldN w 20 6) then setField w 20 6 q.rettgt.toNat else w
      modPcie (fun t => { t with irtRest := retargeted t.irtRest
                                 irt := (t.irt.map (fun e => (e.1, retargeted e.2))).filter (fun e => !decide (e.2 = retargeted t.irtRest)) })
    fisinLog 1 p.val 3 info 0#64
    match (← get).retireTarget p with
    | some c => modCore c (fun k => { k with async := k.async ++ [{ cause := 0x1F#8, info := info, faddr := if rescued then BitVec.ofNat 64 base else 0#64 }] })
    | none => pure ()
    match (← get).fisin.retireOp with
    | some (dest, r) =>
      if r = p then
        modFisin (fun f => { f with retireOp := none })
        respond dest (Resp.good [info]) true
    | none => pure ()

/-! ### The debugger (R300) -/

/-- A debugger write changes the leading core's register at once. -/
def debugApply (c : CoreId) (sel : BitVec 13) (w : TW) : M Unit := do
  if sel.getLsbD 12 then
    let s ← get
    match ← (mtsWrite c (sel.toNat % 4096) w).run with
    | .ok () => pure ()
    | .error _ => set s
  else modRegs c (fun r => r.write (sel.setWidth 5) w)

/-! ### Timers -/

/-- The leading core has retired nothing for 256 CCLK cycles: its window ends where it stands (R280). -/
def idleEnds (p : PairId) : M Unit := do
  let q ← getPair p
  match q.current with
  | some w => if q.checked && w.goal.isNone then endWindow p
  | none => pure ()

/-- 10 µs after a CAS or SATB exchange took its line (R287): the pair rallies, which does not count toward REASON 1 or 2. -/
def deferralEnds (p : PairId) : M Unit := do
  let q ← getPair p
  if q.checked && q.windows.any (fun w => w.line.isSome) then
    countRally p
    unwind p

/-- The rally budget is spent (R287, R292): retry-hold drops, held lines are released, and the pair holds where it stands. -/
def budgetEnds (p : PairId) : M Unit := do
  let s ← get
  let q := s.pair p
  if q.checked && q.retryHold && !q.heldmis && decide ((s.core (evenOf p)).run = .rallying) then
    modPair p (fun q => { q with retryHold := false, windows := q.windows.map (fun w => { w with line := none }) })

/-- The pair watchdog reaches 1 ms (R292): hard fault with REASON 3, when a retired instruction has no verdict. -/
def watchdogEnds (p : PairId) : M Unit := do
  let s ← get
  let q := s.pair p
  let run := (s.core (evenOf p)).run
  if q.checked && !q.retryHold && !q.halted && (decide (run = .running) || decide (run = .rallying)) &&
      q.windows.any (fun w => decide (0 < w.retired) || w.ended.isSome || w.goal.isSome) then
    beginRetire p 3#2 3#4

end Sys2Proof.Machine
end

