-- ==== Sys2Proof/Machine/Microcode.lean ====
section
/-! DEFINITION. Microcode images and control stores: loading, staging, commit, verification and parity repair (07, R183–R206). -/

namespace Sys2Proof.Machine

/-! ### Images (R194, R195) -/

/-- The words of an image's BODY from a byte offset on, those that are not zero. -/
def bodyTab (rd : Nat → Byte) (off n : Nat) : Tab (BitVec 32) :=
  (List.range n).filterMap (fun i =>
    let w := ofBytes ((List.range 4).map (fun k => rd (off + 4 * i + k)))
    if w = 0 then none else some (i, BitVec.ofNat 32 w))

/-- An image from its bytes by offset; `rdX` reads the customer extension area (Table 7-6). -/
def parseImage (rd rdX : Nat → Byte) : Image :=
  let n (off k : Nat) : Nat := ofBytes ((List.range k).map (fun i => rd (off + i)))
  { xfv := BitVec.ofNat 16 (n 6 2), ssig := BitVec.ofNat 768 (n 0x10040 96), xsig := BitVec.ofNat 768 (n 0x100A0 96)
    std := bodyTab rd 0x40 0x2C00, magic := BitVec.ofNat 32 (n 0 4), pfv := BitVec.ofNat 16 (n 4 2), stdver := BitVec.ofNat 32 (n 8 4)
    xver := BitVec.ofNat 32 (n 0xC 4), part := BitVec.ofNat 16 (n 0x10 2), stepmin := BitVec.ofNat 16 (n 0x12 2)
    xkey := rd 0x14, reservedZero := (List.range 43).all (fun i => decide (rd (0x15 + i) = 0#8))
    ext := bodyTab rdX 0xB040 5120 }

/-- The flash offset of microcode image 0 or 1 (Table 17-2). -/
def imageBase (i : Bool) : Nat := if i then 0x830000 else 0x810000

/-- Microcode image 0 or 1 as flash holds it. -/
def Fisin.flashImage (f : Fisin) (i : Bool) : Image :=
  let base := imageBase i
  let t := f.flash.filter (fun e => decide (base ≤ e.1) && decide (e.1 < base + 0x20000))
  let x := t.filter (fun e => decide (base + 0xB040 ≤ e.1))
  parseImage (fun o => Tab.getD t (base + o) 0xFF#8) (fun o => Tab.getD x (base + o) 0xFF#8)

/-- R195: 0 when Fisin accepts an image, else its DETAIL code. The outcomes of the signature verifications are operands. -/
def imageVerdict (f : Fisin) (m : Image) (sig : SigOutcome) : Nat :=
  let key := m.xkey.toNat
  if m.magic ≠ 0x4D435331#32 ∨ m.part ≠ 0x4830#16 ∨ 0x0B00 < m.stepmin.toNat ∨ m.reservedZero = false then 1
  else if sig.ssig = false then 2
  else if key = 0 then (if m.ext = [] then 0 else 1)
  else if ¬ (key ≤ 3 ∧ f.keys.getLsbD key = true) then 1
  else if sig.xsig = false then 2
  else 0

/-! ### The first load (R196) -/

/-- Whether bank `b` of cluster `c` is set in a bank map: bit 2c + b. -/
def bankBit (m : BitVec 24) (c : CluId) (b : Nat) : Bool := m.getLsbD (2 * c.val + b)

/-- The pairs of a cluster. -/
def pairsOf (c : CluId) : List PairId := (List.finRange 24).filter (fun p => decide (p.val / 2 = c.val))

/-- A cluster's banks have been written and compared (R196, R400). -/
def loadCluster (m : Image) (ok : BitVec 24) (c : CluId) : M Unit := do
  let s ← get
  if !s.fisin.fail0.getLsbD (24 + c.val) then
    let a := bankBit ok c 0
    let b := bankBit ok c 1
    if a || b then
      modCluster c (fun k => { k with
        bankA := if a then some m else none, bankB := if b then some m else none, abad := !a, bbad := !b
        parityA := [], parityB := [], bankuse := if a && b then 0#2 else if a then 1#2 else 2#2 })
      if !(a && b) then fisinLog 2 c.val 2 (if a then 1#64 else 0#64) 0#64
      setReady0 (24 + c.val) true
      for p in pairsOf c do
        setReady0 p.val true
        modPair p (fun q => { q with checked := decide (p.val = 0) || s.fisin.paircfg.testBit p.val })
    else
      setFail0 (24 + c.val) true
      fisinLog 2 c.val 3 5#64 0#64
      for p in pairsOf c do
        setFail0 p.val true
        modPair p (fun q => { q with failed := true })

/-- MICROCODE_LOAD_DONE (R196): the image named by the boot configuration, or the alternate one, in every bank. The boot configuration goes on
naming the image it names. -/
def loadDone (boot alternate : SigOutcome) (ok : BitVec 24) : M Unit := do
  let s ← get
  let f := s.fisin
  if s.dev.mode = 1 ∧ s.ready0 48 = true ∧ (List.range 12).all (fun i => !s.ready0 (24 + i)) = true then
    let named := f.recordOk && f.ucimage
    let pick : Option Bool :=
      if imageVerdict f (f.flashImage named) boot = 0 then some named
      else if imageVerdict f (f.flashImage (!named)) alternate = 0 then some (!named) else none
    match pick with
    | none => enterHalted
    | some i =>
      let m := f.flashImage i
      for c in List.finRange 12 do loadCluster m ok c
      if !(bankBit ok 0 0 || bankBit ok 0 1) then enterHalted

/-! ### Staging an image (R201) -/

/-- MICROCODE_STAGE (Table 17-10, R205). -/
def microcodeStageBody (k : Cmd) : M (Option Resp) := do
  let s ← get
  if k.w 1 >>> 4 ≠ 0#64 then return some (Resp.badArg 1)
  else if (k.w 1).getLsbD 0 && (decide ((k.w 2).toNat % 64 ≠ 0) || decide (k.w 2 >>> 52 ≠ 0#64)) then return some (Resp.badArg 2)
  else if s.fisin.stageOp.isSome || s.fisin.commitOp.isSome || s.fisin.verifyFix.isSome then return some (Resp.of .busy)
  else
    modFisin (fun f => { f with stageOp := some (k.reply, k.w 1, toPa (k.w 2)) })
    return none

/-- The bytes of a stored image (Table 7-6). -/
def imageBytes : Nat := 0x10100

/-- The stage completes (R195, R201): the image is checked and held, and written to flash with PERSIST. -/
def stageDone (sig : SigOutcome) : M Unit := do
  let s ← get
  match s.fisin.stageOp with
  | none => pure ()
  | some (dest, w1, pa) =>
    modFisin (fun f => { f with stageOp := none })
    let fromFlash (i : Bool) : List Byte := (List.range imageBytes).map (fun o => s.fisin.flashByte (imageBase i + o))
    let got : Option Image ← (if w1.getLsbD 0 then do
        match ← fetchBytes pa.toNat imageBytes with
        | none => return none
        | some bs => return some (parseImage (fun o => bs.getD o 0#8) (fun o => bs.getD o 0#8))
      else return some (s.fisin.flashImage (w1.getLsbD 2)) : M (Option Image))
    match got with
    | none => respond dest (Resp.fail 8) true
    | some m =>
      let d := imageVerdict s.fisin m sig
      if d ≠ 0 then respond dest (Resp.fail d) true
      else
        modFisin (fun f => { f with staged := some m })
        if w1.getLsbD 1 then
          let bs ← (if w1.getLsbD 0 then do return (← fetchBytes pa.toNat imageBytes).getD [] else return fromFlash (w1.getLsbD 2) : M (List Byte))
          modFisin (fun f => { f with flash := flashWrite f.flash (imageBase (w1.getLsbD 3)) bs, ucimage := w1.getLsbD 3 })
        respond dest (Resp.good [m.stdver.setWidth 64, m.xver.setWidth 64, placed (m.pfv.toNat % 16) 0]) true

/-! ### Commit (R202–R205) -/

/-- The running image's PFV as the four bits of CLUSTATS.PFV show it; 0 before the first load (Table 7-8). -/
def Cluster.pfv (k : Cluster) : Nat := ((k.running.map (fun m => m.pfv.toNat)).getD 0) % 16

/-- MICROCODE_COMMIT (R202, R205). -/
def microcodeCommitBody (k : Cmd) : M (Option Resp) := do
  let s ← get
  let cs := (List.finRange 12).filter (fun c => (k.w 1).getLsbD c.val)
  if k.w 1 >>> 12 ≠ 0#64 ∨ k.w 1 = 0#64 then return some (Resp.badArg 1)
  else
    match s.fisin.staged with
    | none => return some (Resp.of .notReady)
    | some m =>
      if !cs.all (fun c => s.ready0 (24 + c.val)) then return some (Resp.of .notReady)
      else if s.fisin.commitOp.isSome || s.fisin.verifyFix.isSome then return some (Resp.of .busy)
      else if !cs.all (fun c => decide ((unit s.clusters c).pfv = m.pfv.toNat)) then return some (Resp.fail 6)
      else
        setService (fun d => { d with ucode := true })
        commitNext { reply := k.reply, left := cs, done := 0#12, single := 0#12 }
        return none

/-- The commit point (R203, R204): a checked pair that runs or rallies goes on with the bank it reads, `old` BANKUSE's, until verdicts cover
the stop at which its window ends; then it switches. -/
def commitPoint (c : CluId) (old : BitVec 2) : M Unit := do
  for p in pairsOf c do
    let s ← get
    let run := (s.core (evenOf p)).run
    if (s.pair p).checked && (decide (run = .running) || decide (run = .rallying)) then
      modPair p (fun q => { q with bank := some old })
      if (s.pair p).stopDue.isNone then stopPair p 0
      applyStop p

/-- Every checked pair of a cluster has switched its banks (R204). -/
def State.allSwitched (s : State) (c : CluId) : Bool := (pairsOf c).all (fun p => (s.pair p).bank.isNone)

/-- A step of a repair of cluster `c` completes: steps 1, 2 and 5 of Table 7-7, with a rewrite in place of a commit (R200). A rewrite that
does not compare equal leaves its bank BAD and the cluster on the other one. -/
def repairStepDone (c : CluId) (ok : Bool) : M Unit := do
  let s ← get
  match s.fisin.verifyFix with
  | none => pure ()
  | some v =>
    match v.left with
    | [] => pure ()
    | (h, b, m) :: rest =>
      if h = c then
        match (unit s.clusters c).phase.toNat with
        | 1 => modCluster c (fun x => { x with phase := 2#3 })
        | 2 =>
          if ok then
            modCluster c (fun x =>
              let x := if b then { x with bankB := m, bbad := false, parityB := [] } else { x with bankA := m, abad := false, parityA := [] }
              { x with phase := 5#3, bankuse := if (if b then x.abad else x.bbad) then (if b then 2#2 else 1#2) else 0#2 })
            modFisin (fun f => { f with verifyFix := some { v with fixed := v.fixed ||| BitVec.ofNat 24 (2 ^ (2 * c.val + b.toNat)) } })
          else
            modCluster c (fun x => if b then { x with phase := 0#3, bbad := true } else { x with phase := 0#3, abad := true })
            repairNext { v with left := rest }
        | 5 =>
          modCluster c (fun x => { x with phase := 0#3 })
          repairNext { v with left := rest }
        | _ => pure ()

/-- A bit of a cluster map. -/
def cluBit (c : CluId) : BitVec 12 := BitVec.ofNat 12 (2 ^ c.val)

/-- Whether a step that completes in state `s` is the commit point of cluster `c` (step 3 of Table 7-7). -/
def State.atCommit (s : State) (c : CluId) (ok : Bool) : Bool :=
  ok && decide ((unit s.clusters c).phase = 2#3) && match s.fisin.commitOp with
  | some k => decide (k.left.head? = some c)
  | none => false

/-- A step of Table 7-7 of cluster `c` completes: of a commit (R202), or of a verify pass's repair (R200). -/
def commitStepDone (c : CluId) (ok : Bool) : M Unit := do
  let s ← get
  match s.fisin.commitOp with
  | none => repairStepDone c ok
  | some k =>
    if k.left.head? = some c then
      let clu := unit s.clusters c
      let next (k : Commit) : M Unit := commitNext { k with left := k.left.drop 1 }
      match clu.phase.toNat with
      | 1 => modCluster c (fun x => { x with phase := 2#3 })
      | 2 =>
        if ok then
          modCluster c (fun x => { x with bankB := s.fisin.staged, bbad := false, parityB := [], phase := 3#3, bankuse := 2#2 })
          commitPoint c clu.bankuse
        else
          modCluster c (fun x => { x with bankB := x.bankA, parityB := [], bankuse := 0#2, phase := 0#3 })
          commitEnds k true
      | 3 => if s.allSwitched c then modCluster c (fun x => { x with phase := 4#3 })
      | 4 =>
        if ok then modCluster c (fun x => { x with bankA := x.bankB, parityA := [], abad := false, phase := 5#3, bankuse := 0#2 })
        else
          modCluster c (fun x => { x with bankA := none, parityA := [], abad := true, phase := 0#3 })
          next { k with done := k.done ||| cluBit c, single := k.single ||| cluBit c }
      | 5 =>
        modCluster c (fun x => { x with phase := 0#3 })
        next { k with done := k.done ||| cluBit c }
      | _ => pure ()

/-! ### Verification (R200) -/

/-- MICROCODE_VERIFY: once, on a period, or the end of a period (Table 17-10, R205). -/
def microcodeVerifyBody (k : Cmd) : M (Option Resp) := do
  let s ← get
  if k.w 1 >>> 32 ≠ 0#64 then return some (Resp.badArg 1)
  else if s.fisin.commitOp.isSome || s.fisin.verifyOp.isSome || s.fisin.verifyFix.isSome then return some (Resp.of .busy)
  else if k.w 1 = 0xFFFFFFFF#64 then
    modFisin (fun f => { f with verifyPeriod := 0, verifyDue := false })
    return some (Resp.good [])
  else
    modFisin (fun f => { f with verifyOp := some k.reply, verifyPeriod := if k.w 1 = 0#64 then f.verifyPeriod else (k.w 1).toNat })
    return none

/-- A periodic pass falls due: it waits for a commit to end (R406). -/
def verifyDueNow : M Unit := modFisin (fun f =>
  if f.verifyPeriod = 0 then f
  else if f.commitOp.isSome then { f with verifyDue := true } else { f with verifyRun := true })

/-- The banks of a map, bank A before bank B of each cluster, with the image that a rewrite gives each (R200). -/
def banksOf (s : State) (m : BitVec 24) : List (CluId × Bool × Option Image) :=
  (List.finRange 12).flatMap (fun c =>
    let x := (unit s.clusters c).running
    (if bankBit m c 0 then [(c, false, x)] else []) ++ (if bankBit m c 1 then [(c, true, x)] else []))

/-- A verify pass has checked the signatures and read every bank back (R200): a bank that differs is rewritten by the steps of Table 7-7, and
the pass ends with the last. -/
def verifyEnds (sigOk : Bool) (mismatch : BitVec 24) : M Unit := do
  let s ← get
  let f := s.fisin
  if (f.verifyOp.isSome || f.verifyRun) && f.verifyFix.isNone && (f.commitOp.isNone || decide (mismatch = 0#24)) then
    repairNext { sigOk := sigOk, mismatch := mismatch, fixed := 0#24, left := banksOf s mismatch }

/-! ### Parity errors (R193) -/

/-- TRAPINFO of a microcode machine check (Table 7-5). -/
def ucodeInfo (src : Nat) (bank : Bool) (addr : Nat) : Word := placed src 0 ||| bitAt bank 4 ||| placed addr 5

/-- The bank that core `c` reads: false A, true B (Table 7-1). A checked pair that a commit stops reads the one it had until the stop's window
has its verdict (R204). -/
def State.readsB (s : State) (c : CoreId) : Bool :=
  let q := s.pair (pairOf c)
  match ((if q.checked then q.bank else none).getD (unit s.clusters (clusterOf c)).bankuse).toNat with
  | 1 => false
  | 2 => true
  | _ => isOdd c

/-- The image in the bank that core `c` reads. -/
def State.imageFor (s : State) (c : CoreId) : Option Image :=
  let k := unit s.clusters (clusterOf c)
  if s.readsB c then k.bankB else k.bankA

/-- Whether core `c` fetches microwords: it takes instructions, and the trailing core of a checked pair does as its leading core does
(R183, R274). -/
def State.fetches (s : State) (c : CoreId) : Bool :=
  (s.core (if (s.pair (pairOf c)).checked then evenOf (pairOf c) else c)).takes

/-- Whether the stored microword that core `c` reads at an address fails its parity check (R193). -/
def State.parityBad (s : State) (c : CoreId) (addr : Nat) : Bool :=
  let k := unit s.clusters (clusterOf c)
  (if s.readsB c then k.parityB else k.parityA).contains addr

/-- Fisin's rewrite of a microword that failed parity at core `c` is done, and the core has fetched it again (R193): from its core's hold at
the micro-op boundary on, this is one row. -/
def parityRepair (c : CoreId) (clu : CluId) (bank : Bool) (addr : Nat) (ok : Bool) : M Unit := do
  if clusterOf c = clu ∧ (← get).readsB c = bank ∧ (← get).fetches c = true then
    modCluster clu (fun k => { k with parcnt := if k.parcnt = 0xFF#8 then k.parcnt else k.parcnt + 1#8 })
    let without (l : List Nat) : List Nat := l.filter (fun a => !decide (a = addr))
    if ok then
      modCluster clu (fun k => if bank then { k with parityB := without k.parityB } else { k with parityA := without k.parityA })
      fisinLog 2 clu.val 1 (ucodeInfo 0 bank addr) 0#64
    else
      modCluster clu (fun k => if bank then { k with bbad := true, parityB := addr :: without k.parityB }
        else { k with abad := true, parityA := addr :: without k.parityA })
      fisinLog 2 clu.val 2 (bitAt bank 0) 0#64
      let k := unit (← get).clusters clu
      if k.abad && k.bbad then
        -- a machine check with MCSRC 1 goes straight to retirement (R294)
        fisinLog 1 (pairOf c).val 5 (ucodeInfo 1 bank addr) 0#64
        beginRetire (pairOf c) 3#2 5#4
      else modCluster clu (fun k => { k with bankuse := if bank then 1#2 else 2#2 })

end Sys2Proof.Machine
end

