-- ==== Sys2Proof/Machine/Fabric.lean ====
section
/-! DEFINITION. The die bridge, the hub bridges and containment (09, R251–R256; 18, R415). Coherence events (R242, R243, R250). -/

namespace Sys2Proof.Machine

/-! ### Lane groups and hub bridges (R253, R254, R415) -/

/-- Lane group `g`. -/
def State.group (s : State) (g : GroupId) : BridgeLane := unit s.fabric.groups g
/-- Change a lane group. -/
def modGroup (g : GroupId) (f : BridgeLane → BridgeLane) : M Unit :=
  modFabric (fun x => { x with groups := setUnit x.groups g (f (unit x.groups g)) })
/-- The hub bridge of die `d`. -/
def State.hub (s : State) (d : DieId) : BridgeLane := unit s.fabric.hubs d
/-- Change a hub bridge. -/
def modHub (d : DieId) (f : BridgeLane → BridgeLane) : M Unit :=
  modFabric (fun x => { x with hubs := setUnit x.hubs d (f (unit x.hubs d)) })

/-- Lane groups in state Up. -/
def Fabric.groupsUp (f : Fabric) : Nat := (f.groups.toList.filter (fun g => decide (g.st = 0#2))).length
/-- A group that carries traffic or is replaying it: it has not left for Retrain (R255 and its example). -/
def Fabric.carries (f : Fabric) : Bool := f.groups.toList.any (fun g => decide (g.st = 0#2) || decide (g.st = 1#2))
/-- Whether a hub bridge is up: it is not lost (R415). -/
def Fabric.hubUp (f : Fabric) (d : DieId) : Bool := !decide ((unit f.hubs d).st = 3#2)

/-- FABSTAT (Table 9-8). -/
def Fabric.stat (f : Fabric) : Word :=
  placed f.groupsUp 0 ||| bitAt f.detour 3 ||| bitAt (f.hubUp 0) 4 ||| bitAt (f.hubUp 1) 5

/-- Retrains of a bridge in the current window of counting rule 3 (Table 9-8). -/
def BridgeLane.recent (l : BridgeLane) (s : State) : List Nat :=
  l.retrainTimes.filter (fun t => decide (s.now ≤ t + (s.fisin.rules.get 3).2))

/-- DBSTAT[g] (Table 9-8). -/
def BridgeLane.word (l : BridgeLane) (s : State) : Word :=
  placed l.st.toNat 0 ||| placed (min 255 (l.recent s).length) 8 ||| placed l.crc.toNat 16

/-- A CRC error is counted (Table 9-6), with its time while it lies in the window of counting rule 2. -/
def BridgeLane.crcError (l : BridgeLane) (s : State) : BridgeLane :=
  { l with crc := if l.crc = 0xFFFF#16 then l.crc else l.crc + 1#16
           crcTimes := l.crcTimes.filter (fun t => decide (s.now ≤ t + (s.fisin.rules.get 2).2)) ++ [s.now] }

/-- Whether 64 CRC errors lie within 1 ms (Table 9-6; counting rule 2). Errors in Replay count too, and are judged at Up. -/
def BridgeLane.crowded (l : BridgeLane) (s : State) : Bool :=
  let (th, win) := s.fisin.rules.get 2
  decide (th ≠ 0) && decide (th ≤ (l.crcTimes.filter (fun t => decide (s.now ≤ t + win))).length)

/-- A bridge enters Retrain. -/
def BridgeLane.retrain (l : BridgeLane) (s : State) : BridgeLane :=
  { l with st := 2#2, crcTimes := [], retrainTimes := l.recent s ++ [s.now] }

/-- Whether the retrain in progress, or just over, is the 4th within 1 min (Table 9-6; the threshold of rule 3): the list holds the retrains
of the minute before its last one. -/
def BridgeLane.tooMany (l : BridgeLane) (s : State) : Bool :=
  let th := (s.fisin.rules.get 3).1
  decide (th ≠ 0) && decide (th ≤ l.retrainTimes.length)

/-- The two dies' hub bridges decide what the loss of every lane group means (R255, R256). -/
def groupsGone : M Unit := do
  let f := (← get).fabric
  if f.carries then pure ()
  else if f.hubUp 0 && f.hubUp 1 then
    if !f.detour then
      modFabric (fun f => { f with detour := true })
      fireIrt 0x7D8
      fisinLog 4 0 3 (← get).fabric.stat 0#64
  else if f.hubUp 0 then
    enterFenced 3#2 1
    fisinLog 4 1 6 (if (← get).dev.mode = 5 then 0#64 else 3#64) (← get).fabric.stat
  else if f.hubUp 1 then
    enterFenced 3#2 0
    fisinLog 4 0 6 (if (← get).dev.mode = 5 then 0#64 else 3#64) (← get).fabric.stat
  else
    enterHalted
    fisinLog 4 0 6 0#64 (← get).fabric.stat

/-- A lane group leaves for Retrain (R253, R254). -/
def groupRetrain (g : GroupId) : M Unit := do
  let s ← get
  modGroup g (·.retrain s)
  let s ← get
  fisinLog 4 0 1 (BitVec.ofNat 64 g.val) ((s.group g).word s)
  groupsGone

/-- A CRC error on a lane group (R253). -/
def groupCrc (g : GroupId) : M Unit := do
  let s ← get
  let l := (s.group g).crcError s
  modGroup g (fun _ => l)
  if l.st = 0#2 then
    if l.crowded s then groupRetrain g else modGroup g (fun l => { l with st := 1#2 })

/-- A lane group's replay succeeds (Table 9-6): it is Up, and leaves again when 64 CRC errors have come within 1 ms meanwhile. -/
def groupReplayed (g : GroupId) : M Unit := do
  let s ← get
  let l := s.group g
  if l.st = 1#2 then
    if l.crowded s then groupRetrain g else modGroup g (fun l => { l with st := 0#2 })

/-- The replay budget is spent (R254). -/
def groupReplayOver (g : GroupId) : M Unit := do
  if ((← get).group g).st = 1#2 then groupRetrain g

/-- A lane group's retrain ends (Table 9-6). -/
def groupRetrained (g : GroupId) (ok : Bool) : M Unit := do
  let s ← get
  let l := s.group g
  if l.st = 2#2 then
    if ok && !l.tooMany s then modGroup g (fun l => { l with st := 0#2 })
    else
      modGroup g (fun l => { l with st := 3#2 })
      fisinLog 4 0 2 (BitVec.ofNat 64 g.val) 0#64
      groupsGone

/-- Every hub path flit is acknowledged after a group's return to Up (R255). -/
def detourLeaves : M Unit := do
  let f := (← get).fabric
  if f.detour && decide (0 < f.groupsUp) then
    modFabric (fun f => { f with detour := false })
    fireIrt 0x7D8
    fisinLog 4 0 3 (← get).fabric.stat 0#64

/-- A hub bridge is lost (R415, R256): Fenced with FENCECAUSE 1, or 3 when no lane group carries traffic; Halted when both
are lost. -/
def hubLost (d : DieId) : M Unit := do
  if ((← get).hub d).st ≠ 3#2 then
    modHub d (fun l => { l with st := 3#2 })
    let f := (← get).fabric
    let cause : Nat := if f.carries then 1 else 3
    if !f.hubUp 0 && !f.hubUp 1 then enterHalted else enterFenced (BitVec.ofNat 2 cause) d
    fisinLog 4 d.val 6 (if (← get).dev.mode = 5 then 0#64 else BitVec.ofNat 64 cause) (← get).fabric.stat

/-- An uncontained error (R415): confined to one die, Fenced with FENCECAUSE 2; else Halted. -/
def uncontained (d : Option DieId) : M Unit := do
  match d with
  | some d =>
    enterFenced 2#2 d
    fisinLog 4 d.val 6 (if (← get).dev.mode = 5 then 0#64 else 2#64) (← get).fabric.stat
  | none =>
    enterHalted
    fisinLog 4 0 6 0#64 (← get).fabric.stat

/-- A CRC error on a hub bridge (R415, Table 9-6). -/
def hubCrc (d : DieId) : M Unit := do
  let s ← get
  let l := (s.hub d).crcError s
  modHub d (fun _ => l)
  if l.st = 0#2 then
    modHub d (fun l => if l.crowded s then l.retrain s else { l with st := 1#2 })

/-- A hub bridge's replay succeeds. -/
def hubReplayed (d : DieId) : M Unit := do
  let s ← get
  modHub d (fun l => if l.st = 1#2 then (if l.crowded s then l.retrain s else { l with st := 0#2 }) else l)

/-- A hub bridge's replay budget is spent: it retrains, and is lost at its 4th retrain within 1 min (R415). -/
def hubReplayOver (d : DieId) : M Unit := do
  let s ← get
  if (s.hub d).st = 1#2 then
    modHub d (fun l => l.retrain s)
    let s ← get
    if (s.hub d).tooMany s then hubLost d

/-- A hub bridge's retrain succeeds (R415). -/
def hubRetrained (d : DieId) : M Unit := do
  let s ← get
  if (s.hub d).st = 2#2 then
    if (s.hub d).tooMany s then hubLost d else modHub d (fun l => { l with st := 0#2 })

/-- Fabric and die bridge training ends in Staging (R400). -/
def fabricReady (w e : Bool) (groups : BitVec 4) : M Unit := do
  let s ← get
  if s.dev.mode = 1 ∧ s.ready0 53 = false ∧ s.fisin.fail0.getLsbD 53 = false then
    if !w then
      setFail0 53 true
      enterHalted
    else
      setReady0 53 true
      if e then setReady0 54 true
      else
        for i in (List.range 12).map (· + 12) ++ (List.range 6).map (· + 30) ++ (List.range 6).map (· + 42) ++ [54] do setFail0 i true
        for ch in List.finRange 12 do
          if 6 ≤ ch.val then modChan ch (fun k => if k.st = 2 then { k with st := 4 } else k)
      for g in List.finRange 4 do
        if !groups.getLsbD g.val then modGroup g (fun l => { l with st := 3#2 })
      if groups ≠ 0#4 then setReady0 55 true
      else
        setFail0 55 true
        groupsGone

/-! ### Coherence events (R237, R242, R243, R250, R254) -/

/-- A slice's copy of a line is beyond correction: it becomes poison, SOURCE 2 with LOC 0x80 + die × 6 + slice and CLASS 4 (R34, R237). -/
def slicePoison (n : Nat) : M Unit := do
  let s ← get
  match s.llc.look n with
  | some l =>
    let v := poisonWord s (0x80 + (homeDie s n).val * 6 + n % 6) 4 2
    set { s with llc := s.llc.put n { l with dirty := true, data := poisonLine v } }
    fisinLog 4 (homeDie s n).val 4 v ((linePa n).setWidth 64)
  | none => pure ()

/-- A core's L2 copy of a line is beyond correction: it becomes poison (R34, R237): SOURCE 3, LOC the core, CLASS 4. -/
def arrayPoison (c : CoreId) (n : Nat) : M Unit := do
  let s ← get
  match (s.core c).l2.look n with
  | some l =>
    let v := poisonWord s c.val 4 3
    modCore c (fun k => { k with l2 := k.l2.put n { l with data := poisonLine v } })
    fisinLog 4 (dieOf c).val 4 v (BitVec.ofNat 64 (n * 64))
  | none => pure ()

/-- What an access of a load that has not retired finds beyond translation (R243–R245, Table 9-5): a copy in the L2, whose array word
may be beyond correction (R237); or, without CSW.QUIET, a fill, which is held, or discarded with its squashed load. A discarded
fill leaves the directory recording a copy. -/
def fillArrives (c : CoreId) (pa : Pa) (squashed arrayErr : Bool) : M Unit := do
  let s ← get
  let k := s.core c
  let n := lineOf pa
  match s.paKind pa with
  | .memory _ =>
    if s.memReady pa && !s.dieLost (homeDie s n) && !s.deferredFor n c then
      if k.l2Use && (k.l2.look n).isSome then
        if arrayErr then arrayPoison c n
      else if k.miss.any (fun m => decide (m.line = n)) then
        if squashed then
          modCore c (fun k => { k with miss := k.miss.filter (fun m => !decide (m.line = n)) })
          pmEvent c 0x11
      else if k.regs.ctx.csw.quiet then pmEvent c 0x15
      else if k.miss.length < 48 then
        if arrayErr then slicePoison n
        countMiss c n
        let (l, st) ← homeShare n c
        if squashed then
          pmEvent c 0x11
          pmEvent c 0x13
        else
          pmEvent c 0x12
          modCore c (fun k => { k with miss := k.miss ++ [{ line := n, st := st, data := l }] })
  | _ => pure ()

/-- A load that has not retired accesses memory: its translation may walk and fill the TLB and the walk cache and raises no fault (R230,
R244), then its data. Only a cacheable line is ever filled. `va` is none for an access whose translation hit. -/
def earlyLoad (c : CoreId) (pa : Pa) (va : Option Word) (squashed arrayErr : Bool) : M Unit := do
  match va with
  | none => fillArrives c pa squashed arrayErr
  | some v =>
    let x ← getCtx c
    match ← (translateReq c x { va := v, acc := .read, priv := x.csw.priv, key := x.csw.key, span := 0, ctxid := x.id, early := true } allowAll).run with
    | .ok t => if t.mt = .cacheable && decide (lineOf t.pa = lineOf pa) then fillArrives c pa squashed arrayErr
    | .error _ => pure ()

/-- A coherence request arrives at a line's home slice (R242): a read installs the line in E or S, an ownership request in M,
an eviction notice releases the copy. With `arrayErr` the array that is read, the slice's or for an eviction the core's L2, is beyond
correction there: the line becomes poison first (R237). -/
def sliceRequest (c : CoreId) (pa : Pa) (kind : ReqKind) (arrayErr : Bool) : M Unit := do
  let s ← get
  let n := lineOf pa
  match s.paKind pa with
  | .memory _ =>
    if s.memReady pa && !s.dieLost (homeDie s n) && !s.deferredFor n c then
      match kind with
      | .read =>
        if arrayErr then slicePoison n
        let _ ← readLine c n
      | .own =>
        if arrayErr then slicePoison n
        if (s.core c).l2Use then writeLine c n true id else pure ()
      | .evict =>
        if arrayErr then arrayPoison c n
        if (s.core c).l2Coherent then l2Evict c n
  | _ => pure ()

/-- A request forwarded by the directory arrives at a core's L2 (Table 9-3, R243). With `arrayErr` the line's array word is
beyond correction: it becomes poison first (R237). A line that the pair defers waits (R287). -/
def forwardArrives (c : CoreId) (pa : Pa) (kind : FwdKind) (arrayErr : Bool) : M Unit := do
  let s ← get
  let n := lineOf pa
  let deferred := (s.pair (pairOf c)).windows.any (fun w => decide (w.line = some n)) && !isOdd c
  if !deferred then
    if arrayErr && ((s.core c).l2Answer n).isSome then arrayPoison c n
    match kind with
    | .read =>
      match ← forwardRead n c with
      | some _ => modify (fun s => match s.dir.look n with
        | some (.owned o) => { s with dir := s.dir.put n (.shared (BitVec.ofNat 48 (2 ^ o.val))) }
        | _ => s)
      | none => pure ()
    | _ =>
      let old := ((← get).core c).l2Answer n
      let d ← forwardInval n c
      dirRelease n c
      -- an M line's data goes to the requester; with none modelled here it goes home
      match old, d with
      | some { st := .m, .. }, some l => llcPut n true l
      | _, _ => pure ()

/-- Write back and invalidate every L2 line of a list (R250). -/
def evictAll (c : CoreId) : List Nat → M Unit
  | [] => pure ()
  | n :: t => do l2Evict c n; evictAll c t

/-- The flush and disable engine finishes (R250). -/
def flushDone (c : CoreId) : M Unit := do
  let k := (← get).core c
  if k.fdbusy then
    evictAll c (k.l2.map (·.1))
    modCore c (fun k => { k with l2en := false, fdbusy := false, fddone := true, held := false, dirtyheld := 0 })

/-- The coherence timeout (R254): frozen while a group, or the hub bridge path, is in Replay. -/
def coherenceOver (c : CoreId) (pa : Pa) (viaHub : Bool) : M Unit := do
  let s ← get
  let d := homeDie s (lineOf pa)
  let frozen := if viaHub then s.fabric.hubs.toList.any (fun l => decide (l.st = 1#2)) else s.fabric.groups.toList.any (fun l => decide (l.st = 1#2))
  let crosses := match s.paKind pa with
    | .memory _ => decide (d ≠ dieOf c)
    | _ => false
  if (s.core c).takes && crosses && !frozen then
    let line := (linePa (lineOf pa)).setWidth 64
    machineCheck c (placed 5 0 ||| placed d.val 4 ||| bitAt viaHub 5) line
    fisinLog 4 d.val 5 (BitVec.ofNat 64 c.val) line

end Sys2Proof.Machine
end

