-- ==== Sys2Proof/Machine/Dcs.lean ====
section
/-! DEFINITION. Device Control Space: what a load of a register returns and what a store to it does (00 R9–R13, and the register tables of the other chapters). -/

namespace Sys2Proof.Machine

/-! ### Addresses (Table 0-7) -/

/-- The index and offset of `off` within an array of `n` blocks of `size` bytes from `lo`. -/
def blockOf (off lo size n : Nat) : Option (Nat × Nat) :=
  if lo ≤ off ∧ off < lo + size * n then some ((off - lo) / size, (off - lo) % size) else none

/-- DCS offset of register `r` of pair `p`'s external block (Table 11-13). -/
def pairReg (p : PairId) (r : Nat) : Nat := 0x8000000 + p.val * 0x20000 + r

/-! ### The identity block (Tables 0-8, 7-10, 17-5, R401) -/

/-- CLUSTATS[c] (Table 7-8). -/
def Cluster.stats (k : Cluster) : Word :=
  placed k.bankuse.toNat 0 ||| bitAt (decide (k.bankuse ≠ 0#2)) 2 ||| placed k.phase.toNat 3 ||| bitAt k.abad 6 |||
  bitAt k.bbad 7 ||| placed k.parcnt.toNat 8 ||| placed k.pfv 16

/-- CLUVER[c] (Table 7-9). -/
def Cluster.ver (k : Cluster) : Word :=
  match k.running with
  | some m => m.stdver.setWidth 64 ||| placed m.xver.toNat 32
  | none => 0#64

/-- Eight bytes of LOGICALMAP from logical core 8w on (R401). -/
def Fisin.lmapWord (f : Fisin) (w : Nat) : Word :=
  BitVec.ofNat 64 (ofBytes ((List.range 8).map (fun i => f.lmap.toList.getD (8 * w + i) 0#8)))

/-- A load in the identity block, which is always ready (R13). -/
def identLoad (s : State) (o : Nat) : Word :=
  let f := s.fisin
  if o = 0x000 then 0x00000B0048304C44#64
  else if o = 0x008 then s.dev.word
  else if o = 0x100 then f.word0
  else if o = 0x108 then f.rdy1
  else if o = 0x110 then f.fail0
  else if o = 0x118 then f.fail1
  else if 0x200 ≤ o ∧ o < 0x230 then f.lmapWord ((o - 0x200) / 8)
  else if o = 0x230 then placed f.lcount 0 ||| bitAt f.lvalid 8
  else match blockOf o 0x400 8 12, blockOf o 0x480 8 12 with
    | some (c, _), _ => (s.clusters.toList.map Cluster.stats).getD c 0#64
    | _, some (c, _) => (s.clusters.toList.map Cluster.ver).getD c 0#64
    | none, none => 0#64

/-! ### Mailbox channels (R403–R405) -/

/-- Whether an access of core `c` reaches a channel's registers (R404). -/
def mboxReaches (s : State) (c : CoreId) (b : Mbox) : Bool :=
  let r := s.regs c
  let priv := r.ctx.csw.priv
  decide (fieldN b.owner 0 2 ≤ priv.toNat) &&
  (!b.owner.getLsbD 2 || decide (priv = 3#2) || (r.stage2 priv && decide (fieldN r.s2root 0 16 = fieldN b.owner 16 16)))

/-- STATUS (Table 17-8). -/
def Mbox.status (b : Mbox) : Word := b.result.setWidth 64 ||| bitAt b.active 8 ||| bitAt b.done 9

/-- CMD[0] as it reads: its reserved bits read zero (R11, R403). The channel keeps them as they were stored, for BAD_COMMAND (R405). -/
def Mbox.cmd0 (b : Mbox) : Word := b.cmd.get 0 &&& 0x00000000FF1FFFFF#64

/-- The privilege of core `c`. -/
def State.ctxPriv (s : State) (c : CoreId) : BitVec 2 := (s.ctx c).csw.priv

/-- A load of a channel register. -/
def mboxLoad (s : State) (c : CoreId) (i : Fin 64) (o : Nat) : Word :=
  let b := s.mbox i
  if o = 0x90 then (if mboxReaches s c b then b.owner else 0#64)
  else if !mboxReaches s c b then 0#64
  else if o = 0 then b.cmd0
  else if o < 0x40 then b.cmd.toList.getD (o / 8) 0#64
  else if o < 0x80 then b.rsp.toList.getD ((o - 0x40) / 8) 0#64
  else if o = 0x88 then b.status
  else 0#64

/-- A store to a channel register: OWNER only at Monitor and not while ACTIVE; CMD and DOORBELL not while ACTIVE (R404, R405). -/
def mboxStore (c : CoreId) (i : Fin 64) (o : Nat) (v : Word) : M Unit := do
  let s ← get
  let b := s.mbox i
  if o = 0x90 then
    if s.ctxPriv c = 3#2 ∧ b.active = false then modMbox i (fun b => { b with owner := v &&& 0xFFFF0007#64 })
  else if mboxReaches s c b then
    if o < 0x40 then
      if !b.active then modMbox i (fun b => { b with cmd := Vector.ofFn (fun k => if k.val = o / 8 then v else b.cmd.get k) })
    else if o = 0x80 then
      if !b.active && v.getLsbD 0 then
        modMbox i (fun b => { b with active := true, irqen := v.getLsbD 1 })
        modFisin (fun f => { f with bells := f.bells ++ [i] })
    else if o = 0x88 then modMbox i (fun b => { b with done := b.done && !v.getLsbD 9 })

/-! ### Journal sequencer (Table 14-8) -/

/-- TSTAT (Table 14-8). -/
def Journal.tstat (j : Journal) : Word := j.src.setWidth 64 ||| bitAt j.lock 2 ||| placed j.offset.toNat 16

/-- A load in the journal block. -/
def jrnlLoad (s : State) (o : Nat) : Word :=
  let j := s.jrnl
  match blockOf o 0x1000 32 255 with
  | some (r, k) =>
    let x := j.ring r
    if k = 0 then x.base else if k = 8 then x.log2.setWidth 64 else if k = 0x10 then bitAt x.en 0 ||| bitAt x.trapfull 1
    else x.drained.setWidth 64
  | none =>
    if o = 0x00 then placed j.jlen 0 ||| placed j.role 24
    else if o = 0x08 then s.jseqstat
    else if o = 0x10 then j.durable.setWidth 64
    else if o = 0x18 then j.closed.setWidth 64
    else if o = 0x20 then j.jcompl.setWidth 64
    else if o = 0x28 then j.time
    else if o = 0x30 then j.tstat
    else if o = 0x38 then j.prov.setWidth 64
    else if o = 0x40 then j.restamp.setWidth 64
    else if o = 0x48 then j.tgtbase
    else if o = 0x50 then BitVec.ofNat 64 j.tgtsize
    else if o = 0x58 then j.tgtdb
    else if o = 0x60 then j.tgthead
    else if o = 0x68 then j.tgtrel
    else if o = 0x70 then BitVec.ofNat 64 j.tgttmo
    else if o = 0x78 then j.tgtrid.setWidth 64
    else 0#64

/-- SEALNOW (R351): ignored while no epoch is open; an attached worker asks the manager with SEAL. -/
def sealNow : M Unit := do
  let s ← get
  if s.ready0 50 && s.jrnl.opened.isSome then
    if s.jrnl.own then
      sealOpen
      journalRun
    else vsend 0#5 2 6 0 []

/-- A store to a ring's registers, only while EN = 0 (R357). -/
def ringStore (r k : Nat) (v : Word) : M Unit := modJ (fun j =>
  let x := j.ring r
  if x.en then j
  else if k = 0 then j.setRing r { x with base := v &&& 0x000FFFFFFFFFF000#64 }
  else if k = 8 then j.setRing r { x with log2 := v.setWidth 5 }
  else if k = 0x10 then j.setRing r { x with en := v.getLsbD 0, trapfull := v.getLsbD 1 }
  else j)

/-- A store in the journal block. -/
def jrnlStore (o : Nat) (v : Word) : M Unit := do
  match blockOf o 0x1000 32 255 with
  | some (r, k) => ringStore r k v
  | none =>
    if o = 0x20 then jcomplWrite (v.setWidth 48)
    else if o = 0x68 then
      modJ (fun j => { j with tgtrel := v })
      journalRun
    else if o = 0x80 then if v.getLsbD 0 then sealNow

/-! ### Health, ageing and power (Table 18-7) -/

/-- CLKSTAT[c]. -/
def Clock.stat (k : Clock) : Word :=
  placed k.freq 0 ||| placed k.plancap 8 ||| placed k.thermcap 16 ||| placed (k.mv % 1024) 32 ||| bitAt k.busy 48

/-- AGEMON[i]. -/
def AgeMon.word (m : AgeMon) : Word :=
  placed m.slack.toNat 0 ||| placed m.floor.toNat 16 ||| placed m.drift.toNat 32 ||| placed m.reads.toNat 48

/-- A load in the power block. -/
def powerLoad (s : State) (o : Nat) : Word :=
  let p := s.power
  if o = 0x00 then
    placed (p.tj.get 0).toNat 0 ||| placed (p.tj.get 1).toNat 8 ||| bitAt (p.hot.get 0 || p.hot.get 1) 16 |||
    bitAt (p.pfail.get 0) 17 ||| bitAt (p.pfail.get 1) 18
  else if o = 0x08 then BitVec.ofNat 64 (p.hours % 2 ^ 32)
  else if o = 0x10 then p.wake0
  else if o = 0x18 then p.wakeReason.setWidth 64 ||| bitAt p.wakeValid 8
  else match blockOf o 0x1000 16 12, blockOf o 0x2000 8 12, blockOf o 0x3000 8 64 with
    | some (c, k), _, _ =>
      let x := p.clocks.toList.getD c Reset.clock
      if k = 0 then BitVec.ofNat 64 x.req else x.stat
    | _, some (c, _), _ => (p.clocks.toList.getD c Reset.clock).margin
    | _, _, some (i, _) => (p.mons.toList.map AgeMon.word).getD i 0#64
    | none, none, none => 0#64

/-- A store in the power block: CLKCTL requests a frequency (R418). -/
def powerStore (o : Nat) (v : Word) : M Unit :=
  match blockOf o 0x1000 16 12 with
  | some (c, 0) => if h : c < 12 then modClock ⟨c, h⟩ (fun k => k.request c (fieldN v 0 5)) else pure ()
  | _ => pure ()

/-! ### Memory channels (Tables 12-5, 13-7), readable in every state (R312) -/

/-- CHCFG. -/
def Channel.cfg (k : Channel) : Word :=
  placed k.rate.toNat 0 ||| bitAt k.x8 3 ||| placed (k.ranks / 2) 4 ||| placed (k.gib % 1024) 6

/-- CHMAP. -/
def Channel.map (k : Channel) : Word :=
  k.mode.setWidth 64 ||| placed k.pos 4 ||| placed k.n 8 ||| placed (k.base % 8192) 16 ||| placed (k.cap % 1024) 32

/-- ECNT. -/
def Channel.ecnt (k : Channel) : Word :=
  placed k.corr.toNat 0 ||| placed k.rebuilt.toNat 24 ||| placed k.poisoned.toNat 40 ||| placed k.recalled.toNat 56

/-- SWCTL. -/
def Channel.swctl (k : Channel) : Word :=
  bitAt k.swen 0 ||| placed k.boost 1 ||| placed k.lapmin 8 ||| placed (k.quota % 2 ^ 20) 32

/-- A load in a channel's block. -/
def chanLoad (s : State) (ch : ChanId) (o : Nat) : Word :=
  let k := s.chan ch
  let ag := s.integ.agatemax
  if o = 0x0000 then k.cfg
  else if o = 0x0008 then k.stat ag
  else if o = 0x0010 then BitVec.ofNat 64 k.wm
  else if o = 0x0018 then k.retryWord
  else if o = 0x0020 then placed k.rdq.length 0 ||| placed k.wrq.length 8
  else if o = 0x0028 then k.map
  else if o = 0x1000 then placed ag 0 ||| placed s.integ.defs 4
  else if o = 0x1008 then k.istat s.integ.conv.isSome
  else if o = 0x1010 then k.ecnt
  else if o = 0x1018 then bitAt k.pfirq 0 ||| bitAt k.ieirq 1
  else if o = 0x1020 then k.injctl
  else if o = 0x1028 then k.injaddr
  else if o = 0x1030 then BitVec.ofNat 64 k.agwm
  else if o = 0x1100 then k.swctl
  else if o = 0x1108 then BitVec.ofNat 64 k.swpos
  else if o = 0x1110 then k.lapms.setWidth 64 ||| placed k.laps.toNat 40
  else if o = 0x1118 then bitAt k.behind 0
  else if o = 0x1300 then k.remapst
  else if o = 0x1400 then k.eflhead.setWidth 64 ||| bitAt k.eflovf 8
  else if o = 0x1408 then k.efltail.setWidth 64
  else match blockOf o 0x1200 8 32, blockOf o 0x1500 16 64, blockOf o 0x1A00 8 64 with
    | some (e, _), _, _ => (k.remap.toList.map RemapEntry.word).getD e 0#64
    | _, some (i, b), _ =>
      let x := k.efl.toList.getD i { lines := 0, pa := 0#64, poison := 0#64 }
      if b = 0 then placed (x.lines % 256) 0 ||| x.pa else x.poison
    | _, _, some (r, _) => (s.integ.regions.toList.map Region.word).getD r 0#64
    | none, none, none => 0#64

/-- What a load of an RC register clears in a channel's block (Table 0-11). -/
def chanClear (ch : ChanId) (o : Nat) : M Unit := modChan ch (fun k =>
  if o = 0x0018 then { k with capar := 0#16, wcrc := 0#16 }
  else if o = 0x1010 then { k with corr := 0#24, rebuilt := 0#16, poisoned := 0#16, recalled := 0#8 }
  else k)

/-- A store in a channel's block. -/
def chanStore (ch : ChanId) (o : Nat) (v : Word) : M Unit := modChan ch (fun k =>
  if o = 0x1018 then { k with pfirq := v.getLsbD 0, ieirq := v.getLsbD 1 }
  else if o = 0x1020 then { k with injctl := v &&& 0xF7FFF#64 }
  else if o = 0x1028 then { k with injaddr := v &&& 0xFFFFFFFFC0#64 }
  else if o = 0x1400 then { k with eflovf := k.eflovf && !v.getLsbD 8 }
  else if o = 0x1408 then { k with efltail := v.setWidth 6 }
  else k)

/-! ### LLC, fabric and die bridge (Tables 9-8, 9-10) -/

/-- A load in a die's fabric block. -/
def fabricLoad (s : State) (d : DieId) (o : Nat) : Word :=
  if o = 0 then bitAt (unit s.fabric.llcen d) 0
  else if o = 8 then s.fabric.stat
  else match blockOf o 0x10 8 4 with
    | some (g, _) => (s.fabric.groups.toList.map (fun l => l.word s)).getD g 0#64
    | none => 0#64

/-- A store in a die's fabric block: LLCCTL.EN, only in Staging (R251). What the slices hold goes to memory first. -/
def fabricStore (d : DieId) (o : Nat) (v : Word) : M Unit := do
  let s ← get
  if o = 0 ∧ s.dev.mode = 1 then
    if !v.getLsbD 0 then
      let mine (n : Nat) : Bool := decide (homeDie s n = d)
      for (n, l) in s.llc do
        if mine n && l.dirty then dramWrite n l.data
      modify (fun s => { s with llc := s.llc.filter (fun e => !mine e.1) })
    modFabric (fun f => { f with llcen := setUnit f.llcen d (v.getLsbD 0) })

/-! ### Root complex and IOMMU (Table 15-6) -/

/-- PORTSTAT[p]. -/
def RootPort.stat (q : RootPort) : Word :=
  bitAt q.present 0 ||| bitAt q.l0 1 ||| placed q.rate.toNat 2 ||| placed q.width.toNat 5

/-- IOINV as it reads. -/
def Pcie.inv (p : Pcie) : Word := p.invRid.setWidth 64 ||| bitAt p.invAll 16 ||| bitAt p.invBusy 18

/-- A load in the PCIe block. -/
def pcieLoad (s : State) (o : Nat) : Word :=
  let p := s.pcie
  if o = 0 then p.bifurc.setWidth 64
  else if o = 0x1000 then p.ioctxbase.setWidth 64
  else if o = 0x1008 then p.inv
  else if o = 0x1010 then p.fltbase.setWidth 64
  else if o = 0x1018 then p.fltsize.setWidth 64
  else if o = 0x1020 then placed p.flthead.toNat 4 ||| bitAt p.fltovf 31
  else if o = 0x1028 then placed p.flttail.toNat 4
  else match blockOf o 0x100 16 16 with
    | some (i, b) =>
      let q := p.ports.toList.getD i Reset.rootPort
      if b = 0 then q.stat else q.cto.setWidth 64
    | none => 0#64

/-- A store in the PCIe block. IOINV.GO starts a removal, which is BUSY until it is done (R368). -/
def pcieStore (o : Nat) (v : Word) : M Unit :=
  let page : Pa := toPa (v &&& 0x000FFFFFFFFFF000#64)
  modPcie (fun p =>
    if o = 0x1000 then { p with ioctxbase := page }
    else if o = 0x1008 then { p with invRid := v.setWidth 16, invAll := v.getLsbD 16, invBusy := p.invBusy || v.getLsbD 17 }
    else if o = 0x1010 then { p with fltbase := page }
    else if o = 0x1018 then { p with fltsize := v.setWidth 5 }
    else if o = 0x1020 then { p with fltovf := p.fltovf && !v.getLsbD 31 }
    else if o = 0x1028 then { p with flttail := v.extractLsb' 4 16 }
    else match blockOf o 0x100 16 16 with
      | some (i, b) => if b = 8 then { p with ports := modUnit p.ports i (fun q => { q with cto := v.setWidth 16 }) } else p
      | none => p)

/-! ### Volley (Table 16-6) -/

/-- A load in the Volley block. -/
def volleyLoad (s : State) (o : Nat) : Word :=
  let v := s.volley
  if o = 0 then s.vcfg
  else if o = 8 then placed v.absentMs 0 ||| placed v.msgUs 16
  else if o = 0x10 then v.vdom
  else if o = 0x1000 then v.sqbase.setWidth 64
  else if o = 0x1008 then v.sqsize.setWidth 64
  else if o = 0x1010 then placed v.sqhead.toNat 5
  else if o = 0x1018 then placed v.sqtail.toNat 5
  else match blockOf o 0x100 16 4, blockOf o 0x2000 32 16 with
    | some (q, b), _ =>
      let p := v.ports.toList.getD q Reset.vport
      if b = 0 then p.word else bitAt p.en 0
    | _, some (w, b) =>
      let x := v.wins.toList.getD w { base := 0#52, frames := 0, en := false, srcmask := 0#17, refused := 0#32 }
      if b = 0 then x.base.setWidth 64 else if b = 8 then BitVec.ofNat 64 x.frames
      else if b = 0x10 then bitAt x.en 0 ||| placed x.srcmask.toNat 16 else x.refused.setWidth 64
    | none, none => 0#64

/-- A landing window changed. -/
def modWin (w : Nat) (f : LandWin → LandWin) : M Unit := modVolley (fun v => { v with wins := modUnit v.wins w f })

/-- A store in the Volley block: VPORTCTL.RETRAIN starts an announced retrain of an Up port (Table 16-2). -/
def volleyStore (o : Nat) (v : Word) : M Unit := do
  if o = 0x1000 then modVolley (fun x => { x with sqbase := toPa (v &&& 0x000FFFFFFFFFF000#64) })
  else if o = 0x1008 then modVolley (fun x => { x with sqsize := v.setWidth 5 })
  else if o = 0x1018 then modVolley (fun x => { x with sqtail := v.extractLsb' 5 15 })
  else match blockOf o 0x100 16 4, blockOf o 0x2000 32 16 with
    | some (q, b), _ =>
      if h : q < 4 then
        if b = 8 ∧ v.getLsbD 1 = true ∧ ((← get).vport ⟨q, h⟩).st = 2 then portRetrain ⟨q, h⟩
    | _, some (w, b) =>
      if b = 0 then modWin w (fun x => if x.en then x else { x with base := toPa (v &&& 0x000FFFFFFFFFF000#64) })
      else if b = 8 then modWin w (fun x => if x.en then x else { x with frames := fieldN v 0 28 })
      else if b = 0x10 then modWin w (fun x => { x with en := v.getLsbD 0, srcmask := v.extractLsb' 16 17 })
    | none, none => pure ()

/-! ### Pairs (Tables 11-11, 11-13) and the debugger (R298–R301) -/

/-- DBGCTL as it reads. -/
def Pair.dbgctl (q : Pair) : Word := bitAt q.dbghalt 0 ||| bitAt q.holdmis 2 ||| bitAt q.dbgreplay 3 ||| bitAt q.attached 4

/-- The word that DBGSEL selects: a system register, or a register field of the inspected (even) core (R300). -/
def State.dbgWord (s : State) (p : PairId) : TW :=
  let c := evenOf p
  let sel := (s.pair p).dbgsel
  let n := sel.toNat % 4096
  if sel.getLsbD 12 then (if (sysPriv n).isSome then { tag := s.sysTag c n, val := s.sysValue c n } else TW.raw 0#64)
  else (s.regs c).read (BitVec.ofNat 5 n)

/-- A load in a pair's external block. -/
def pairLoad (s : State) (p : PairId) (o : Nat) : Word :=
  let q := s.pair p
  if o = 0x00 then s.pairStat p
  else if o = 0x08 then q.rettgt.setWidth 64
  else if o = 0x10 then q.start0
  else if o = 0x18 then q.start1
  else if o = 0x20 then q.rescue
  else if o = 0x40 then q.misinfo
  else if o = 0x48 then q.siglead
  else if o = 0x50 then q.sigtrail
  else if o = 0x58 then (s.regs (evenOf p)).posN.setWidth 64
  else if o = 0x100 then q.dbgctl
  else if o = 0x108 then bitAt q.halted 0 ||| bitAt q.heldmis 1 ||| bitAt q.replaystop 2
  else if o = 0x110 then q.dbgsel.setWidth 64
  else if o = 0x118 then (s.dbgWord p).val
  else if o = 0x120 then (q.dbgtag.getD (s.dbgWord p).tag).setWidth 64
  else if o = 0x128 then q.dbgtkind
  else if o = 0x130 then q.dbgtval
  else if o = 0x138 then q.dbglval
  else 0#64

/-- A debugger write to the selected register (R300): the inspected core takes it at once, and it enters the delivery log. With no window
unreleased the trailing core stands at the same position and applies it at once, so that no entry is kept (R289). -/
def debugData (p : PairId) (v : Word) : M Unit := do
  let s ← get
  let q := s.pair p
  let c := evenOf p
  let w : TW := { tag := q.dbgtag.getD (s.dbgWord p).tag, val := v }
  debugApply c q.dbgsel w
  modPair p (fun q => { q with dbgtag := none })
  if !q.windows.isEmpty then logDelivery c (.debugger q.dbgsel w)

/-- A debugger write waits while the pair's delivery log has no room for it (R288, R290). -/
def State.debugFull (s : State) (off : Nat) : Bool :=
  let q := s.pair ⟨(off - 0x8000000) / 0x20000 % 24, Nat.mod_lt _ (by decide)⟩
  decide (0x8000000 ≤ off) && decide (off < 0x8300000) && decide (off % 0x20000 = 0x118) &&
  q.checked && q.attached && !q.windows.isEmpty && decide (dlogRoom ≤ q.dlog.length)

/-- DBGCTL.HALT := 1 on a pair that is not yet halting, or 0 (R300). -/
def debugHaltWrite (p : PairId) (halt : Bool) : M Unit := do
  let q := (← get).pair p
  if halt && !q.dbghalt then haltPair p
  else if !halt && q.dbghalt then resumePair p

/-- DBGCTL.STEP (R300): one position executes, then the pair halts. -/
def debugStepWrite (p : PairId) : M Unit := do
  resumePair p
  modPair p (fun q => { q with stepping := true, dbghalt := false })

/-- HOLDMIS and REPLAY (R301): clearing HOLDMIS at a held mismatch lets the rally go on. -/
def debugModes (p : PairId) (hold replay : Bool) : M Unit := do
  modPair p (fun q => { q with holdmis := hold, dbgreplay := replay })
  if !hold then leaveHold p

/-- A store to DBGCTL of an attached pair. -/
def dbgctlStore (p : PairId) (v : Word) : M Unit := do
  debugModes p (v.getLsbD 2) (v.getLsbD 3)
  if v.getLsbD 1 then debugStepWrite p else debugHaltWrite p (v.getLsbD 0)

/-- A level-0 doorbell (R299): vectors 0x80–0x8F only. -/
def doorbell0 (c : CoreId) (v : Word) : M Unit :=
  let n := fieldN v 0 8
  if 0x80 ≤ n ∧ n ≤ 0x8F ∧ v >>> 8 = 0#64 then raiseVector c n 0#4 else pure ()

/-- A store in a pair's external block. -/
def pairStore (p : PairId) (o : Nat) (v : Word) : M Unit := do
  let q := (← get).pair p
  if o = 0x08 then
    modPair p (fun q => { q with rettgt := v.setWidth 6 })
    if v.getLsbD 8 then startCore p false q.start0
    if v.getLsbD 9 then startCore p true q.start1
  else if o = 0x10 then modPair p (fun q => { q with start0 := v &&& 0x00FFFFFFFFFFFFFC#64 })
  else if o = 0x18 then modPair p (fun q => { q with start1 := v &&& 0x00FFFFFFFFFFFFFC#64 })
  else if o = 0x20 then modPair p (fun q => { q with rescue := v &&& 0x000FFFFFFFFE0001#64 })
  else if o = 0x28 then doorbell0 (evenOf p) v
  else if o = 0x30 then if !q.checked then doorbell0 (oddOf p) v
  else if q.attached then
    if o = 0x100 then dbgctlStore p v
    else if o = 0x110 then
      modPair p (fun q => { q with dbgsel := v.setWidth 13, dbgtag := none })
    else if o = 0x118 then debugData p v
    else if o = 0x120 then modPair p (fun q => { q with dbgtag := some (v.setWidth 8) })

/-! ### The whole window (Table 0-7, R13, R402) -/

/-- A pair whose ready bit retirement cleared: its block was ready, and PAIRSTAT shows the retirement (R294). -/
def State.pairLived (s : State) (p : Nat) : Bool :=
  (s.cores.toList.drop (2 * p)).take 2 |>.any (fun k => decide (k.run = .retiring) || decide (k.run = .retired))

/-- Whether the block that holds an offset is ready (R13, Table 17-5). Channel blocks and VPORTSTAT stay readable (R312, R380); a channel
block takes stores while its CH bit is set, and VPORTCTL[q] is there while VPORT[q] is. READYMAP has no bit for the other registers of the
Volley block: they are there with the hub units, whose bit 49 comes up with them in Table 17-6 (DESIGN CHOICE, log entry 78). -/
def State.dcsReady (s : State) (off : Nat) (write : Bool) : Bool :=
  if off < 0x100000 then true
  else if off < 0x200000 then s.ready0 48
  else if off < 0x300000 then s.ready0 51
  else if off < 0x400000 then s.ready0 50
  else if off < 0x500000 then s.ready0 49
  else if 0x1000000 ≤ off ∧ off < 0x10C0000 then !write || s.ready0 (36 + (off - 0x1000000) / 0x10000)
  else if 0x2000000 ≤ off ∧ off < 0x2100000 then s.ready0 53
  else if 0x2100000 ≤ off ∧ off < 0x2200000 then s.ready0 54
  else if 0x3000000 ≤ off ∧ off < 0x3100000 then s.ready0 52
  else if 0x4000100 ≤ off ∧ off < 0x4000140 then decide (off % 16 = 0) || s.ready1 (16 + (off - 0x4000100) / 16)
  else if 0x4000000 ≤ off ∧ off < 0x4100000 then s.ready0 49
  else match blockOf off 0x8000000 0x20000 24 with
    | some (p, _) => s.ready0 p || s.pairLived p
    | none => true

/-- What a load of the register at an 8-byte-aligned offset returns to core `c`. -/
def State.dcsValue (s : State) (c : CoreId) (off : Nat) : Word :=
  if !s.dcsReady off false then 0#64
  else if off < 0x100000 then identLoad s off
  else if off < 0x104000 then mboxLoad s c ⟨(off - 0x100000) / 0x100 % 64, Nat.mod_lt _ (by decide)⟩ (off % 0x100)
  else if 0x200000 ≤ off ∧ off < 0x204000 then irtRead (s.pcie.entry ((off - 0x200000) / 8))
  else if 0x300000 ≤ off ∧ off < 0x400000 then jrnlLoad s (off - 0x300000)
  else if 0x400000 ≤ off ∧ off < 0x500000 then powerLoad s (off - 0x400000)
  else if 0x1000000 ≤ off ∧ off < 0x10C0000 then
    chanLoad s ⟨(off - 0x1000000) / 0x10000 % 12, Nat.mod_lt _ (by decide)⟩ (off % 0x10000)
  else if 0x2000000 ≤ off ∧ off < 0x2200000 then fabricLoad s ⟨off / 0x100000 % 2, Nat.mod_lt _ (by decide)⟩ (off % 0x100000)
  else if 0x3000000 ≤ off ∧ off < 0x3100000 then pcieLoad s (off - 0x3000000)
  else if 0x4000000 ≤ off ∧ off < 0x4100000 then volleyLoad s (off - 0x4000000)
  else if 0x8000000 ≤ off ∧ off < 0x8300000 then
    pairLoad s ⟨(off - 0x8000000) / 0x20000 % 24, Nat.mod_lt _ (by decide)⟩ (off % 0x20000)
  else 0#64

/-- A DCS load: the value, and the fields that a read clears (R11, Table 0-11). -/
def dcsLoad (c : CoreId) (off : Nat) : M Word := do
  let s ← get
  let v := s.dcsValue c off
  if 0x1000000 ≤ off ∧ off < 0x10C0000 then
    chanClear ⟨(off - 0x1000000) / 0x10000 % 12, Nat.mod_lt _ (by decide)⟩ (off % 0x10000)
  else if 0x4000000 ≤ off ∧ off < 0x4100000 ∧ s.dcsReady off false = true then
    match blockOf (off - 0x4000000) 0x2000 32 16 with
    | some (w, 0x18) => modWin w (fun x => { x with refused := 0#32 })
    | _ => pure ()
  return v

/-- Write an IRT entry: PEND is W1C, ERR read-only (Table 15-6). -/
def irtStore (i : Nat) (v : Word) : M Unit := do
  let old := (← get).pcie.entry i
  setIrt i ((v &&& 0x0000FFFF03FFFF07#64) ||| (old &&& 0x8#64 &&& ~~~v))

/-- A DCS store of core `c` (R11–R13). -/
def dcsStore (c : CoreId) (off : Nat) (v : Word) : M Unit := do
  let s ← get
  if !s.dcsReady off true then pure ()
  else if off < 0x100000 then pure ()
  else if off < 0x104000 then mboxStore c ⟨(off - 0x100000) / 0x100 % 64, Nat.mod_lt _ (by decide)⟩ (off % 0x100) v
  else if 0x200000 ≤ off ∧ off < 0x204000 then irtStore ((off - 0x200000) / 8) v
  else if 0x300000 ≤ off ∧ off < 0x400000 then jrnlStore (off - 0x300000) v
  else if 0x400000 ≤ off ∧ off < 0x500000 then powerStore (off - 0x400000) v
  else if 0x1000000 ≤ off ∧ off < 0x10C0000 then
    chanStore ⟨(off - 0x1000000) / 0x10000 % 12, Nat.mod_lt _ (by decide)⟩ (off % 0x10000) v
  else if 0x2000000 ≤ off ∧ off < 0x2200000 then fabricStore ⟨off / 0x100000 % 2, Nat.mod_lt _ (by decide)⟩ (off % 0x100000) v
  else if 0x3000000 ≤ off ∧ off < 0x3100000 then pcieStore (off - 0x3000000) v
  else if 0x4000000 ≤ off ∧ off < 0x4100000 then volleyStore (off - 0x4000000) v
  else if 0x8000000 ≤ off ∧ off < 0x8300000 then
    pairStore ⟨(off - 0x8000000) / 0x20000 % 24, Nat.mod_lt _ (by decide)⟩ (off % 0x20000) v

end Sys2Proof.Machine
end

