-- ==== Sys2Proof/Machine/Service.lean ====
section
/-! DEFINITION. The remaining mailbox commands, the table of all commands, and commands carried between nodes (17 R407, R408; 16 R387). -/

namespace Sys2Proof.Machine

/-- Pair 0 leaves checked operation (R273): the even core continues with its retired stores performed; the odd core is reset
and stays stopped. -/
def leaveChecked (p : PairId) : M Unit := do
  let q ← getPair p
  if q.checked then
    let c := evenOf p
    modPair p (fun q => { q with
      checked := false, windows := [], dlog := [], replay := [], mismatched := none, retryHold := false, cleared := none
      winend := false, stopDue := none, heldmis := false, replaystop := false })
    performAll c (q.windows.map (·.gate)).flatten
    modCore c (fun k => if k.run = .rallying then { k with run := .running } else k)
    modCore (oddOf p) (fun k => k.restarted .stopped 0#64)

/-- SVNLOCK (R395): the fuse SVN of a kind rises to that of the running image. -/
def Fisin.lockSvn (f : Fisin) : Fisin :=
  if f.param 7 0 = 1 then
    let at_ (kind : Nat) (slot : Bool) : Nat := f.flashN ((slotOf kind slot).1 + 0xC) 4
    let top (i v : Nat) : Nat := max (f.svn.toList.getD i 0) v
    { f with svn := #v[top 0 f.fwsvn, top 1 (if f.bootmap then at_ 2 f.bootslot else 0), top 2 f.cfgsvn] }
  else f

/-- DECLARE_OPERATIONAL (R408). -/
def declareOperationalBody (_ : Cmd) : M (Option Resp) := do
  let s ← get
  if !s.fisin.settled then return some (Resp.of .notReady)
  else
    if !s.fisin.paircfg.testBit 0 then leaveChecked 0
    modJ (fun j => { j with frozen := true })
    if s.fisin.role && !s.jrnl.everAttached then detach
    modDev (fun d => { d with mode := 2 }.settle)
    modFisin (·.lockSvn)
    return some (Resp.good [placed s.fisin.lcount 0, placed s.fisin.paircfg 0])

/-- RETIRE_PAIR (R294): a long command, completed when the rescue area is written. -/
def retirePairBody (k : Cmd) : M (Option Resp) := do
  let s ← get
  if h : (k.w 1).toNat < 24 then
    let p : PairId := ⟨(k.w 1).toNat, h⟩
    if s.fisin.namesPair p (s.pair p).rettgt.toNat then return some (Resp.badArg 1)
    else if !s.ready0 p.val then return some (Resp.of .notReady)
    else if s.fisin.retireOp.isSome then return some (Resp.of .busy)
    else
      modFisin (fun f => { f with retireOp := some (k.reply, p) })
      beginRetire p 3#2 0#4
      return none
  else return some (Resp.badArg 1)

/-- DEBUG_ATTACH (R300, R407): DETACH ends every use of the debugger. -/
def debugAttachBody (k : Cmd) : M (Option Resp) := do
  let s ← get
  let n := fieldN (k.w 1) 0 5
  if h : n < 24 ∧ k.w 1 &&& 0xFFFFFFFFFFFFFEE0#64 = 0#64 then
    let p : PairId := ⟨n, h.1⟩
    if !s.ready0 n then return some (Resp.of .notReady)
    else
      if (k.w 1).getLsbD 8 then
        modPair p (fun q => { q with attached := false, holdmis := false, dbgreplay := false, stepping := false })
        resumePair p
        leaveHold p
      else modPair p (fun q => { q with attached := true })
      return some (Resp.good [(← get).pairStat p])
  else return some (Resp.badArg 1)

/-! ### The command table (Table 17-10) -/

/-- Modes S, O, V and F. -/
def modesSOVF : List Nat := [1, 2, 3, 4]
/-- Modes S, O and V. -/
def modesSOV : List Nat := [1, 2, 3]
/-- Modes O and V. -/
def modesOV : List Nat := [2, 3]
/-- Modes O, V and F. -/
def modesOVF : List Nat := [2, 3, 4]

/-- GET_READINESS. -/
def specGetReadiness : Spec := { code := 0x0001, m := false, modes := modesSOVF, remote := true, ext := true }
/-- DECLARE_OPERATIONAL. -/
def specDeclareOperational : Spec := { code := 0x0002, m := true, modes := [1], remote := false, ext := false }
/-- GET_PAIRCFG. -/
def specGetPaircfg : Spec := { code := 0x0010, m := false, modes := modesSOVF, remote := true, ext := false }
/-- RETIRE_PAIR. -/
def specRetirePair : Spec := { code := 0x0011, m := true, modes := modesOVF, remote := false, ext := false }
/-- MICROCODE_STAGE. -/
def specMicrocodeStage : Spec := { code := 0x0020, m := true, modes := modesSOV, remote := false, ext := false }
/-- MICROCODE_COMMIT. -/
def specMicrocodeCommit : Spec := { code := 0x0021, m := true, modes := modesOV, remote := false, ext := false }
/-- MICROCODE_VERIFY. -/
def specMicrocodeVerify : Spec := { code := 0x0022, m := false, modes := modesSOVF, remote := true, ext := false }
/-- FIRMWARE_STAGE. -/
def specFirmwareStage : Spec := { code := 0x0030, m := true, modes := modesSOV, remote := false, ext := false }
/-- FIRMWARE_SWAP. -/
def specFirmwareSwap : Spec := { code := 0x0031, m := true, modes := modesOV, remote := false, ext := false }
/-- INTEGRITY_REGION_SET. -/
def specIntegrityRegionSet : Spec := { code := 0x0040, m := true, modes := modesOV, remote := false, ext := false }
/-- SCRUB_RATE_SET. -/
def specScrubRateSet : Spec := { code := 0x0041, m := true, modes := modesSOVF, remote := false, ext := false }
/-- CHANNEL_RETRAIN. -/
def specChannelRetrain : Spec := { code := 0x0042, m := true, modes := modesOV, remote := false, ext := false }
/-- REMAP_QUERY. -/
def specRemapQuery : Spec := { code := 0x0043, m := false, modes := modesSOVF, remote := true, ext := false }
/-- ERROR_LOG_READ. -/
def specErrorLogRead : Spec := { code := 0x0050, m := false, modes := modesSOVF, remote := true, ext := true }
/-- COUNTER_RULE_SET. -/
def specCounterRuleSet : Spec := { code := 0x0051, m := true, modes := modesSOVF, remote := false, ext := false }
/-- AGEING_REPORT. -/
def specAgeingReport : Spec := { code := 0x0060, m := false, modes := modesOVF, remote := true, ext := false }
/-- MARGIN_PLAN_GET. -/
def specMarginPlanGet : Spec := { code := 0x0061, m := false, modes := modesOVF, remote := true, ext := false }
/-- MARGIN_PLAN_APPLY. -/
def specMarginPlanApply : Spec := { code := 0x0062, m := true, modes := modesOV, remote := false, ext := false }
/-- VOLLEY_CONFIG. -/
def specVolleyConfig : Spec := { code := 0x0070, m := true, modes := [1], remote := false, ext := false }
/-- DOMAIN_STATUS. -/
def specDomainStatus : Spec := { code := 0x0071, m := false, modes := modesSOVF, remote := true, ext := true }
/-- JOURNAL_CONFIG. -/
def specJournalConfig : Spec := { code := 0x0080, m := true, modes := modesSOV, remote := false, ext := false }
/-- DEBUG_ATTACH. -/
def specDebugAttach : Spec := { code := 0x0090, m := true, modes := modesOVF, remote := false, ext := false }
/-- ENTER_DORMANT. -/
def specEnterDormant : Spec := { code := 0x00F0, m := true, modes := [2], remote := false, ext := false }

/-- The command codes of Table 17-10. -/
def knownCodes : List Nat :=
  [0x0001, 0x0002, 0x0010, 0x0011, 0x0020, 0x0021, 0x0022, 0x0030, 0x0031, 0x0040, 0x0041, 0x0042, 0x0043, 0x0050, 0x0051,
   0x0060, 0x0061, 0x0062, 0x0070, 0x0071, 0x0080, 0x0090, 0x00F0]

/-- The specification and body of a command that R387 accepts remotely. -/
def remoteCommand (code : Nat) : Option (Spec × (Cmd → M (Option Resp))) :=
  match code with
  | 0x0001 => some (specGetReadiness, getReadinessBody)
  | 0x0010 => some (specGetPaircfg, getPaircfgBody)
  | 0x0022 => some (specMicrocodeVerify, microcodeVerifyBody)
  | 0x0043 => some (specRemapQuery, remapQueryBody)
  | 0x0050 => some (specErrorLogRead, errorLogReadBody)
  | 0x0060 => some (specAgeingReport, ageingReportBody)
  | 0x0061 => some (specMarginPlanGet, marginPlanGetBody)
  | 0x0071 => some (specDomainStatus, domainStatusBody)
  | _ => none

/-- Serve a mailbox request of another node (R387): only the manager asks workers, and only workers the manager. -/
def serveRequest (src : BitVec 5) (cmd : Vector Word 8) : M Unit := do
  let s ← get
  let w0 := cmd.get 0
  let dest : Reply := .remote src w0
  if s.ready0 48 then
    if !knownCodes.contains (fieldN w0 0 16) || badWord0 w0 then respond dest (Resp.of .badCommand) false
    else if s.fisin.role = decide (src ≠ 0#5) then respond dest (Resp.of .denied) false
    else match remoteCommand (fieldN w0 0 16) with
      | none => respond dest (Resp.of .denied) false
      | some (sp, body) => serve sp { words := cmd, reply := dest, monitor := false, vmchk := false } body

/-- A mailbox request of another node arrives: it waits while the handover of a swap lasts (R406). -/
def requestArrives (src : BitVec 5) (cmd : Vector Word 8) : M Unit := do
  if (← get).handover then modFisin (fun f => { f with reqs := f.reqs ++ [(src, cmd)] })
  else serveRequest src cmd

/-- A swap ends, and the firmware that runs serves the requests that waited (R406, R427). -/
def swapOver (ok : Bool) : M Unit := do
  let held := (← get).fisin.reqs
  swapEnds ok
  modFisin (fun f => { f with reqs := [] })
  for (src, cmd) in held do serveRequest src cmd

/-- The local channel that waits for a remote response: its command carries the cookie and names the node. -/
def State.remoteChan (s : State) (ctag : Byte) (node : BitVec 5) : Option (Fin 64) :=
  (List.finRange 64).find? (fun i =>
    let b := s.mbox i
    let w := b.cmd.get 0
    b.active && !s.fisin.bells.contains i && decide (w.extractLsb' 24 8 = ctag) && decide (w.extractLsb' 16 5 = node))

/-- The external channel waits for a remote response with this cookie from this node (R387, R409). -/
def State.remoteExt (s : State) (ctag : Byte) (node : BitVec 5) : Bool :=
  let w := s.fisin.ext.cmd.get 0
  s.fisin.ext.active && decide (w.extractLsb' 24 8 = ctag) && decide (w.extractLsb' 16 5 = node)

/-- A mailbox response arrives (R387): a first IN_PROGRESS leaves the channel active; the last one completes it. What none of the 64 channels
waits for may be the external one's. -/
def responseArrives (ctag : Byte) (node : BitVec 5) (result : Byte) (rsp : Vector Word 8) : M Unit := do
  match (← get).remoteChan ctag node with
  | none =>
    if (← get).remoteExt ctag node then
      modVolley (fun v => { v with msgs := v.msgs.filter (fun m => m.desc.isSome || m.chan.isSome) })
      modFisin (fun f => { f with ext := { f.ext with rsp := rsp, result := result, done := true, active := false } })
  | some i =>
    modVolley (fun v => { v with msgs := v.msgs.filter (fun m => !decide (m.chan = some i)) })
    if result = 6#8 then respondLong (.chan i)
    else
      let b := (← get).mbox i
      modMbox i (fun b => { b with rsp := rsp, result := result, done := true, active := false })
      if b.irqen || decide (b.result = 6#8) then fireIrt 0x7DB

/-- The message timeout of unfrozen time passes (R381): a descriptor completes with CODE 4, a mailbox request with TIMEOUT. -/
def messageOver (id : Nat) : M Unit := do
  match (← get).volley.msgs.find? (fun m => decide (m.msgid = id)) with
  | none => pure ()
  | some m =>
    if m.frozen.isEmpty then
      modVolley (fun v => { v with msgs := v.msgs.filter (fun x => !decide (x.msgid = id)) })
      match m.desc, m.chan with
      | some off, _ =>
        failDesc off 4
        bulkRun
      | none, some i => respond (.chan i) (Resp.of .timeout) false
      | none, none => respond .ext (Resp.of .timeout) false

end Sys2Proof.Machine
end

