-- ==== Sys2Proof/Machine/Bringup.lean ====
section
/-! DEFINITION. Staging step by step (17 R396–R401, 15 R359, R360), and what the units do at their own events: time and epochs (14), Volley ports (16), channels (12), heat (18). -/

namespace Sys2Proof.Machine

/-! ### Staging -/

/-- Read the records of the configuration block (R397): a record with an unknown ID is ignored and logged. -/
def readParams : List CfgRecord → M Unit
  | [] => pure ()
  | r :: t => do
    let id := r.id.toNat
    if 1 ≤ id ∧ id ≤ 8 then modFisin (fun f => { f with params := Tab.put f.params id (BitVec.ofNat 64 (r.value.toNat % 2 ^ 48)) })
    else fisinLog 0 0 3 (r.id.setWidth 64) 0#64
    readParams t

/-- A strength that AGATEMAX or AGATEDEF may take (R324, R325); any other record takes the default (log entry 42). -/
def strengthParam (v dflt : Nat) : Nat := if [0, 1, 2, 4, 8].contains v then v else dflt

/-- The reset rises; a failed self-check of the boot ROM is a Fisin fault (R393). -/
def bootRises (role bootsrc pairsafe record selfTest : Bool) : M Unit := do
  riseReset role bootsrc pairsafe record
  if (← get).standby.pwrgood && !selfTest then enterHalted

/-- The checks of R395 on a flash slot: 0 accepted, else the DETAIL code. `sig` is the verdict of the signature verification. -/
def Fisin.judge (f : Fisin) (kind : Nat) (slot sig : Bool) : Nat :=
  imageCheck f (fun o n => f.flashN ((slotOf kind slot).1 + o) n) kind (slotOf kind slot).2 sig

/-- Log an image that is not accepted (Table 17-11). The boot ROM's rejections are logged too (DESIGN CHOICE, log entry 95). -/
def logRejected (kind detail off : Nat) : M Unit :=
  if detail = 0 then pure () else fisinLog 0 0 2 (placed kind 0 ||| placed detail 16) (BitVec.ofNat 64 off)

/-- Try slot `first` of a kind, then the other one (R396 step 2, R398): the slot accepted, if any. -/
def acceptSlot (kind : Nat) (first primary alternate : Bool) : M (Option Bool) := do
  let a := (← get).fisin.judge kind first primary
  logRejected kind a (slotOf kind first).1
  if a = 0 then return some first
  else
    let b := (← get).fisin.judge kind (!first) alternate
    logRejected kind b (slotOf kind (!first)).1
    return if b = 0 then some (!first) else none

/-- Start firmware from flash, or with BOOTSRC from the UART's raw bytes (R396 steps 2 and 3): whether one was accepted. -/
def acceptFirmware (primary alternate : Bool) (uart : List Byte) : M Bool := do
  let f := (← get).fisin
  if f.bootsrc then
    let rd (o n : Nat) : Nat := ofBytes ((List.range n).map (fun i => uart.getD (o + i) 0#8))
    let d := imageCheck f rd 1 (min (slotOf 1 false).2 uart.length) primary
    logRejected 1 d 0
    modFisin (fun f => if d = 0 then { f with fwver := rd 8 4, fwsvn := rd 0xC 4 } else f)
    return decide (d = 0)
  else
    match ← acceptSlot 1 f.fwslot primary alternate with
    | none => return false
    | some b =>
      modFisin (fun f => f.runs b)
      return true

/-- The records of an accepted configuration block (R397); none where the block fails R395 (DESIGN CHOICE, log entry 95). -/
def readConfig (sig : Bool) : M Unit := do
  let f := (← get).fisin
  let base := (slotOf 3 false).1
  let d := f.judge 3 false sig
  logRejected 3 d base
  if d = 0 then
    modFisin (fun f => { f with cfgsvn := f.flashN (base + 0xC) 4 })
    readParams ((List.range (f.flashN (base + 0x10) 4 / 8)).map (fun i =>
      let w : Word := BitVec.ofNat 64 (f.flashN (base + 0x40 + 8 * i) 8)
      { id := w.setWidth 16, value := w >>> 16 }))

/-- FISIN_FIRMWARE_READY (R396, R397, R306, R307, R310): the firmware slot in use passes R395, or the other one; with BOOTSRC
the image comes over the UART and no slot is tried. With none accepted the device is Halted; else the parameters are read,
each DIMM is identified, the memory map is made and FISIN becomes ready. -/
def fisinStarts (primary alternate cfg : Bool) (uart : List Byte) (dimms : Vector (Option Dimm) 12) : M Unit := do
  let s ← get
  if s.dev.mode = 1 ∧ s.ready0 48 = false then
    let ok ← acceptFirmware primary alternate uart
    if !ok then enterHalted
    else
      readConfig cfg
      let f := (← get).fisin
      let amax := strengthParam (f.param 4 4) 4
      modify (fun s => { s with
        integ := { s.integ with agatemax := amax, defs := strengthParam (f.param 5 amax) amax }
        pcie := { s.pcie with bifurc := BitVec.ofNat 8 (f.param 6 0) } })
      for ch in List.finRange 12 do identify (f.param 2 0) ch (dimms.get ch)
      mapMemory
      modFisin (fun f => { f with lmap := f.lmap.set 0 0x80#8 })
      setReady0 48 true

/-- Whether root port `p` is present under PCIEBIF (Table 15-2). -/
def portPresent (split : Byte) (p : Nat) : Bool :=
  let k := split.toNat / 4 ^ (p / 4) % 4
  match p % 4 with
  | 0 => true
  | 1 => decide (k = 3)
  | 2 => decide (1 ≤ k)
  | _ => decide (2 ≤ k)

/-- HUB_UNITS_READY (Table 17-6, R359, R400): HEALTH, JRNL, IRT and IOMMU become ready; absent ports are FAILED; a
standalone device or a manager opens its first epoch (DESIGN CHOICE, log entry 21: the spec does not say when). -/
def hubStarts : M Unit := do
  let s ← get
  if s.dev.mode = 1 && s.ready0 48 && !s.ready0 49 then
    setReady0 49 true
    setReady0 50 true
    setReady0 51 true
    setReady0 52 true
    modPcie (fun p => { p with ports := Vector.ofFn (fun i => { p.ports.get i with present := portPresent p.bifurc i.val }) })
    for i in List.finRange 16 do
      if !portPresent s.pcie.bifurc i.val then setFail1 i.val true
    modJ (fun j => { j with role := if s.fisin.role then 2 else j.role })
    tryOpen

/-- The boot window's PA (R398). -/
def bootWindow : Nat := 0x000FFC0000000000

/-- BOOT_FIRMWARE_RELEASE (R398): the slot accepted is mapped and pair 0 starts, checked, at ENTRY. -/
def bootStarts (primary alternate : Bool) : M Unit := do
  let s ← get
  if s.dev.mode = 1 && s.ready0 24 && !s.fisin.bootmap then
    match ← acceptSlot 2 s.fisin.bootslot primary alternate with
    | none => enterHalted
    | some slot =>
      modFisin (fun f => { f with bootslot := slot, bootmap := true })
      let entry := (← get).fisin.flashN ((slotOf 2 slot).1 + 0x14) 4
      modPair 0 (fun q => { q with checked := true })
      setReady0 0 true
      startCore 0 false (BitVec.ofNat 64 (bootWindow + entry))

/-- The LOGICALMAP bytes of a pair's logical cores (R16, R401). -/
def mapBytes (split : Bool) (p : PairId) : List Byte :=
  if split then [BitVec.ofNat 8 (p.val + 0xC0), BitVec.ofNat 8 (p.val + 0xE0)] else [BitVec.ofNat 8 (p.val + 0x80)]

/-- LOGICALMAP_WRITE (R16, R401): dense numbers in pair order, omitting retired pairs and those of failed clusters. -/
def logicalMap : M Unit := do
  let s ← get
  let f := s.fisin
  if s.dev.mode = 1 && s.ready0 48 && !f.lvalid && (List.range 12).all (fun i => s.ready0 (24 + i) || f.fail0.getLsbD (24 + i)) then
    let gone (p : PairId) : Bool := (s.pair p).failed || f.fail0.getLsbD p.val || decide ((s.core (evenOf p)).run = .retired)
    let bytes := (List.finRange 24).flatMap (fun p => if gone p then [] else mapBytes (!f.paircfg.testBit p.val) p)
    modFisin (fun f => { f with lmap := Vector.ofFn (fun i => bytes.getD i.val 0#8), lcount := bytes.length, lvalid := true })

/-! ### Root ports (R360, R363, R372, R400) -/

/-- A root port reaches L0. -/
def linkUp (p : PortId) (rate : BitVec 3) (width : BitVec 5) : M Unit := do
  let s ← get
  if s.ready0 52 && (s.pcie.ports.get p).present then
    modPcie (fun x => { x with ports := modUnit x.ports p.val (fun q => { q with l0 := true, rate := rate, width := width }) })
    setReady1 p.val true
    setFail1 p.val false

/-- A root port leaves L0: every outstanding request to it fails (R363). -/
def linkDown (p : PortId) : M Unit := do
  let s ← get
  if (s.pcie.ports.get p).l0 then
    modPcie (fun x => { x with ports := modUnit x.ports p.val (fun q => { q with l0 := false, rate := 0#3, width := 0#5 }) })
    setReady1 p.val false
    failPort p (List.finRange 48)

/-- A present port is not in L0 within 1 s (R400). -/
def linkLate (p : PortId) : M Unit := do
  let s ← get
  if s.ready0 52 && (s.pcie.ports.get p).present && !(s.pcie.ports.get p).l0 then setFail1 p.val true

/-- AER reports an error at a port (R372, R411); one of a journal write enters the journal error state (R350); which
epoch that names is DEDUCED, log entry 97. -/
def aerReport (p : PortId) (r : AerReport) (journalWrite : Bool) : M Unit := do
  let s ← get
  modPcie (fun x => { x with ports := modUnit x.ports p.val (fun q => { q with aer := q.aer ||| r.status }) })
  fireIrt (0x7E0 + p.val)
  fisinLog 6 p.val 2 r.status (r.rid.setWidth 64)
  if journalWrite then journalError 2 ((s.jrnl.awaited).getD ((s.jrnl.opened.map (·.n)).getD 0#48))

/-! ### Time and epochs (R342–R344, R351–R355, R388, R389) -/

/-- EPOCH_END: the open epoch has lasted JLEN (R344); an attached worker ignores its own JLEN (R353). -/
def epochEnds : M Unit := do
  let j := (← get).jrnl
  match j.opened with
  | some e =>
    if j.own then
      reachTime (e.start + BitVec.ofNat 64 (j.jlen * 1000))
      sealOpen
      journalRun
  | none => pure ()

/-- JCOMPL has missed the awaited epoch for JTGTTMO (R350). -/
def targetLate : M Unit := do
  match (← get).jrnl.awaited with
  | some n => journalError 1 n
  | none => pure ()

/-- PPS_IN_EDGE (R342): the offset of JTIME from the nearest second; ignored on a worker (R375). -/
def ppsEdge : M Unit := do
  let s ← get
  if s.ready0 50 && !s.fisin.role then
    let r := s.jrnl.time.toNat % 1000000000
    let off : Int := if r < 500000000 then (r : Int) else (r : Int) - 1000000000
    modJ (fun j => { j with src := 1#2 })
    discipline off false

/-- OPEN n reaches a worker (R353): its open epoch ends and epoch n opens. -/
def openArrives (n : BitVec 48) (start : Word) : M Unit := do
  let s ← get
  let j := s.jrnl
  if s.fisin.role && !j.detached && s.ready0 50 && !j.epochs.any (fun e => decide (e.n = n)) then
    modVolley (fun v => { v with attached := true })
    modJ (fun j => { j with everAttached := true, src := 2#2
                            epochs := j.epochs.map (fun e => if e.st = .opened then { e with st := .sealing } else e) })
    openAt n start
    journalRun

/-- DURABLE n reaches the manager from a worker (R353). -/
def durableArrives (node : BitVec 5) (n : BitVec 48) : M Unit := do
  let s ← get
  if s.jrnl.role = 1 then
    modJ (fun j => if (Tab.getD j.durableOf node.toNat 0#48).toNat < n.toNat then { j with durableOf := Tab.put j.durableOf node.toNat n } else j)
    closeGlobal 4
    journalRun

/-- CLOSED n reaches a worker (R344): its reported epochs up to n are Closed. -/
def closedArrives (n : BitVec 48) : M Unit := do
  let s ← get
  if s.fisin.role && !s.jrnl.detached then
    for e in s.jrnl.epochs do
      if e.st = .reported ∧ e.n.toNat ≤ n.toNat then closeEpoch e.n
    journalRun

/-- HEARTBEAT (R388): it carries the sender's highest durable and closed epochs; in Staging it makes a worker present. A detached worker that
hears the manager again has its path back, and sends REJOIN (R355; DEDUCED, log entry 100). -/
def heartbeatArrives (node : BitVec 5) (d cl : BitVec 48) : M Unit := do
  let s ← get
  if s.jrnl.role = 1 then
    if s.volley.present.getLsbD node.toNat then durableArrives node d
    else if !s.jrnl.frozen && decide (node ≠ 0#5) then
      modVolley (fun v => { v with present := v.present ||| BitVec.ofNat 17 (2 ^ node.toNat) })
      durableArrives node d
  else if s.fisin.role then
    if s.jrnl.detached then
      if node = 0#5 then sendRejoin
    else closedArrives cl

/-- A node's heartbeat interval elapses (R388): kind 3, to the manager, or from it to every worker. -/
def heartbeatSends : M Unit := do
  let s ← get
  let body := [TW.raw (s.jrnl.durable.setWidth 64), TW.raw (s.jrnl.closed.setWidth 64)]
  if s.jrnl.role = 1 then vsendAll 2 3 body s.volley.everyWorker
  else if s.fisin.role then vsend 0#5 2 3 0 body

/-- A worker is declared absent (R354): global epochs close without it. -/
def declareAbsent (node : BitVec 5) : M Unit := do
  let s ← get
  if s.jrnl.role = 1 && decide (node ≠ 0#5) && s.volley.present.getLsbD node.toNat then
    modVolley (fun v => { v with present := v.present &&& ~~~(BitVec.ofNat 17 (2 ^ node.toNat)) })
    closeGlobal 4
    journalRun

/-- REJOIN reaches the manager (R355): the worker, first declared absent, is admitted at the next epoch boundary. -/
def rejoinArrives (node : BitVec 5) (prov h : BitVec 48) : M Unit := do
  let s ← get
  if s.jrnl.role = 1 && decide (node ≠ 0#5) then
    declareAbsent node
    modJ (fun j => { j with
      rejoins := (j.rejoins.filter (fun r => !decide (r.1 = node))) ++ [(node, prov, h)]
      absentFrom := if Tab.has j.absentFrom node.toNat then j.absentFrom
        else Tab.put j.absentFrom node.toNat (match j.epochs with | e :: _ => e.n | [] => j.first) })
    tryOpen

/-- ADMIT reaches a detached worker (R355). -/
def admitArrives (a n : BitVec 48) (start : Word) : M Unit := do
  if (← get).fisin.role && (← get).jrnl.detached then admitAt a n start

/-- SEAL reaches the manager from an attached worker (R351). -/
def sealArrives (node : BitVec 5) : M Unit := do
  let s ← get
  if s.jrnl.role = 1 && s.volley.present.getLsbD node.toNat && s.jrnl.opened.isSome then
    sealOpen
    journalRun

/-- Nothing from the manager for the absence timeout (R354). -/
def detachLate : M Unit := do
  if (← get).fisin.role then detach

/-- SYNC goes to every downstream neighbour with t1 (R389): all ports of a manager, ports 1–3 of a worker. -/
def syncSends : M Unit := do
  for q in List.finRange 4 do
    let s ← get
    if (s.vport q).st = 2 && (!s.fisin.role || decide (q ≠ 0)) then
      sendOn q (s.volley.flit (s.vport q).peer 1 0 0 [TW.raw s.jrnl.time])

/-- SYNC arrives: t2 is recorded and DREQ leaves at t3 (R389). -/
def syncArrives (t1 : Word) : M Unit := do
  let s ← get
  if s.fisin.role then
    modJ (fun j => { j with sync := some (t1, j.time, j.time) })
    sendOn 0 (s.volley.flit 0#5 1 1 0 [])

/-- DREQ arrives from a downstream neighbour: DRESP carries t4 (R389). -/
def dreqArrives (q : VPortId) : M Unit := do
  let s ← get
  sendOn q (s.volley.flit (s.vport q).peer 1 2 0 [TW.raw s.jrnl.time])

/-- DRESP arrives: the offset is computed, halved towards zero (DESIGN CHOICE, log entry 57), and stepped out by the first exchange in
Staging or slewed out (R389, R342). -/
def drespArrives (t4 : Word) : M Unit := do
  let j := (← get).jrnl
  match j.sync with
  | none => pure ()
  | some (t1, t2, t3) =>
    let a : Int := (t2 - t1).toInt
    let b : Int := (t4 - t3).toInt
    modJ (fun j => { j with sync := none })
    discipline ((a - b).tdiv 2) (!j.stepped && !j.frozen)
    modJ (fun j => { j with stepped := true })

/-! ### Volley ports (R376, R379–R381) -/

/-- ACK up to a sequence number: the freed room takes waiting flits, and the descriptors in flight go on (R379, R383). -/
def ackArrives (q : VPortId) (seqno : Nat) : M Unit := do
  modVPort q (fun p =>
    match p.replay.findIdx? (fun e => decide (e.1 = seqno)) with
    | some i => { p with replay := p.replay.drop (i + 1) }
    | none => p)
  pumpPort q
  bulkRun

/-- NAK received: Replay, and every unacknowledged flit is sent again (R379). -/
def nakArrives (q : VPortId) : M Unit := do
  portNak q
  if ((← get).vport q).st = 3 then resend q

/-- HOLD naming a link arrives (R381): it is forwarded and the timers freeze. -/
def holdArrives (q : VPortId) (l : Nat) : M Unit := do
  announce 1 l q
  modVolley (fun v => v.freeze l)

/-- RESUME naming a link arrives. -/
def resumeArrives (q : VPortId) (l : Nat) : M Unit := do
  announce 2 l q
  modVolley (fun v => v.thaw l)

/-- A retraining port's end repeats HOLD (R381). -/
def holdAgain (q : VPortId) : M Unit := do
  let s ← get
  if (s.vport q).st = 4 then announce 1 (s.volley.link q) q

/-- No HOLD naming a link has come for 200 µs: timers frozen by announcements resume; the retry-hold of a port of this node still freezes
those of its own link (R381). -/
def holdExpires (l : Nat) : M Unit := modVolley (fun v =>
  if (List.finRange 4).any (fun q => (unit v.ports q).hold && decide (v.link q = l)) then v else v.thaw l)

/-- HELLO (R376): the manager's end assigns the number that a worker's port 0 takes; a link that breaks the tree is recorded. -/
def helloArrives (q : VPortId) (node : BitVec 5) (port : BitVec 2) (mgr : Bool) : M Unit := do
  let s ← get
  let v := s.volley
  let w := s.fisin.role
  let m := miswire v w q node port mgr
  let up := w && decide (q = 0)
  if up && decide (m = 0) then modVolley (fun v => { v with node := node })
  let peer : BitVec 5 :=
    if up then (if mgr then 0#5 else BitVec.ofNat 5 ((node.toNat - 1) / 4 * 4 + 1))
    else if w then v.node + BitVec.ofNat 5 q.val else BitVec.ofNat 5 (1 + 4 * q.val)
  modVPort q (fun p => { p with peer := peer, up := up, miswire := BitVec.ofNat 3 m })
  if m ≠ 0 then fisinLog 7 q.val 2 (placed m 0) (peer.setWidth 64)
  vportReady q

/-- A Down port with EN = 1 starts training once the hub is ready (Table 16-2). -/
def portTrains (q : VPortId) : M Unit := do
  let s ← get
  if s.ready0 49 && (s.vport q).en && decide ((s.vport q).st = 0) then
    modVPort q (fun p => { p with st := 1, txseq := 0, rxseq := 0, replay := [], waitq := [] })

/-- Training passes or fails (Table 16-2); an Up port resynchronises its epochs (R388). -/
def portTrained (q : VPortId) (pass : Bool) : M Unit := do
  if ((← get).vport q).st = 1 then
    if pass then
      portUp q false
      resynchronise q
    else modVPort q (fun p => { p with st := 0 })

/-- Every replayed flit is acknowledged. -/
def portReplayed (q : VPortId) : M Unit := do
  if ((← get).vport q).st = 3 then
    portUp q false
    pumpPort q
    bulkRun

/-- The replay has spent 100 µs, or its 8 NAKs (Table 16-2). -/
def portReplayOver (q : VPortId) : M Unit := do
  if ((← get).vport q).st = 3 then portRetrain q

/-- A retrain passes: the replay buffer is resent and RESUME announced. -/
def portRetrained (q : VPortId) : M Unit := do
  if ((← get).vport q).st = 4 then
    portUp q true
    resend q
    pumpPort q
    bulkRun

/-- The retry budget is spent: Down (Table 16-2). -/
def portBudgetOver (q : VPortId) : M Unit := do
  if ((← get).vport q).st = 4 then portDown q true

/-- A RAISE arrives (R386): it fires when its count of WRITE flits has landed. -/
def raiseArrives (src : BitVec 5) (irt count id : Nat) : M Unit := do
  modVolley (fun v => { v with raises := v.raises ++ [(src, irt % 2048, count, id)] })
  raisesDue src

/-! ### Memory channels (R310, R315–R319, R328, R334) -/

/-- A controller read of a line with errors found and left (R323, R334). -/
def controllerRead (pa : Pa) (flips stuck : List SymErr) : M Unit := do
  if (← get).memReady pa then
    let _ ← chanRead (lineOf pa) flips stuck

/-- A controller write: a dirty LLC line goes to memory (R328). -/
def controllerWrite (pa : Pa) : M Unit := do
  let s ← get
  match s.llc.look (lineOf pa) with
  | some l =>
    if l.dirty && s.memReady pa then
      dramWrite (lineOf pa) l.data
      modify (fun s => { s with llc := s.llc.put (lineOf pa) { l with dirty := false } })
  | none => pure ()

/-- ALERT_N on a Ready or Draining channel: it stops issuing, commands are replayed and retry-hold is asserted (R317). -/
def alertRetry (ch : ChanId) (wcrc : Bool) : M Unit := modChan ch (fun k =>
  if k.st = 3 ∨ k.st = 5 then { k with retryact := true, retryWcrc := wcrc } else k)

/-- The retry budget is spent: the channel is Failed, and logged (R317, R411). -/
def retryOver (ch : ChanId) : M Unit := do
  let k := (← get).chan ch
  if k.retryact then
    fisinLog 3 ch.val 7 k.retryWord 0#64
    channelFails ch

/-- The LLC miss timeout of a core's request (R318), which no longer waits: frozen while the channel retries its commands (R317). -/
def missOver (c : CoreId) (pa : Pa) : M Unit := do
  let s ← get
  match s.locate pa with
  | some (ch, _) =>
    if (s.core c).takes && !(s.chan ch).retryact then
      modChan ch (fun k => { k with rdq := k.rdq.filter (fun n => !decide (n = lineOf pa)), wrq := k.wrq.filter (fun n => !decide (n = lineOf pa)) })
      machineCheck c (6#64 ||| placed ch.val 4) (BitVec.ofNat 64 (lineOf pa * 64))
  | none => pure ()

/-- tREFI elapses on a running channel (R315). While requests keep it `busy` the refresh is postponed, 4 at most; then it and those owed
take priority. With `manage` the DDR5 rules ask for a refresh management command, which a DIMM gets whose SPD requires them. -/
def refreshIssues (ch : ChanId) (busy manage : Bool) : M Unit := modChan ch (fun k =>
  if k.st = 3 then
    let k := if manage && k.rfm then { k with rfms := k.rfms + 1 } else k
    if busy && decide (k.postponed < 4) then { k with postponed := k.postponed + 1 }
    else { k with refreshes := k.refreshes + 1 + k.postponed, postponed := 0 }
  else k)

/-- The DIMM thermal sensor reads above 85 °C: tREFI is halved (R315). -/
def thermalRead (ch : ChanId) (t : Int) : M Unit := modChan ch (fun k => { k with hot := decide (85 < t) })

/-- The DQS interval oscillator of a rank is read, and its read and write delays are adjusted (R316). -/
def dqsRead (ch : ChanId) (rank : Fin 4) : M Unit := do
  let k := (← get).chan ch
  if k.st = 3 ∧ rank.val < k.ranks then
    modChan ch (fun k => { k with retrims := setUnit k.retrims rank (unit k.retrims rank + 1) })
    trimRank ch rank

/-- A rank is ZQ-calibrated (R316). -/
def zqDone (ch : ChanId) (rank : Fin 4) : M Unit := modChan ch (fun k =>
  if k.st = 3 ∧ rank.val < k.ranks then { k with zqcals := setUnit k.zqcals rank (unit k.zqcals rank + 1) } else k)

/-- The queues of a Draining channel are empty: cached copies go and training runs (R319 steps 2–4). -/
def drainEnds (ch : ChanId) : M Unit := do
  let k := (← get).chan ch
  if k.st = 5 ∧ k.retryact = false then
    dropCached ch
    modChan ch (fun k => { k with st := 2, rdq := [], wrq := [] })

/-! ### Heat and ageing (R420, R424, R425) -/

/-- A junction of a die reaches 95 °C: HOT_N, IRT source "hot" once per assertion, and the log (R420). -/
def hotStarts (d : DieId) (t : Byte) : M Unit := do
  let was := (← get).power.hot
  modPower (fun p => { p with tj := setUnit p.tj d t, hot := setUnit p.hot d true })
  if !(was.get d) then
    if !(was.get 0 || was.get 1) then fireIrt 0x7DD
    fisinLog 8 (d.val * 6) 1 (t.setWidth 64) 0#64

/-- Every sensor of a die reads below 90 °C: HOT_N is released (R420). -/
def hotEnds (d : DieId) (t : Byte) : M Unit := modPower (fun p => { p with tj := setUnit p.tj d t, hot := setUnit p.hot d false })

/-- The clusters of a die. -/
def dieClusters (d : DieId) : List CluId := (List.finRange 12).filter (fun c => decide (c.val / 6 = d.val))

/-- THERMCAP of a die's clusters moves by one (R420). -/
def thermalStep (d : DieId) : M Unit := do
  let hot := (← get).power.hot.get d
  for c in dieClusters d do modClock c (fun k => k.thermal c.val hot)

/-- 115 °C: THERMTRIP_N until PWRGOOD falls, and Halted (R420). -/
def trip : M Unit := do
  modStandby (fun b => { b with thermtrip := true })
  enterHalted

/-- Fisin reads every ageing monitor (R424); six readings, 10 minutes apart, are a powered hour (log entry 43). -/
def ageingRead (slacks : Vector (BitVec 16) 64) : M Unit := modPower (fun p =>
  let n := (p.mons.get 0).points.length + 1
  let p := { p with mons := Vector.ofFn (fun i => (p.mons.get i).read p.hours (slacks.get i)) }
  if n % 6 = 0 then { p with hours := p.hours + 1 } else p)

/-- A plan is computed for every cluster (R425). -/
def planAll : M Unit := do
  for c in List.finRange 12 do planCluster c

/-- PFAIL falls on a die: PWRSTAT shows it, and each core of the die with PFEN = 1 gets its PFAIL vector at level 0 (R174). -/
def pfailFalls (d : DieId) : M Unit := do
  let was := (← get).power.pfail.get d
  modPower (fun p => { p with pfail := setUnit p.pfail d true })
  if !was then
    for c in List.finRange 48 do
      let k := (← get).core c
      if dieOf c = d && k.regs.uctl.getLsbD 0 && k.takes then
        raiseVector c (0x80 + fieldN k.regs.uctl 4 4) 0#4

/-- PFAIL rises on a die (R428). -/
def pfailRises (d : DieId) : M Unit := modPower (fun p => { p with pfail := setUnit p.pfail d false })

/-! ### The standby domain (R422, R434) -/

/-- VSTBY is first applied: the retention register reads VALID 0 and PWR_REQ goes high. -/
def standbyOn : M Unit := modStandby (fun b =>
  if b.vstby then b else { b with vstby := true, token := 0#64, reason := 0#3, valid := false, armed := false, pwrReq := true })

/-- VSTBY is lost: the retention register and the standby domain are cleared. -/
def standbyOff : M Unit := modStandby (fun b =>
  { b with vstby := false, token := 0#64, reason := 0#3, valid := false, armed := false, wakePending := false, pwrReq := false })

/-- PWRGOOD rises: in Dormant, REASON 2 unless a WAKE_N edge came first (R422). -/
def powerReturns : M Unit := modify (fun s =>
  { s with standby := { s.standby with pwrgood := true
                                       reason := if s.dev.mode = 0 ∧ s.standby.armed = true then 2#3 else s.standby.reason
                                       armed := s.standby.armed && !decide (s.dev.mode = 0) } })

end Sys2Proof.Machine
end

