-- ==== Sys2Proof/Machine/Operands.lean ====
section
/-! DEFINITION. Register operands in value and copy positions (R41, R43, R58, R101). -/

namespace Sys2Proof.Machine

/-- The tags a raw operand may carry: fixnum or raw (R58). -/
def rawTag (t : Tag) : Bool := decide (t = 0x01#8) || decide (t = 0x05#8)
/-- The tags a binary64 operand may carry: float64 or raw (R101). -/
def dblTag (t : Tag) : Bool := decide (t = 0x02#8) || decide (t = 0x05#8)
/-- The tag a binary32 operand must carry: raw (R101). -/
def sglTag (t : Tag) : Bool := decide (t = 0x05#8)
/-- The tags a value position accepts in general: 0x01–0x7F (Table 1-10). -/
def valueTag (t : Tag) : Bool := decide (1 ≤ t.toNat) && decide (t.toNat ≤ 0x7F)

/-- The checks of R43, items 4 to 6, over registers in value positions in operand order: poison, then unset, then a tag
the instruction does not accept. -/
def checkValues (ok : Tag → Bool) (ws : List TW) : Exec Unit := do
  match ws.find? (fun w => decide (w.tag = 0x82#8)) with
  | some w => throw (excI 0x06#8 w.val 0#64)
  | none =>
    require (!ws.any (fun w => decide (w.tag = 0x00#8))) (exc0 0x05#8)
    require (ws.all (fun w => ok w.tag)) (exc0 0x03#8)

/-- The two operands of a three-register instruction, checked. -/
def operands2 (c : CoreId) (ok : Tag → Bool) (a b : Reg) : Exec (TW × TW) := do
  let wa ← lift (readReg c a)
  let wb ← lift (readReg c b)
  checkValues ok [wa, wb]
  return (wa, wb)

/-- The one operand of a two-register instruction, checked. -/
def operand1 (c : CoreId) (ok : Tag → Bool) (a : Reg) : Exec TW := do
  let wa ← lift (readReg c a)
  checkValues ok [wa]
  return wa

/-- Store data in a copy position: shadow-return words are refused (R32, R41). -/
def checkStored (w : TW) : Exec Unit := require (!decide (w.tag = 0x83#8)) (exc0 0x03#8)

/-- The result tag of a raw instruction: fixnum when every operand is, else raw (R58). -/
def rawResult (ta tb : Tag) : Tag := if ta = 0x01#8 ∧ tb = 0x01#8 then 0x01#8 else 0x05#8

end Sys2Proof.Machine
end

