-- ==== Sys2Proof/Machine/Run.lean ====
section
/-! DEFINITION. How a core issues an instruction row: the events due at the boundary (Table 6-7), fetch, decoding faults, and retirement. -/

namespace Sys2Proof.Machine

/-! ### Which commands the device can obey -/

/-- The device is powered, out of reset and in a mode that runs (Table 0-4). -/
def State.alive (s : State) : Bool :=
  decide (1 ≤ s.dev.mode) && decide (s.dev.mode ≤ 4) && s.standby.resetN && s.standby.pwrgood

/-- Core `c` can make progress: it runs, or it rallies within its budget (R291, R292, R301). A stop that is due holds it, but for a
window that a rally re-executes to the end it had (R291). The trailing core of a checked pair is not modelled apart (log entry 7). -/
def State.mayRun (s : State) (c : CoreId) : Bool :=
  let q := s.pair (pairOf c)
  let k := s.core c
  s.alive && !(q.checked && isOdd c) && (q.stopDue.isNone || q.rerunning) &&
  (decide (k.run = .running) ||
    (decide (k.run = .rallying) && q.retryHold && (!q.heldmis || (q.dbgreplay && q.stepping && !q.replaystop))))

/-- Core `c` can issue an instruction: it waits for no TLBI, JWAIT or verdict on an uncached access (R228, R348, R286). -/
def State.mayIssue (s : State) (c : CoreId) : Bool :=
  s.mayRun c && (s.core c).tlbi.isNone && (s.core c).jwait.isNone && !(s.pair (pairOf c)).windows.any (·.access)

/-! ### Instruction rows -/

/-- The words of an instruction row and what decoding finds. -/
structure Insn where
  word : BitVec 32
  ext : BitVec 32
  ok : Bool
  /-- The lowest privilege that may execute it. -/
  priv : Nat
  deriving DecidableEq, Repr

/-- The words of the prefixes REP and REPN (R66); any other word of their major opcode is a reserved encoding of its own (R48). -/
def isPrefix (w : BitVec 32) : Bool := decide (w = repWord) || decide (w = repnWord)

/-- The length of an instruction in bytes: 8 with an extension word or a repeated instruction (R46, R66). -/
def lenOf (w : BitVec 32) : Nat :=
  let op := majorOf w
  if isPrefix w ∨ (0x20 ≤ op ∧ op ≤ 0x23) then 8 else 4

/-- TRAPINFO of causes 0x01 and 0x02 (R48, R49): for a prefix, the repeated word below and the prefix above. -/
def Insn.info (n : Insn) (reserved : Bool) : Word :=
  if isPrefix n.word then n.ext.setWidth 64 ||| placed n.word.toNat 32
  else if reserved && decide (lenOf n.word = 8) then n.word.setWidth 64 ||| placed n.ext.toNat 32
  else n.word.setWidth 64

/-- The word whose register fields a tag trap names: under a prefix, the repeated instruction's. -/
def Insn.trapWord (n : Insn) : BitVec 32 := if isPrefix n.word then n.ext else n.word

/-- The lowest privilege that TAGSET to a tag needs (Table 1-10); tag 0x83 and reserved tags are refused by cause 0x03. -/
def tagsetPriv (tagw : Bool) (t : Tag) : Nat :=
  if t = 0x80#8 ∨ t = 0x81#8 then (if tagw then 0 else 1)
  else if t = 0x82#8 ∨ t = 0x84#8 then 1
  else 0

/-- The read or write privilege of a system register; 0 when it is not implemented. -/
def regPriv (n : BitVec 12) (write : Bool) : Nat :=
  match sysPriv n.toNat with
  | some (r, w) => if write then w else r
  | none => 0

/-- The privilege of a word of major opcode 0x16: CFLUSH is 2, CINV.LINE, CINV.ALL, WLOCK and WUNLOCK are 3 to 6 (Table 2-3). -/
def cachePriv (w : BitVec 32) : Nat := if majorOf w = 0x16 ∧ 3 ≤ (dstOf w).toNat then 1 else 0

/-- The lowest privilege an instruction row needs in context `x` (Table 2-3, R49). -/
def privNeeded (i : Instr) (x : Ctx) : Nat :=
  match i with
  | .tagset _ _ _ t => tagsetPriv (x.gcctl.getLsbD 3) t
  | .cinvLine .. => 1
  | .cinvAll _ => 1
  | .wlock .. => 1
  | .wunlock .. => 1
  | .rep _ w => cachePriv w
  | .repn _ w => cachePriv w
  | .ctxsw .. => 1
  | .tlbi _ _ form => if form = 0#4 then 3 else 1
  | .mfs _ _ n => regPriv n false
  | .mts _ _ n => regPriv n true
  | .hdtbWrite .. => regPriv 0x001#12 true
  | .spanRegisterWrite .. => regPriv 0x100#12 true
  | .s2rootWrite .. => regPriv 0x140#12 true
  | .ctxctlSpill .. => regPriv 0x305#12 true
  | .ctxctlDiscard .. => regPriv 0x305#12 true
  | .tlbctlFlush .. => regPriv 0x143#12 true
  | .l2Disable .. => regPriv 0x500#12 true
  | .l2Enable .. => regPriv 0x500#12 true
  | .l2FlushAndDisable .. => regPriv 0x500#12 true
  | .victimCacheDisable .. => regPriv 0x500#12 true
  | .windowEndRequest .. => regPriv 0x600#12 true
  | .debugSkip .. => regPriv 0x710#12 true
  | _ => 0

/-- An instruction row as decoding finds it. A row that stands for several instructions has the word 0 (log entry 8). -/
def insnOf (i : Instr) (x : Ctx) : Insn :=
  let (w, e) := (encodeInsn i).getD (0#32, 0#32)
  { word := w, ext := e, ok := i.wellFormed, priv := privNeeded i x }

/-- The word of an instruction row. -/
def wordOf (i : Instr) : BitVec 32 := ((encodeInsn i).getD (0#32, 0#32)).1

/-- Whether a core's FAULTDEPTH makes the row a reserved encoding (R178). -/
def deepReserved : Instr → Bool
  | .save _ => true
  | .restore _ => true
  | .ret _ => true
  | .ctxsw .. => true
  | _ => false

/-! ### Pending destinations (R111) -/

/-- A place a register field names: a bank's global, or a Shale entry of a bank. -/
structure Place where
  bank : Fin 4
  glob : Bool
  ix : Nat
  deriving DecidableEq, Repr

/-- The place that field `f` names in window `w` of a bank (Table 2-1). -/
def placeIn (b : Fin 4) (w : BitVec 5) (f : Reg) : Place :=
  if f.toNat < 8 then { bank := b, glob := true, ix := f.toNat }
  else if f.toNat < 16 then { bank := b, glob := false, ix := shaleKey (w - 1#5) f.toNat }
  else { bank := b, glob := false, ix := shaleKey w (f.toNat - 16) }

/-- The register fields of a memory operand. -/
def memRegs (m : MemOp) : List Reg := if m.am = 1#2 then [m.rb, m.field.extractLsb' 7 5] else [m.rb]

/-- The register fields an instruction row reads or writes. -/
def regsOf (i : Instr) : List Reg :=
  match i with
  | .add _ d a b | .sub _ d a b | .and _ d a b | .or _ d a b | .xor _ d a b | .shl _ d a b | .shr _ d a b | .sar _ d a b
  | .mul _ d a b | .div _ d a b | .divu _ d a b | .rem _ d a b | .remu _ d a b | .gadd _ d a b | .gsub _ d a b | .gmul _ d a b
  | .gdiv _ d a b | .cons _ d a b | .cas _ d a b | .customerExtensionFunction _ d a b _ => [d, a, b]
  | .fadd _ d a b _ | .fsub _ d a b _ | .fmul _ d a b _ | .fdiv _ d a b _ => [d, a, b]
  | .fmadd _ d a b e _ | .fmsub _ d a b e _ | .fnmadd _ d a b e _ | .fnmsub _ d a b e _ => [d, a, b, e]
  | .mulw _ a b | .mulwu _ a b | .cmp _ a b | .cmpu _ a b | .cmpw _ a b | .fcmp _ a b _ | .gcmp _ a b | .seth _ a b | .sett _ a b
  | .jappend _ a b | .ctxsw _ a b => [a, b]
  | .mov _ d a | .addi _ d a _ | .andi _ d a _ | .ori _ d a _ | .xori _ d a _ | .shi _ d a _ _ | .muli _ d a _ | .fsqrt _ d a _
  | .fneg _ d a _ | .fabs _ d a _ | .fcvtS _ d a _ | .fcvtD _ d a _ | .fcvtX _ d a _ | .fcvtF _ d a _ | .gneg _ d a | .head _ d a
  | .tail _ d a | .tagof _ d a | .tagset _ d a _ => [d, a]
  | .cmpi _ a _ | .cmpui _ a _ | .jmpr _ a | .callr _ a | .jwait _ a | .tlbi _ a _ | .mts _ a _ | .hdtbWrite _ a
  | .spanRegisterWrite _ _ _ a | .s2rootWrite _ a | .ttinfoWrite _ a | .productRegisterWrite _ _ a | .cswWrite _ a | .gcctlWrite _ a
  | .ctxctlSpill _ a | .ctxctlDiscard _ a | .tlbctlFlush _ a | .l2Disable _ a | .l2Enable _ a | .l2FlushAndDisable _ a
  | .victimCacheDisable _ a | .windowEndRequest _ a | .debugSkip _ a => [a]
  | .ldi _ d _ | .ldih _ d _ _ | .mfs _ d _ | .mfp _ d _ | .jstamp _ d | .rcRegisterRead _ d _ => [d]
  | .ld _ rt _ m | .lds _ rt _ m | .st _ rt _ m | .ldt _ rt m => rt :: memRegs m
  | .dzl _ m | .cpre _ m | .cflush _ m | .cinvLine _ m => memRegs m
  | .rep _ w | .repn _ w => if majorOf w = 0x16 then [srcaOf w] else [dstOf w, srcaOf w]
  | .dadd _ x | .dsub _ x | .dmul _ x | .ddiv _ x | .fmt _ x | .fmtf _ x => [x.rd, x.ra, x.rc]
  | .dcmp _ x => [x.ra, x.rc]
  | .dshr _ x | .dzad _ x => [x.rd, x.ra]
  | .dcvb _ x => [x.ra]
  | .dcvd _ x => [x.rd]
  | .mvst _ x => [x.rd, x.ra, x.rl1]
  | .mvtr _ x => [x.rd, x.ra, x.rl1, x.rl2]
  | .cmps _ x => [x.rd, x.ra, x.rc, x.rl1, x.rl2]
  | .srch _ x => [x.rd, x.ra, x.rl1]
  | _ => []

/-- Whether an instruction row reads or writes CSW.CC. BC with mask 0 does not look at it. -/
def usesCc (i : Instr) : Bool :=
  match i with
  | .add .. | .sub .. | .and .. | .or .. | .xor .. | .shl .. | .shr .. | .sar .. | .mul .. | .div .. | .divu .. | .rem .. | .remu ..
  | .cmp .. | .cmpu .. | .cmpw .. | .addi .. | .andi .. | .ori .. | .xori .. | .shi .. | .muli .. | .cmpi .. | .cmpui .. | .fcmp ..
  | .gadd .. | .gsub .. | .gmul .. | .gdiv .. | .gcmp .. | .gneg .. | .cas .. | .wlock .. | .wunlock .. | .jwait .. | .dadd .. | .dsub ..
  | .dmul .. | .ddiv .. | .dcmp .. | .dshr .. | .dzad .. | .dcvb .. | .dcvd .. | .fmt .. | .fmtf .. | .cmps .. | .srch .. | .cswWrite .. => true
  | .bc _ mask _ => decide (mask ≠ 0#4)
  | .mfs _ _ n => decide (n = 0#12)
  | .mts _ _ n => decide (n = 0#12)
  | _ => false

/-- Whether an instruction row names FPCTL, FPSTAT, FDQRA or a register of FDQ by MFS or MTS (R111, item 5). -/
def fpRegister (n : Nat) : Bool := decide (0x200 ≤ n ∧ n ≤ 0x202) || decide (0x220 ≤ n ∧ n < 0x240)

/-- The guest register that MFS or MTS of a GVIEW number names (R166). -/
def Regs.gviewPlace (r : Regs) (n : Nat) : List Place :=
  if 0x340 ≤ n ∧ n < 0x360 then [placeIn r.guestBank (r.bank r.guestBank).wstat.cw (BitVec.ofNat 5 (n - 0x340))] else []

/-- The places an instruction row reads or writes (R111, item 3). At FAULTDEPTH 2 the fields follow R177. -/
def Regs.places (r : Regs) (i : Instr) : List Place :=
  let w := r.ctx.wstat.cw
  let fields := if r.ctx.csw.fd = 2#2 then
      (regsOf i).filterMap (fun f => if 16 ≤ f.toNat then none else if 8 ≤ f.toNat then some (placeIn r.cur w (f + 8#5)) else some (placeIn r.cur w f))
    else (regsOf i).map (placeIn r.cur w)
  fields ++ (match i with
    | .mfs _ _ n => r.gviewPlace n.toNat
    | .mts _ _ n => r.gviewPlace n.toNat
    | _ => [])

/-- Whether an instruction row touches the pending destination of a queued entry. An extension function may name any register (log entry 9). -/
def Regs.touches (r : Regs) (i : Instr) (e : FdqEntry) : Bool :=
  match i with
  | .customerExtensionFunction .. => true
  | _ =>
    if (fdqTag e.iword).isNone then usesCc i
    else (r.places i).any (fun p => decide (p = placeIn e.bank e.cw (dstOf e.iword)))

/-- The instructions before which a queue is always delivered (R111, items 1, 4 and 5). -/
def delivers (i : Instr) : Bool :=
  match i with
  | .fbar _ | .save _ | .restore _ | .call .. | .callr .. | .ret _ | .ctxsw .. | .trap .. | .rtt _ | .rttTd _ | .rttTs _ | .rttTr _ => true
  | .mfs _ _ n => fpRegister n.toNat
  | .mts _ _ n => fpRegister n.toNat
  | _ => false

/-- Whether the queue is delivered before an instruction row, as far as the row and the registers tell (R111). A single step makes the
instruction one that raises an exception (item 6). -/
def Regs.deliveryDue (r : Regs) (i : Instr) : Bool :=
  !r.deliv && !r.fdq.isEmpty &&
  (delivers i || r.fdq.any (r.touches i) || decide (32 ≤ r.fdqCount) || (r.sstep && decide (r.ctx.csw.priv = 0#2)))

/-! ### Entries at a boundary -/

/-- The address an entry at the boundary returns to. -/
def State.boundary (s : State) (c : CoreId) : Word := (s.ctx c).pc

/-- Deliver the deferred queue (R112). -/
def deliverFdq (c : CoreId) : M Unit := do
  let r ← getRegs c
  let e := if r.fdq.all (·.assist) then 0x18 else 0x17
  let info : Word := placed r.fdq.length 0 ||| placed ((r.fdq.map (·.flags)).foldl (· ||| ·) 0#5).toNat 3
  let pc := r.ctx.pc
  match ← enterSettled c e (.exception { cause := BitVec.ofNat 8 e, info := info, faddr := (r.fdq.map (·.addr)).headD 0#64, fstat := none }) pc with
  | .own => modRegs c (fun r => { r with deliv := true, fdqra := addr56 pc })
  | _ => pure ()

/-- A drain fault of the spill buffer is due at the boundary: it was recorded for the context that stands there (R161). -/
def Regs.drainDue (r : Regs) : Bool :=
  match r.drainFault with
  | some f => decide (f.bank = r.cur)
  | none => false

/-- Take a recorded drain fault of the spill buffer at the boundary (R161): at FAULTDEPTH 1 it makes a double-fault entry (R176). -/
def drainFaultEntry (c : CoreId) : M Unit := do
  let r ← getRegs c
  match r.drainFault with
  | none => pure ()
  | some f =>
    modRegs c (fun r => { r with drainFault := none, drainHeld := true })
    let _ ← enterHdt c 0x11 (.exception { cause := 0x11#8, info := f.info, faddr := f.faddr, fstat := f.fstat }) r.ctx.pc

/-- An event at ranks 1 to 3 of Table 6-7. -/
inductive Due where
  | async (a : Async)
  | intr (vec : Nat) (level : BitVec 4)
  deriving DecidableEq, Repr

/-- Whether a progress record matches a decimal or string instruction's word at `pc` (R152). -/
def progMatches (proga : Word) (word : BitVec 32) (pc : Word) : Bool :=
  proga.getLsbD 4 && decide (fieldN proga 0 4 = 1) && decide (0x20 ≤ majorOf word) && decide (majorOf word ≤ 0x23) &&
  decide (fieldN proga 8 2 = majorOf word - 0x20) && decide (fieldN proga 10 3 = word.toNat % 2048) &&
  decide (fieldN proga 48 16 = fieldN pc 2 16)

/-- Whether a decimal instruction's re-execution holds levels 1–15 (R150): a kind 0 record with RETRY that matches it. -/
def Ctx.retryHeld (x : Ctx) (word : BitVec 32) : Bool :=
  x.proga.getLsbD 5 && decide (fieldN x.proga 6 2 = 0) && progMatches x.proga word x.pc

/-- Whether levels 1–15 are held at the boundary: by the re-execution of a decimal instruction (R150), or because a REPN has made
iterations and has not ended (R68). -/
def Regs.holdsLevels (r : Regs) (word : BitVec 32) : Bool :=
  r.ctx.retryHeld word || (decide (word = 0x5C200000#32) && decide (0 < r.posU))

/-- Whether a pending interrupt is admitted (R173, R290); `held` says that levels 1–15 are held (R68, R150). -/
def State.admitted (s : State) (c : CoreId) (held : Bool) (level : BitVec 4) : Bool :=
  let x := s.ctx c
  decide (x.csw.fd = 0#2) &&
  (if level = 0#4 then !x.csw.ublk
   else decide (level.toNat ≤ x.csw.ilm.toNat) && !held && (!s.leads c || decide ((s.pair (pairOf c)).dlog.length < dlogRoom)))

/-- The highest pending interrupt that is admitted (R173). -/
def State.bestAdmitted (s : State) (c : CoreId) (held : Bool) : Option (Nat × BitVec 4) :=
  bestPending ((s.core c).ipend.filter (fun e => s.admitted c held e.2))

/-- The event at ranks 1 to 3 that is due at core `c`'s boundary (Table 6-7). While a rally replays its log, only logged events are
taken, at their positions (R289), and a re-executed window goes on to the end it had before any new one (R291). -/
def State.due (s : State) (c : CoreId) (held : Bool) : Option Due :=
  let q := s.pair (pairOf c)
  if s.leads c && !q.replay.isEmpty then
    match s.replayHead c with
    | some (.interrupt v l) => some (.intr v.toNat l)
    | some (.async a) => some (.async a)
    | _ => none
  else if s.leads c && q.rerunning then none
  else match (s.core c).async with
    | a :: _ => some (.async a)
    | [] => (s.bestAdmitted c held).map (fun e => .intr e.1 e.2)

/-- What a due event records in the delivery log (Table 11-5). -/
def Due.logged : Due → Delivered
  | .async a => .async a
  | .intr v l => .interrupt (BitVec.ofNat 8 v) l

/-- The event is over: it leaves the pending set, or the replay. -/
def Due.settle (c : CoreId) (e : Due) : M Unit := do
  if (← get).leads c && !((← get).pair (pairOf c)).replay.isEmpty then dropReplay c
  else match e with
    | .async _ => modCore c (fun k => { k with async := k.async.drop 1 })
    | .intr v _ => modCore c (fun k => { k with ipend := Tab.drop k.ipend v })

/-- Before an entry that is an interrupt or asynchronous exception, the open window of a checked pair ends and the next one begins, with
its checkpoint before the entry (Table 11-2, R288). -/
def cutWindow (c : CoreId) : M Bool := do
  let s ← get
  if s.leads c then
    if (s.pair (pairOf c)).current.isSome && !s.freshWindow (pairOf c) then endWindow (pairOf c)
    windowForNext (pairOf c)
  else return true

/-- Take a due event (R170, R173, R182, R296): any wait of the core is abandoned (R229, R348), and what an instruction that stood at the
boundary had taken is forgotten. It stays due when its entry waits. -/
def takeDue (c : CoreId) (e : Due) : M Unit := do
  if ← cutWindow c then
    let s0 ← get
    let replayed := s0.leads c && !(s0.pair (pairOf c)).replay.isEmpty
    let pc := s0.boundary c
    modPair (pairOf c) (fun q => { q with cleared := none })
    if !replayed then logDelivery c e.logged
    e.settle c
    modCore c (fun k => { k with tlbi := none, jwait := none })
    forget c
    let r ← (match e with
      | .async a => enterSettled c a.cause.toNat (.exception { cause := a.cause, info := a.info, faddr := a.faddr, fstat := none }) pc
      | .intr v l => if l = 0#4 then enterHdt c v (.interrupt true) pc else enterSettled c v (.interrupt false) pc)
    match r, e with
    | .own, _ => pure ()
    | .blocked, .async _ => pure ()
    | .blocked, .intr v l => if !replayed then modCore c (fun k => { k with ipend := Tab.put k.ipend v l })
    | .later, _ =>
      -- the wait or the drain fault comes first: the event is still due
      if replayed then modPair (pairOf c) (fun _ => s0.pair (pairOf c))
      else
        modPair (pairOf c) (fun q => { q with dlog := (s0.pair (pairOf c)).dlog, windows := lastWindow (fun w => { w with logged := w.logged - 1 }) q.windows })
        modCore c (fun k => { k with async := (s0.core c).async, ipend := (s0.core c).ipend })

/-! ### Breakpoints (R304) -/

/-- The control register bit that selects a privilege, from bit `lo` on (Table 11-14). -/
def debugPriv (ctl : Word) (lo : Nat) (priv : BitVec 2) : Bool :=
  if priv = 0#2 then ctl.getLsbD lo else if priv = 1#2 then ctl.getLsbD (lo + 1) else ctl.getLsbD (lo + 2)

/-- The first instruction breakpoint that matches at `pc` (R304). -/
def Regs.breakpoint (r : Regs) (pc : Word) : Option (Fin 4) :=
  if r.skip then none
  else (List.finRange 4).find? (fun i =>
    let d := r.ib.get i
    d.ctl.getLsbD 0 && debugPriv d.ctl 1 r.ctx.csw.priv && decide (fieldN d.addr 2 54 = fieldN pc 2 54))

/-- Rank 6 of Table 6-7: a breakpoint of the instruction at the boundary, else a single step that is due there (R304). -/
inductive DebugDue where
  | halt
  | exc (e : Exc)
  deriving DecidableEq, Repr

/-- What is due at rank 6. A step belongs to the boundary that followed its instruction: an entry made there in its stead does not take it
away (DEDUCED, log entry 83). -/
def State.debugDue (s : State) (c : CoreId) : Option DebugDue :=
  let r := s.regs c
  let step : Exc := { cause := 0x21#8, info := 2#64, faddr := 0#64, fstat := none }
  match r.breakpoint r.ctx.pc with
  | some i =>
    if (r.ib.get i).ctl.getLsbD 4 && (s.pair (pairOf c)).attached then some .halt
    else some (.exc { step with info := placed i.val 2 })
  | none => if r.stepDue = some r.ctx.pc then some (.exc step) else none

/-! ### Fetch and decode (R42, R50) -/

/-- Fetch the instruction word at `va`: its translation, and poison of the word that holds it (R35, R42). -/
def fetchWord (c : CoreId) (va : Word) : Exec Unit := do
  let t ← translate c .fetch va fetchDeny
  notDeferred c t.pa
  let l ← lift (if t.mt = .cacheable then do
      let l ← readLine c (lineOf t.pa)
      l1iFill c (lineOf t.pa)
      pure l
    else uncachedRead (lineOf t.pa))
  let w := l.get (wordIx t.pa)
  require (!decide (w.tag = 0x82#8)) (excI 0x06#8 w.val va)

/-- Fetch an instruction's words (R46, R50). -/
def fetchInsn (c : CoreId) (len : Nat) : Exec Unit := do
  let pc := (← lift (getCtx c)).pc
  fetchWord c pc
  if len = 8 then fetchWord c (pc + 4#64)

/-- Causes 0x01 and 0x02 (R48, R49). -/
def decodeCheck (n : Insn) (priv : BitVec 2) : Exec Unit := do
  require n.ok (excI 0x01#8 (n.info true) 0#64)
  require (decide (n.priv ≤ priv.toNat)) (excI 0x02#8 (n.info false) 0#64)

/-- What issuing a row looks at: its words, whether the queue is delivered before it, and whether it sets DBGCORE.SKIP. -/
structure Issued where
  insn : Insn
  delivery : Bool
  setsSkip : Bool
  deriving DecidableEq, Repr

/-- Whether an instruction row sets DBGCORE.SKIP (R304). -/
def skips : Instr → Bool
  | .debugSkip .. => true
  | .mts _ _ n => decide (n = 0x710#12)
  | _ => false

/-- An instruction row as registers `r` issue it. -/
def Regs.issued (r : Regs) (i : Instr) : Issued :=
  let n := insnOf i r.ctx
  { insn := { n with ok := n.ok && !(deepReserved i && decide (r.ctx.csw.fd = 2#2)) }, delivery := r.deliveryDue i, setsSkip := skips i }

/-- Fetch, decode and execute: the address at which execution continues. -/
def execute (c : CoreId) (n : Insn) (body : Exec Word) : Exec Word := do
  fetchInsn c (lenOf n.word)
  decodeCheck n (← lift (getCtx c)).csw.priv
  body

/-! ### Retirement -/

/-- Count events at the privilege the instruction executed with (R305). -/
def pmAt (c : CoreId) (priv : BitVec 2) (ev n : Nat) : M Unit :=
  modCore c (fun k => { k with pm := k.pm.map (fun p => p.count priv ev n) })

/-- A counter that selects an event which is no part of the model grows by a free count (log entry 22). -/
def pmFree (c : CoreId) (priv : BitVec 2) (ev : Nat) : M Unit := do
  let s ← get
  if (s.core c).pm.any (fun p => decide (fieldN p.ctl 0 8 = ev)) then
    set { s with free := s.free + 1 }
    pmAt c priv ev (Config.freeCount s.free)

/-- The events of timing (Table 11-16; log entry 22): CCLK cycles, mispredicted branches, and under CSW.QUIET the loads it holds. -/
def timedEvents (quiet : Bool) : List Nat := if quiet then [0x01, 0x03, 0x15] else [0x01, 0x03]

/-- Count the events of a list, each by a free count. -/
def pmFrees (c : CoreId) (priv : BitVec 2) : List Nat → M Unit
  | [] => pure ()
  | ev :: t => do
    pmFree c priv ev
    pmFrees c priv t

/-- The registers after an instruction retires at `to` (R62, R111, R277, R304). `old` is what they were before it. -/
def Regs.retired (r : Regs) (dest : Word) (old : Regs) (setsSkip : Bool) : Regs :=
  let r := r.showProduct
  { (r.setCtx { r.ctx with pc := dest }) with
    posN := r.posN + 1#48, posU := 0, prod := r.prodNew, prodNew := none
    fdqCount := if old.fdq.isEmpty || r.fdq.isEmpty then 0 else r.fdqCount + 1
    skip := setsSkip && r.skip
    stepDue := if decide (old.ctx.csw.priv = 0#2) then (if old.sstep then some dest else none) else r.stepDue }

/-- Retire an instruction that was issued in state `s0` and continues at `to`. -/
def retire (c : CoreId) (s0 : State) (setsSkip : Bool) (dest : Word) : M Unit := do
  let old := s0.regs c
  let priv := old.ctx.csw.priv
  modRegs c (fun r => r.retired dest old setsSkip)
  pmAt c priv 0x02 1
  pmFrees c priv (timedEvents old.ctx.csw.quiet)
  forget c
  let p := pairOf c
  if s0.leads c then
    modWindow p (fun w => { w with retired := w.retired + 1 })
    checkWindow c
    if (s0.pair p).heldmis then endWindow p
  if (s0.pair p).stepping && !(s0.pair p).heldmis then haltPair p

/-- Take an exception or tag trap of the instruction at the boundary. One that is taken ends the instruction: its fills are discarded
(R243); one that is not yet is issued again. -/
def stopTaken (c : CoreId) (s0 : State) (at_ : Word) (word : BitVec 32) (e : Stop) : M Unit := do
  if ← takeStop c at_ word e then
    squashFills c (s0.core c).miss
    forget c
  else modCore c (fun k => { k with used := 0 })

/-- A window as it stood before an attempt, `w0`, with the log entries that the attempt has made. -/
def Window.before (w : Window) : Option Window → Window
  | some w0 => { w0 with logged := w.logged }
  | none => w

/-- What an attempt of an instruction did to its core's registers and to the open window does not stand, and its stores leave a gate; the
accesses that it has performed, and their values, stay (R286, R364). -/
def undoAttempt (c : CoreId) (s0 : State) : M Unit := do
  modCore c (fun k => { k with regs := (s0.core c).regs, used := 0 })
  if s0.leads c then
    let w0 := (s0.pair (pairOf c)).windows.getLast?
    modPair (pairOf c) (fun q => { q with windows := lastWindow (·.before w0) q.windows })

/-- An attempt of an instruction that does not go on now (R252, R283, R286, R364): `s0` is the state it began in. -/
def postpone (c : CoreId) (s0 : State) : Stop → M Unit
  | .hold => set s0
  | .full => do
    set s0
    endBefore c
  | .access va n data => do
    undoAttempt c s0
    foldEvent c 2 va n
    match data with
    | some w => foldEvent c 3 w.val w.tag.toNat
    | none => pure ()
    modWindow (pairOf c) (fun w => { w with access := true })
    endWindow (pairOf c)
  | .read pa n => do
    undoAttempt c s0
    let port := s0.portOf pa
    modCore c (fun k => { k with
      pcie := k.pcie.filter (fun q => !(q.done.isSome && decide (s0.portOf q.pa = port))) ++ [{ pa := pa, n := n, done := none }] })
  | _ => modCore c (fun k => { k with used := 0 })

/-- Whether a stop raises an exception or a tag trap, before which the deferred queue is delivered (R111, item 6). -/
def Stop.raises : Stop → Bool
  | .exc _ | .tag .. | .saveDepth => true
  | _ => false

/-- How an instruction that was issued in `s0` stops. -/
def stopped (c : CoreId) (s0 : State) (word : BitVec 32) (e : Stop) : M Unit := do
  let r := s0.regs c
  if e.raises then
    if !r.deliv && !r.fdq.isEmpty then do set s0; deliverFdq c
    else stopTaken c s0 r.ctx.pc word e
  else
    match e with
    | .halt => do
      set s0
      haltPair (pairOf c)
    | .event =>
      -- an event is due at the interruption point that was reached (R67, R68)
      match (← get).due c (((← get).regs c).holdsLevels word) with
      | some d => takeDue c d
      | none => pure ()
    | e => postpone c s0 e

/-- Take what is due at rank 6: the queue is delivered first, as before any instruction that raises an exception (R111, item 6). -/
def debugTaken (c : CoreId) (s0 : State) (d : DebugDue) : M Unit := do
  let r := s0.regs c
  match d with
  | .halt => haltPair (pairOf c)
  | .exc e =>
    if !r.deliv && !r.fdq.isEmpty then deliverFdq c
    else
      if ← takeStop c r.ctx.pc 0#32 (.exc e) then
        modRegs c (fun r => { r with stepDue := if e.info = 2#64 then none else r.stepDue })

/-- Issue an instruction at a boundary where no event of ranks 1 to 3 is due, and whose window is open (Table 6-7). -/
def issueNow (c : CoreId) (row : Issued) (body : Exec Word) : M Unit := do
  let s0 ← get
  let r := s0.regs c
  if row.delivery then deliverFdq c
  else if r.drainDue then drainFaultEntry c
  else match s0.debugDue c with
    | some d => debugTaken c s0 d
    | none =>
      match ← (execute c row.insn body).run with
      | .ok dest =>
        if 4 < ((← get).regs c).fdq.length then do set s0; deliverFdq c
        else retire c s0 row.setsSkip dest
      | .error e => stopped c s0 row.insn.trapWord e

/-- Issue an instruction row whose execution is `body` (Table 6-7): an event due at the boundary is taken in its stead. During a rally, a
debugger write or a stop that the log holds at the position comes first (R289). -/
def issue (c : CoreId) (row : Issued) (body : Exec Word) : M Unit := do
  let s ← get
  if s.mayIssue c then
    match s.replayHead c with
    | some (.debugger sel w) => do
      dropReplay c
      debugApply c sel w
    | some (.stop k) => do
      dropReplay c
      modPair (pairOf c) (fun q => { q with stopDue := some k })
    | _ =>
      match s.due c ((s.regs c).holdsLevels row.insn.word) with
      | some e => takeDue c e
      | none => if ← windowReady c then issueNow c row body

/-! ### How a command acts -/

/-- Another agent has taken or shared a line that a checked pair defers until its verdict (R287): its leading core's copy is not in the state it
was in. The pair's own stores change its data alone. -/
def State.disturbed (s t : State) : Bool :=
  (List.finRange 24).any (fun p =>
    (s.pair p).windows.any (fun w =>
      match w.line with
      | some n =>
        (t.pair p).windows.any (fun v => decide (v.line = some n)) &&
        !decide (((s.core (evenOf p)).l2.look n).map (·.st) = ((t.core (evenOf p)).l2.look n).map (·.st))
      | none => false))

/-- A channel with the queues of another, and no command that waits. -/
def Channel.waited (k t : Channel) : Channel := { k with rdq := t.rdq, wrq := t.wrq, waits := false }

/-- The command's effect, unless it needs a line that is deferred, or a channel that has stopped issuing: then it waits, and changes nothing
but for the queue entry that its request takes (R287, R317). -/
def State.unlessDeferred (s t : State) : State :=
  if s.disturbed t then s
  else if t.chans.any (·.waits) then { s with chans := s.chans.zipWith Channel.waited t.chans }
  else t

/-- A command's effect: an instruction row always answers a next state. -/
def runInsn (c : CoreId) (i : Instr) (body : Exec Word) (s : State) : Host.Outcome State Fault Refusal :=
  .next (s.unlessDeferred ((issue c ((s.regs c).issued i) body).run s).2)

/-- A command that is an event outside the cores acts while the device is powered, out of reset and in a running mode. -/
def runEvent (m : M Unit) (s : State) : Host.Outcome State Fault Refusal :=
  .next (if s.alive then s.unlessDeferred (m.run s).2 else s)

/-- An event of the fabric acts at once, whatever is deferred (R256): its requests of a channel whose commands are retried are queued there, and
their effect stands as if they had been issued (DEDUCED, log entry 99). -/
def runAtOnce (m : M Unit) (s : State) : Host.Outcome State Fault Refusal :=
  .next (if s.alive then
      let t := (m.run { s with chans := s.chans.map (fun k => { k with retryact := false }) }).2
      { t with chans := s.chans.zipWith (fun k0 k => { k with waits := false, retryact := if k.st = k0.st then k0.retryact else k.retryact }) t.chans }
    else s)

/-- An instruction that continues after itself, `len` bytes on. -/
def seqBody (c : CoreId) (len : Nat) (m : Exec Unit) : Exec Word := do
  let pc := (← lift (getCtx c)).pc
  m
  return pc + BitVec.ofNat 64 len

/-- An instruction row of one word that continues after itself. -/
def runSeq (c : CoreId) (i : Instr) (m : Exec Unit) (s : State) : Host.Outcome State Fault Refusal :=
  runInsn c i (seqBody c 4 m) s

end Sys2Proof.Machine
end

