-- ==== Sys2Proof/Machine/Alu.lean ====
section
/-! DEFINITION. Raw integer arithmetic, compares, moves and constants (02, R58–R64). -/

namespace Sys2Proof.Machine

/-- Write a raw result and CSW.CC. -/
def putResult (c : CoreId) (dst : Reg) (w : TW) (cc : BitVec 2) : M Unit := do
  writeReg c dst w
  setCc c cc

/-- A raw instruction on two register operands (R58, R59): `f` gives the payload and CC. -/
def rawOp (c : CoreId) (dst a b : Reg) (f : Word → Word → Word × BitVec 2) : Exec Unit := do
  let (wa, wb) ← operands2 c rawTag a b
  let (v, cc) := f wa.val wb.val
  lift (putResult c dst { tag := rawResult wa.tag wb.tag, val := v } cc)

/-- A raw instruction on a register and an immediate, which counts as an operand with srcA's tag (R58). -/
def rawImm (c : CoreId) (dst a : Reg) (imm : Word) (f : Word → Word → Word × BitVec 2) : Exec Unit := do
  let wa ← operand1 c rawTag a
  let (v, cc) := f wa.val imm
  lift (putResult c dst { tag := rawResult wa.tag wa.tag, val := v } cc)

/-- An exact integer result, wrapped, with its CC (Table 2-7). -/
def exactResult (v : Int) : Word × BitVec 2 := (BitVec.ofInt 64 v, ccExact v)
/-- A result with the CC of its sign. -/
def signResult (v : Word) : Word × BitVec 2 := (v, ccSign v)

/-- Sum (R59). -/
def aluAdd (a b : Word) : Word × BitVec 2 := exactResult (a.toInt + b.toInt)
/-- Difference. -/
def aluSub (a b : Word) : Word × BitVec 2 := exactResult (a.toInt - b.toInt)
/-- Low product. -/
def aluMul (a b : Word) : Word × BitVec 2 := exactResult (a.toInt * b.toInt)
/-- AND. -/
def aluAnd (a b : Word) : Word × BitVec 2 := signResult (a &&& b)
/-- OR. -/
def aluOr (a b : Word) : Word × BitVec 2 := signResult (a ||| b)
/-- XOR. -/
def aluXor (a b : Word) : Word × BitVec 2 := signResult (a ^^^ b)
/-- Shift left by bits [5:0] of the count (R58). -/
def aluShl (a b : Word) : Word × BitVec 2 := signResult (a <<< (b.toNat % 64))
/-- Logical shift right. -/
def aluShr (a b : Word) : Word × BitVec 2 := signResult (a >>> (b.toNat % 64))
/-- Arithmetic shift right. -/
def aluSar (a b : Word) : Word × BitVec 2 := signResult (a.sshiftRight (b.toNat % 64))

/-- A division (R60): a zero divisor raises cause 0x19. -/
def divOp (c : CoreId) (dst a b : Reg) (f : Word → Word → Word × BitVec 2) : Exec Unit := do
  let (wa, wb) ← operands2 c rawTag a b
  require (!decide (wb.val = 0#64)) (exc0 0x19#8)
  let (v, cc) := f wa.val wb.val
  lift (putResult c dst { tag := rawResult wa.tag wb.tag, val := v } cc)

/-- Signed quotient: −2^63 by −1 returns −2^63 with CC 3 (R60). -/
def aluDiv (a b : Word) : Word × BitVec 2 := exactResult (Int.tdiv a.toInt b.toInt)
/-- Unsigned quotient. -/
def aluDivu (a b : Word) : Word × BitVec 2 := signResult (a / b)
/-- Signed remainder, with the sign of the dividend. -/
def aluRem (a b : Word) : Word × BitVec 2 := signResult (BitVec.ofInt 64 (Int.tmod a.toInt b.toInt))
/-- Unsigned remainder. -/
def aluRemu (a b : Word) : Word × BitVec 2 := signResult (a % b)

/-- The wide product PH, PL of two integers (R61). -/
def wideProduct (v : Int) : Word × Word := (BitVec.ofInt 64 (Int.fdiv v (2 ^ 64)), BitVec.ofInt 64 v)

/-- MULW and MULWU: the product becomes visible from the instruction after the next (R61, R62). -/
def wideOp (c : CoreId) (a b : Reg) (f : Word → Word → Int) : Exec Unit := do
  let (wa, wb) ← operands2 c rawTag a b
  let p := wideProduct (f wa.val wb.val)
  lift (modRegs c (fun r => { r with prodNew := some p }))
  lift (foldEvent c 1 p.1 5)
  lift (foldEvent c 1 p.2 5)

/-- A comparison of two raw operands (R64): only CSW.CC changes. -/
def compareOp (c : CoreId) (a b : Reg) (f : Word → Int) : Exec Unit := do
  let (wa, wb) ← operands2 c rawTag a b
  lift (setCc c (ccCompare (f wa.val) (f wb.val)))

/-- A comparison with an immediate. -/
def compareImm (c : CoreId) (a : Reg) (imm : Word) (f : Word → Int) : Exec Unit := do
  let wa ← operand1 c rawTag a
  lift (setCc c (ccCompare (f wa.val) (f imm)))

/-- A word as an unsigned integer. -/
def natInt (w : Word) : Int := w.toNat

/-- ADD. -/
def execAdd (c : CoreId) (dst a b : Reg) := runSeq c (.add c dst a b) (rawOp c dst a b aluAdd)
/-- SUB. -/
def execSub (c : CoreId) (dst a b : Reg) := runSeq c (.sub c dst a b) (rawOp c dst a b aluSub)
/-- AND. -/
def execAnd (c : CoreId) (dst a b : Reg) := runSeq c (.and c dst a b) (rawOp c dst a b aluAnd)
/-- OR. -/
def execOr (c : CoreId) (dst a b : Reg) := runSeq c (.or c dst a b) (rawOp c dst a b aluOr)
/-- XOR. -/
def execXor (c : CoreId) (dst a b : Reg) := runSeq c (.xor c dst a b) (rawOp c dst a b aluXor)
/-- SHL. -/
def execShl (c : CoreId) (dst a b : Reg) := runSeq c (.shl c dst a b) (rawOp c dst a b aluShl)
/-- SHR. -/
def execShr (c : CoreId) (dst a b : Reg) := runSeq c (.shr c dst a b) (rawOp c dst a b aluShr)
/-- SAR. -/
def execSar (c : CoreId) (dst a b : Reg) := runSeq c (.sar c dst a b) (rawOp c dst a b aluSar)
/-- MUL. -/
def execMul (c : CoreId) (dst a b : Reg) := runSeq c (.mul c dst a b) (rawOp c dst a b aluMul)
/-- MULW. -/
def execMulw (c : CoreId) (a b : Reg) := runSeq c (.mulw c a b) (wideOp c a b (fun x y => x.toInt * y.toInt))
/-- MULWU. -/
def execMulwu (c : CoreId) (a b : Reg) := runSeq c (.mulwu c a b) (wideOp c a b (fun x y => natInt x * natInt y))
/-- DIV. -/
def execDiv (c : CoreId) (dst a b : Reg) := runSeq c (.div c dst a b) (divOp c dst a b aluDiv)
/-- DIVU. -/
def execDivu (c : CoreId) (dst a b : Reg) := runSeq c (.divu c dst a b) (divOp c dst a b aluDivu)
/-- REM. -/
def execRem (c : CoreId) (dst a b : Reg) := runSeq c (.rem c dst a b) (divOp c dst a b aluRem)
/-- REMU. -/
def execRemu (c : CoreId) (dst a b : Reg) := runSeq c (.remu c dst a b) (divOp c dst a b aluRemu)
/-- CMP. -/
def execCmp (c : CoreId) (a b : Reg) := runSeq c (.cmp c a b) (compareOp c a b BitVec.toInt)
/-- CMPU. -/
def execCmpu (c : CoreId) (a b : Reg) := runSeq c (.cmpu c a b) (compareOp c a b natInt)

/-- CMPW: full tagged words (R64). -/
def execCmpw (c : CoreId) (a b : Reg) := runSeq c (.cmpw c a b) (do
  let (wa, wb) ← operands2 c valueTag a b
  lift (setCc c (if wa = wb then 0#2 else 2#2)))

/-- MOV (R63). -/
def execMov (c : CoreId) (dst a : Reg) := runSeq c (.mov c dst a) (do
  let wa ← operand1 c valueTag a
  lift (writeReg c dst wa))

/-- ADDI. -/
def execAddi (c : CoreId) (dst a : Reg) (imm : BitVec 16) := runSeq c (.addi c dst a imm) (rawImm c dst a (sext16 imm) aluAdd)
/-- ANDI. -/
def execAndi (c : CoreId) (dst a : Reg) (imm : BitVec 16) := runSeq c (.andi c dst a imm) (rawImm c dst a (zext16 imm) aluAnd)
/-- ORI. -/
def execOri (c : CoreId) (dst a : Reg) (imm : BitVec 16) := runSeq c (.ori c dst a imm) (rawImm c dst a (zext16 imm) aluOr)
/-- XORI. -/
def execXori (c : CoreId) (dst a : Reg) (imm : BitVec 16) := runSeq c (.xori c dst a imm) (rawImm c dst a (zext16 imm) aluXor)

/-- SHI (Table 2-3): 0 SHL, 1 SHR, 2 SAR. -/
def execShi (c : CoreId) (dst a : Reg) (kind : BitVec 2) (count : BitVec 6) := runSeq c (.shi c dst a kind count)
  (rawImm c dst a (count.setWidth 64) (if kind = 0#2 then aluShl else if kind = 1#2 then aluShr else aluSar))

/-- MULI. -/
def execMuli (c : CoreId) (dst a : Reg) (imm : BitVec 16) := runSeq c (.muli c dst a imm) (rawImm c dst a (sext16 imm) aluMul)
/-- CMPI. -/
def execCmpi (c : CoreId) (a : Reg) (imm : BitVec 16) := runSeq c (.cmpi c a imm) (compareImm c a (sext16 imm) BitVec.toInt)
/-- CMPUI. -/
def execCmpui (c : CoreId) (a : Reg) (imm : BitVec 16) := runSeq c (.cmpui c a imm) (compareImm c a (zext16 imm) natInt)

/-- LDI (R63). -/
def execLdi (c : CoreId) (dst : Reg) (imm : BitVec 16) := runSeq c (.ldi c dst imm) (lift (writeReg c dst (TW.fix (sext16 imm))))

/-- LDIH (R63). -/
def execLdih (c : CoreId) (dst : Reg) (k : BitVec 2) (imm : BitVec 16) := runSeq c (.ldih c dst k imm) (do
  let w ← operand1 c rawTag dst
  lift (writeReg c dst { w with val := setField w.val (16 * k.toNat) 16 imm.toNat }))

end Sys2Proof.Machine
end

