-- ==== Sys2Proof/Machine/Access.lean ====
section
/-! DEFINITION. Memory accesses of instructions: addresses, checks, watchpoints, loads, stores and the collector's barriers (01, 02, 09, 10). -/

namespace Sys2Proof.Machine

/-! ### Registers that form an address (R43 item 1, R27, R94) -/

/-- What an address register is for. -/
inductive AddrKind where
  /-- A base register (Table 1-3). -/
  | base
  /-- An index register (R27). -/
  | index
  /-- The cons of a list instruction (R94). -/
  | cell
  deriving DecidableEq, Repr

/-- Whether a pointer payload is well formed (R24). -/
def pointerOk (w : TW) : Bool :=
  !high56 w.val && decide (w.val.toNat % (if w.tag = 0x40#8 then 16 else 8) = 0)

/-- Whether an address register is refused with cause 0x03. -/
def addrBad (k : AddrKind) (w : TW) : Bool :=
  match k with
  | .base => if w.tag = 0x05#8 then false else if 0x40 ≤ w.tag.toNat ∧ w.tag.toNat ≤ 0x47 then !pointerOk w else true
  | .index => !rawTag w.tag
  | .cell => if w.tag = 0x40#8 then !pointerOk w else systemTag w.tag

/-- The tag trap of an address register: class 12 for a user pointer as a base, class 7 for a non-cons. -/
def addrTrap (f : Reg) (k : AddrKind) (w : TW) : Option Stop :=
  match k with
  | .base => if 0x60 ≤ w.tag.toNat ∧ w.tag.toNat ≤ 0x7F then some (.tag 12#5 (some f) none) else none
  | .index => none
  | .cell => if w.tag = 0x40#8 ∨ w.tag = 0x00#8 ∨ systemTag w.tag then none else some (.tag 7#5 none none)

/-- The checks of R43, item 1, over address registers in order. -/
def checkAddr (rs : List (Reg × AddrKind × TW)) : Exec Unit := do
  match rs.find? (fun r => decide (r.2.2.tag = 0x82#8)) with
  | some r => throw (excI 0x06#8 r.2.2.val 0#64)
  | none =>
    match rs.findSome? (fun r => addrTrap r.1 r.2.1 r.2.2) with
    | some e => throw e
    | none =>
      require (!rs.any (fun r => decide (r.2.2.tag = 0x00#8))) (exc0 0x05#8)
      require (!rs.any (fun r => addrBad r.2.1 r.2.2)) (exc0 0x03#8)

/-- B of R51: the address in a base register. -/
def baseAddr (w : TW) : Word := if pointerTag w.tag then addr56 w.val else w.val

/-- An effective address, and the index register's update in auto-increment form. -/
structure Ea where
  va : Word
  upd : Option (Reg × TW)
  deriving DecidableEq, Repr

/-- The effective address of a memory operand (R51, R57): displacements scale by `scale`, and auto-increment adds `adv`. -/
def effAddr (c : CoreId) (m : MemOp) (scale adv : Nat) : Exec Ea := do
  let x ← lift (getCtx c)
  let wb ← lift (readReg c m.rb)
  if m.am = 0#2 then
    checkAddr [(m.rb, .base, wb)]
    return { va := baseAddr wb + m.field.signExtend 64 * BitVec.ofNat 64 scale, upd := none }
  else if m.am = 1#2 then
    let ix : Reg := m.field.extractLsb' 7 5
    let wi ← lift (readReg c ix)
    checkAddr [(m.rb, .base, wb), (ix, .index, wi)]
    return { va := baseAddr wb + (wi.val <<< (m.field.extractLsb' 5 2).toNat), upd := none }
  else
    checkAddr [(m.rb, .index, wb)]
    let d : Fin 4 := ⟨(m.field.extractLsb' 10 2).toNat, (m.field.extractLsb' 10 2).isLt⟩
    let size := (x.modsize.get d).toNat
    let base := x.modbase.get d
    require (decide (0 < size) && decide (size ≤ 2 ^ 32)) (excA 0x07#8 base)
    let off := wb.val.toNat % size
    return { va := base + BitVec.ofNat 64 off
             upd := if m.am = 3#2 then some (m.rb, { wb with val := BitVec.ofNat 64 ((wb.val.toNat + adv) % size) }) else none }

/-- The index advances when the access completes (R57). -/
def advance (c : CoreId) (e : Ea) : M Unit :=
  match e.upd with
  | some (f, w) => writeReg c f w
  | none => pure ()

/-- Alignment (R52). -/
def checkAlign (va : Word) (n : Nat) : Exec Unit := require (decide (va.toNat % n = 0)) (excA 0x07#8 va)

/-- A DCS access that is not of 8 bytes is refused (R9, R445). -/
def sizeDeny (n : Nat) : PaKind → MemType → Bool := fun k _ => decide (k = .dcs) && !decide (n = 8)

/-- The bytes of an access of size code `sz`. -/
def sizeOf (sz : BitVec 2) : Nat := 2 ^ sz.toNat

/-! ### Watchpoints (R304) -/

/-- The first watchpoint that matches an access of `n` bytes at `va`, and the address of its first matching byte. -/
def Regs.watchHit (r : Regs) (write : Bool) (va : Word) (n : Nat) : Option (Fin 4 × Word) :=
  if r.skip then none
  else (List.finRange 4).findSome? (fun j =>
    let d := r.dw.get j
    let size := 2 ^ (3 + min 9 (fieldN d.ctl 8 4))
    let lo := d.addr.toNat / size * size
    if d.ctl.getLsbD 0 ∧ (if write then d.ctl.getLsbD 2 else d.ctl.getLsbD 1) ∧ debugPriv d.ctl 3 r.ctx.csw.priv ∧
        va.toNat < lo + size ∧ lo < va.toNat + n then some (j, BitVec.ofNat 64 (max lo va.toNat)) else none)

/-- A data watchpoint: cause 0x21, or a halt of an attached pair (R304, Table 11-15). -/
def watch (c : CoreId) (write : Bool) (va : Word) (n : Nat) : Exec Unit := do
  let s ← get
  let r := s.regs c
  match r.watchHit write va n with
  | none => pure ()
  | some (j, a) =>
    if (r.dw.get j).ctl.getLsbD 6 && (s.pair (pairOf c)).attached then throw .halt
    else throw (excI 0x21#8 (1#64 ||| placed j.val 2 ||| bitAt write 4) a)

/-! ### Parts of a long instruction (R162, R281, R286, R364) -/

/-- A part of an instruction from one interruption point to the next that may access devices: what stops it before it needs undone, and
the instruction stands at the point before it. -/
def part {α : Type} (c : CoreId) (m : Exec α) : Exec α := do
  let s ← get
  tryCatch m (fun e => do
    match e with
    | .halt => do
      set s
      lift (haltPair (pairOf c))
      throw .wait
    | .hold | .full | .access .. | .read .. => do
      lift (postpone c s e)
      throw .wait
    | e => throw e)

/-! ### Uncached accesses (R241, R286, R361–R364) -/

/-- An uncached access may be performed now, or an earlier attempt or a rally gives its value. -/
inductive Gate where
  | perform
  | taken (w : TW)
  deriving DecidableEq, Repr

/-- An uncached access is performed once for its instruction. A checked pair performs it after the window that ends with it has its
verdict (R286), and while the delivery log has room for its value (R283). -/
def gateAccess (c : CoreId) (va : Word) (n : Nat) (data : Option TW) : Exec Gate := do
  match ← lift (takeKept c none) with
  | some w => return .taken w
  | none =>
    let s ← get
    if s.leads c then
      let q := s.pair (pairOf c)
      require (decide (q.cleared = some (s.regs c).pos)) (.access va n data)
      require (decide (q.dlog.length < dlogRoom)) .full
    return .perform

/-- An uncached access has been performed: its value enters the delivery log (R286). -/
def performed (c : CoreId) (w : TW) : M Unit := do
  keep c w
  if (← get).leads c then
    modPair (pairOf c) (fun q => { q with cleared := none })
    logDelivery c (.uncached w)

/-- Every earlier store is visible (R241), or the access waits. -/
def drainFirst (c : CoreId) : Exec Unit := do
  let ok ← lift (drainAll c)
  require ok .hold

/-- A read beyond a root port (R362, R364): its retained completion. It is issued when it is not yet, and the core waits for it; at most 512
are outstanding in the device (R363). -/
def portRead (c : CoreId) (pa : Pa) (n : Nat) : Exec Word := do
  let k ← lift (getCore c)
  match k.pcie.find? (fun q => decide (q.pa = pa) && decide (q.n = n)) with
  | some q =>
    match q.done with
    | some v =>
      lift (modCore c (fun k => { k with pcie := k.pcie.filter (fun r => !decide (r = q)) }))
      return v
    | none => throw .hold
  | none =>
    require (decide (((← get).cores.toList.map (fun k => (k.pcie.filter (fun q => q.done.isNone)).length)).sum < 512)) .hold
    throw (.read pa n)

/-- An uncached load of `n` bytes: the raw word it delivers (R11, R286, R361). -/
def deviceLoad (c : CoreId) (va : Word) (t : Xl) (n : Nat) : Exec TW := do
  match ← gateAccess c va n none with
  | .taken w => return w
  | .perform =>
    if t.mt = .sideEffect ∨ t.kind = .dcs then drainFirst c
    let w ← (match t.kind with
      | .dcs => do return TW.raw (← lift (dcsLoad c (t.pa.toNat % 2 ^ 28)))
      | .outbound _ | .ecam => do return TW.raw (← portRead c t.pa n)
      | _ => readWordUncached c t.pa : Exec TW)
    lift (performed c w)
    return w

/-- The word that a load of `n` bytes finds at a translated address: through the caches, or uncached. A device window delivers the access's
own bytes at the low end of a raw word. A watchpoint stops an uncached load before it is performed (R304). -/
def accessWord (c : CoreId) (va : Word) (t : Xl) (n : Nat) : Exec TW := do
  match t.mt with
  | .cacheable => loadCached c va t.pa n
  | _ =>
    watch c false va n
    deviceLoad c va t n

/-- Whether an access goes to a device window, whose loads deliver their bytes directly. -/
def Xl.device (t : Xl) : Bool :=
  match t.kind with
  | .dcs | .ecam | .outbound _ => true
  | _ => false

/-! ### Checks of loaded data (Table 1-10) -/

/-- A full-word load's check of the word read at `va`. -/
def loadFull (w : TW) (va : Word) : Exec TW := do
  require (!decide (w.tag = 0x82#8)) (excI 0x06#8 w.val va)
  require (!reservedTag w.tag) (exc0 0x03#8)
  return if w.tag = 0x83#8 then TW.raw w.val else w

/-- A partial load's check of the word that holds its bytes. -/
def checkBytes (w : TW) (va : Word) : Exec Unit := do
  require (!decide (w.tag = 0x82#8)) (excI 0x06#8 w.val va)
  require (!decide (w.tag = 0x00#8)) (exc0 0x05#8)
  require (!reservedTag w.tag) (exc0 0x03#8)

/-- A load retires: its fill leaves the miss buffer (R243). -/
def loadRetires (c : CoreId) (t : Xl) : M Unit := do
  if t.mt = .cacheable then retireLoad c (lineOf t.pa)

/-! ### Logs and the write barriers (R261–R264, R446) -/

/-- A log register. -/
inductive LogReg where
  | rem | satb
  deriving DecidableEq, Repr

/-- The register's value. -/
def Ctx.log (x : Ctx) : LogReg → Word
  | .rem => x.remlog
  | .satb => x.satblog

/-- R261 step 1: FULL is clear and SIZE lies from 12 to 24. -/
def logOpen (w : Word) : Bool := !w.getLsbD 61 && decide (12 ≤ fieldN w 56 5) && decide (fieldN w 56 5 ≤ 24)

/-- A log register after an append (R261 steps 4 and 5). -/
def logNext (w : Word) : Word :=
  let size := fieldN w 56 5
  let idx := fieldN w 3 (size - 3)
  let w' := setField w 3 (size - 3) (idx + 1)
  if idx + 1 = 2 ^ (size - 3) then w' ||| 0x2000000000000000#64 else w'

/-- Append an entry whose checks have passed (R261 steps 3 to 5). -/
def logAppend (c : CoreId) (l : LogReg) (t : Xl) (e : TW) : Exec Unit := do
  let x ← lift (getCtx c)
  lift (foldEvent c 2 (addr56 (x.log l)) 8)
  lift (foldEvent c 3 e.val e.tag.toNat)
  pushStore c (.word t.pa e false)
  lift (modCtx c (fun x => match l with
    | .rem => { x with remlog := logNext x.remlog }
    | .satb => { x with satblog := logNext x.satblog }))
  lift (foldSys c (logNext (x.log l)))
  lift (pmEvent c 0x22)

/-- A pointer to a younger generation than the slot's: the store appends to the remembered set (R262). -/
def Ctx.remembers (x : Ctx) (t : Xl) (w : TW) : Bool :=
  x.gcctl.getLsbD 0 && t.span.isSome && pointerTag w.tag &&
  match x.secondPort w.val with
  | some (g, _) => decide (g < t.gen)
  | none => false

/-- An SATB store (R263, R446). -/
def Ctx.satbStore (x : Ctx) (t : Xl) : Bool :=
  x.gcctl.getLsbD 1 && t.span.isSome && decide (t.mt = .cacheable) && !t.device && decide (fieldN x.gcctl 4 2 ≤ t.gen)

/-- The store operation of `n` bytes of `w` at a translated address. -/
def storeOpOf (t : Xl) (n : Nat) (w : TW) : StoreOp :=
  if n = 8 then .word t.pa w (decide (t.mt ≠ .cacheable)) else .part t.pa n w.val (decide (t.mt ≠ .cacheable))

/-- Perform an uncached store: side-effect memory, a device window and a checked pair's store at once, after every earlier
one; another waits in the store buffer (R241, R286, R362). -/
def storeUncached (c : CoreId) (t : Xl) (n : Nat) (w : TW) : Exec Unit := do
  if t.mt = .sideEffect ∨ t.device ∨ (← get).leads c then
    drainFirst c
    match t.kind with
    | .dcs => do
      require (!(← get).debugFull (t.pa.toNat % 2 ^ 28)) .hold
      lift (dcsStore c (t.pa.toNat % 2 ^ 28) w.val)
    | .outbound _ | .ecam => lift (modPcie (fun p => { p with posted := p.posted ++ [{ addr := t.pa.setWidth 64, words := [lowBytes w.val n], bytes := n }] }))
    | _ => lift (performStore c (storeOpOf t n w))
  else pushStore c (storeOpOf t n w)

/-- A cacheable store retires (R239, Table 11-3). -/
def storeCacheable (c : CoreId) (va : Word) (t : Xl) (n : Nat) (w : TW) : Exec Unit := do
  lift (foldEvent c 2 va n)
  lift (foldEvent c 3 (lowBytes w.val n) (if n = 8 then w.tag.toNat else 5))
  pushStore c (storeOpOf t n w)

/-- What a store of `n` bytes of `w` puts in memory: a store narrower than a word makes it raw (R40). -/
def storedWord (n : Nat) (w : TW) : TW := { tag := if n = 8 then w.tag else 5#8, val := lowBytes w.val n }

/-- Put a full word or its low bytes into memory at a translated address. A checked pair's uncached store is recorded, so
that a rally never repeats it (log entry 10). -/
def putWord (c : CoreId) (va : Word) (t : Xl) (n : Nat) (w : TW) : Exec Unit := do
  match t.mt with
  | .cacheable => storeCacheable c va t n w
  | _ =>
    match ← gateAccess c va n (some (storedWord n w)) with
    | .taken _ => pure ()
    | .perform =>
      storeUncached c t n w
      lift (performed c TW.zero)

/-- Put several full words into memory, as an allocator's initialising stores. -/
def putWords (c : CoreId) : List (Word × Xl × TW) → Exec Unit
  | [] => pure ()
  | (va, t, w) :: rest => do
    putWord c va t 8 w
    putWords c rest

/-- Translate and watch the full-word stores of a list, in order. -/
def checkStores (c : CoreId) : List (Word × TW) → Exec (List (Word × Xl × TW))
  | [] => return []
  | (va, w) :: rest => do
    checkAlign va 8
    let t ← translate c .write va (sizeDeny 8)
    watch c true va 8
    let ts ← checkStores c rest
    return (va, t, w) :: ts

/-- An allocator's initialising stores (R87, R96, R259): checked in order, then made; the write barriers do not apply. -/
def initStores (c : CoreId) (ws : List (Word × TW)) : Exec Unit := do
  putWords c (← checkStores c ws)

/-- Before and after a CAS or SATB exchange of a split core every earlier store drains; a checked pair takes the line in state M and
holds it until the window that the exchange ends has its verdict (R55, R240, R287). A heal, which compares as CAS does, takes its line in the
same way (DEDUCED, log entry 86). -/
def exchangeLine (c : CoreId) (t : Xl) : Exec Unit := do
  if (← get).leads c then
    notDeferred c t.pa
    lift (writeLine c (lineOf t.pa) true id)
    lift (modWindow (pairOf c) (fun w => { w with line := some (lineOf t.pa) }))
  else drainFirst c

/-- After an exchange of a split core its store drains at once. -/
def exchangeEnds (c : CoreId) : Exec Unit := do
  if !(← get).leads c then drainFirst c

/-- A full-word store after its own faults (R262–R264): the log checks, the log appends, then the store. `old` is the old
word when the instruction has read it (CAS). -/
def storeFull (c : CoreId) (va : Word) (t : Xl) (w : TW) (old : Option TW) : Exec Unit := do
  let x ← lift (getCtx c)
  let satb := x.satbStore t
  let rem := x.remembers t w
  let k := some (w, TW.raw va)
  require (!satb || logOpen x.satblog) (.tag 10#5 none k)
  require (!rem || logOpen x.remlog) (.tag 9#5 none k)
  let ts ← (if satb then some <$> translate c .logAppend (addr56 x.satblog) onlyCacheable else pure none)
  let tr ← (if rem then some <$> translate c .logAppend (addr56 x.remlog) onlyCacheable else pure none)
  if satb then watch c false va 8
  if satb then watch c true (addr56 x.satblog) 8
  if rem then watch c true (addr56 x.remlog) 8
  watch c true va 8
  if satb || old.isSome then exchangeLine c t
  match ts with
  | some ts =>
    let o ← (match old with
      | some o => pure o
      | none => do
        let o ← readWord c t.pa
        queueWord c va t.pa 8 o
        return o : Exec TW)
    if pointerTag o.tag && (x.secondPort o.val).isSome then logAppend c .satb ts o
  | none => pure ()
  match tr with
  | some tr => logAppend c .rem tr (TW.raw va)
  | none => pure ()
  putWord c va t 8 w
  if satb || old.isSome then exchangeEnds c

/-! ### The read barrier (R265) -/

/-- Run a part of an instruction that only probes: a fault that it meets is an answer. -/
def probe {α : Type} (m : Exec α) : Exec (Option α) := tryCatch (some <$> m) (fun e => if e.raises then pure none else throw e)

/-- Whether the span of a translation is a journal ring span, to which no heal is made (R265). -/
def Ctx.inJournalSpan (x : Ctx) (t : Xl) : Bool :=
  match t.span with
  | some i => (x.spans.get i).attr.getLsbD 13
  | none => false

/-- The healing store: made only when nothing would refuse it and the slot still holds the loaded word, compared and written as one exchange
(R265, R55). -/
def heal (c : CoreId) (va : Word) (slot w : TW) : Exec Unit := do
  match ← probe (translate c .write va onlyCacheable) with
  | none => pure ()
  | some t =>
    let x ← lift (getCtx c)
    let rem := x.remembers t w
    let tr ← (if rem then (if logOpen x.remlog then probe (translate c .logAppend (addr56 x.remlog) onlyCacheable) else pure none) else pure none)
    let now ← readWord c t.pa
    if (!rem || tr.isSome) && !x.inJournalSpan t && decide (now = slot) then
      if rem then watch c true (addr56 x.remlog) 8
      watch c true va 8
      exchangeLine c t
      match tr with
      | some tr => logAppend c .rem tr (TW.raw va)
      | none => pure ()
      putWord c va t 8 w
      exchangeEnds c

/-- What a full-word load delivers (R265): the loaded word, or the forwarded pointer when the read barrier follows it. -/
def barriered (c : CoreId) (va : Word) (w : TW) : Exec TW := do
  let x ← lift (getCtx c)
  let taken := x.gcctl.getLsbD 2 && pointerTag w.tag && match x.secondPort w.val with
    | some (_, cond) => cond
    | none => false
  if !taken || !((← get).regs c).s1en then
    watch c false va 8
    return w
  else
    lift (pmEvent c 0x21)
    let first := addr56 w.val
    require (pointerOk w) (excA 0x03#8 w.val)
    let t ← queueFault c first 8 (translate c .read first (sizeDeny 8))
    let f ← accessWord c first t 8
    require (!decide (f.tag = 0x82#8)) (excI 0x06#8 f.val first)
    require (decide (f.tag = 0x81#8)) (.tag 11#5 none (some (w, TW.raw va)))
    watch c false va 8
    watch c false first 8
    let dest : TW := { tag := w.tag, val := addr56 f.val }
    heal c va w dest
    return dest

/-! ### Loads and stores (R53, R54) -/

/-- Load a full word at `va` with the read barrier: LD, HEAD and TAIL. -/
def loadWord (c : CoreId) (va : Word) : Exec TW := do
  checkAlign va 8
  let t ← queueFault c va 8 (translate c .read va (sizeDeny 8))
  let w ← accessWord c va t 8
  let w ← loadFull w va
  let w ← barriered c va w
  lift (loadRetires c t)
  return w

/-- Load `n` < 8 bytes at `va`, zero- or sign-extended (R40, R53). -/
def loadPart (c : CoreId) (va : Word) (n : Nat) (signed : Bool) : Exec TW := do
  checkAlign va n
  let t ← queueFault c va n (translate c .read va (sizeDeny n))
  let w ← accessWord c va t n
  checkBytes w va
  watch c false va n
  lift (loadRetires c t)
  let v := if t.device then w.val else w.val >>> (8 * (va.toNat % 8))
  return TW.raw (if signed then signBytes v n else lowBytes v n)

/-- LDT: the tag of the word at `va` as a fixnum (R54). -/
def loadTag (c : CoreId) (va : Word) : Exec TW := do
  checkAlign va 8
  let t ← queueFault c va 8 (translate c .read va (sizeDeny 8))
  let w ← accessWord c va t 8
  watch c false va 8
  lift (loadRetires c t)
  return TW.fix (w.tag.setWidth 64)

/-- Store the full word `w` at `va` (R53, R261–R264). -/
def storeWord (c : CoreId) (va : Word) (w : TW) : Exec Unit := do
  checkAlign va 8
  let t ← translate c .write va (sizeDeny 8)
  checkStored w
  storeFull c va t w none

/-- The word at a memory address, read only to see whether it is poison (R36). -/
def peekWord (c : CoreId) (t : Xl) : Exec TW := if t.mt = .cacheable then readWord c t.pa else readWordUncached c t.pa

/-- Store the low `n` < 8 bytes of `w` at `va` (R36, R40, R41). -/
def storePart (c : CoreId) (va : Word) (n : Nat) (w : TW) : Exec Unit := do
  checkAlign va n
  let t ← translate c .write va (sizeDeny n)
  if !t.device then
    let old ← peekWord c t
    require (!decide (old.tag = 0x82#8)) (excI 0x06#8 old.val va)
  require (!decide (w.tag = 0x82#8)) (excI 0x06#8 w.val 0#64)
  checkStored w
  watch c true va n
  putWord c va t n w

/-! ### Barriers -/

/-- Every earlier access has been performed and every earlier store is visible (R240). The window of a checked pair ends
before the instruction, and it goes on once that window is released (Table 11-2). -/
def settleAccesses (c : CoreId) : Exec Unit := do
  let s ← get
  if s.leads c then
    if s.freshWindow (pairOf c) && decide ((s.pair (pairOf c)).windows.length = 1) then pure ()
    else
      lift (endBefore c)
      throw .wait
  else drainFirst c

end Sys2Proof.Machine
end

