-- ==== Sys2Proof/Machine/Decimal.lean ====
section
/-! DEFINITION. Packed and zoned decimal fields (R117–R119, Table 5-1). -/

namespace Sys2Proof.Machine

/-- The high nibble of a byte. -/
def nibHi (b : Byte) : Nat := b.toNat / 16
/-- The low nibble of a byte. -/
def nibLo (b : Byte) : Nat := b.toNat % 16

/-- A packed sign code: whether it is minus; none when it is invalid (Table 5-1). -/
def packedSign (n : Nat) : Option Bool :=
  if n = 0xA ∨ n = 0xC ∨ n = 0xE ∨ n = 0xF then some false else if n = 0xB ∨ n = 0xD then some true else none

/-- A zoned sign code (Table 5-1). -/
def zonedSign (n : Nat) : Option Bool := if n = 3 then some false else packedSign n

/-- The lowest byte of a packed field that holds an invalid nibble (R147). -/
def packedBad : List Byte → Option Nat
  | [] => none
  | [b] => if nibHi b ≤ 9 ∧ (packedSign (nibLo b)).isSome then none else some 0
  | b :: t => if nibHi b ≤ 9 ∧ nibLo b ≤ 9 then (packedBad t).map (· + 1) else some 0

/-- The lowest byte of a zoned field that holds an invalid nibble (R118, R147). -/
def zonedBad : List Byte → Option Nat
  | [] => none
  | [b] => if nibLo b ≤ 9 ∧ (zonedSign (nibHi b)).isSome then none else some 0
  | b :: t => if nibLo b ≤ 9 ∧ nibHi b = 3 then (zonedBad t).map (· + 1) else some 0

/-- The magnitude of a packed field (R117). -/
def packedMag (acc : Nat) : List Byte → Nat
  | [] => acc
  | [b] => acc * 10 + nibHi b
  | b :: t => packedMag ((acc * 10 + nibHi b) * 10 + nibLo b) t

/-- The magnitude of a zoned field (R118). -/
def zonedMag (acc : Nat) : List Byte → Nat
  | [] => acc
  | b :: t => zonedMag (acc * 10 + nibLo b) t

/-- A magnitude with a sign. -/
def signedNat (neg : Bool) (m : Nat) : Int := if neg then -(m : Int) else (m : Int)

/-- The value of a valid packed field. -/
def packedValue (bs : List Byte) : Int :=
  signedNat ((packedSign (nibLo (bs.getLastD 0#8))).getD false) (packedMag 0 bs)

/-- The value of a valid zoned field. -/
def zonedValue (bs : List Byte) : Int :=
  signedNat ((zonedSign (nibHi (bs.getLastD 0#8))).getD false) (zonedMag 0 bs)

/-- The `k` low-order digits of a magnitude, most significant first. -/
def lowDigits (k m : Nat) : List Nat := (List.range k).map (fun i => m / 10 ^ (k - 1 - i) % 10)

/-- The significant digits of a magnitude; zero counts as one. -/
def digitCount (m : Nat) : Nat := max 1 (((List.range 200).find? (fun k => decide (m < 10 ^ k))).getD 200)

/-- The digits that a field of `len` bytes holds (R126). -/
def fieldDigits (len : Nat) (zoned : Bool) : Nat := if zoned then len else 2 * len - 1

/-- A value as a packed field of `len` bytes: its low-order digits and the preferred sign code; a zero is plus (R119, R126). -/
def packedBytes (len : Nat) (v : Int) : List Byte :=
  let m := v.natAbs % 10 ^ (2 * len - 1)
  let sign := if v < 0 ∧ m ≠ 0 then 0xD else 0xC
  let ds := lowDigits (2 * len - 1) m ++ [sign]
  (List.range len).map (fun i => BitVec.ofNat 8 (ds.getD (2 * i) 0 * 16 + ds.getD (2 * i + 1) 0))

/-- A value as a zoned field of `len` bytes (R118, R119, R126). -/
def zonedBytes (len : Nat) (v : Int) : List Byte :=
  let m := v.natAbs % 10 ^ len
  let sign := if v < 0 ∧ m ≠ 0 then 0xD else 0x3
  let ds := lowDigits len m
  (List.range len).map (fun i => BitVec.ofNat 8 ((if i + 1 = len then sign else 3) * 16 + ds.getD i 0))

/-- A value removed of its `k` low-order digits, the magnitude rounded by RND (R128). -/
def shiftRight (v : Int) (k rnd : Nat) : Int :=
  let m := v.natAbs
  let q := m / 10 ^ k
  let r := m % 10 ^ k
  let up := if rnd = 1 then decide (10 ^ k ≤ 2 * r)
    else if rnd = 2 then decide (10 ^ k < 2 * r) || (decide (10 ^ k = 2 * r) && decide (q % 2 = 1))
    else false
  signedNat (decide (v < 0)) (if up then q + 1 else q)

end Sys2Proof.Machine
end

