-- ==== Sys2Proof/Machine/Dse.lean ====
section
/-! DEFINITION. The decimal and string engine (05, R117–R154). -/

namespace Sys2Proof.Machine

/-! ### Bytes of operands (R121, R122, R145, R148) -/

/-- The word that holds the source byte at `va`, checked (R121, R122). Causes 0x05 and 0x03 name the byte for a string or edit instruction
(R146) and no address for a decimal one (Table 6-13). How many bytes one read takes is the microcode's: a field is read by words here, a
string by bytes (DESIGN CHOICE, log entry 89). -/
def dseWord (c : CoreId) (named : Bool) (va : Word) : Exec (Pa × TW) := do
  let t ← queueFault c va 1 (translate c .read va onlyCacheable)
  let w ← readWord c t.pa
  queueWord c va t.pa 1 w
  let fa := if named then va else 0#64
  require (!decide (w.tag = 0x82#8)) (excI 0x06#8 w.val va)
  require (!decide (w.tag = 0x00#8)) (excA 0x05#8 fa)
  require (!reservedTag w.tag) (excA 0x03#8 fa)
  lift (strbufFill c (lineOf t.pa))
  return (t.pa, w)

/-- `n` source bytes from `va` in ascending order; `cur` is the word that holds the first one, when it has been read. -/
def dseBytes (c : CoreId) (named : Bool) : Nat → Word → Option TW → Exec (List Byte)
  | 0, _, _ => return []
  | n + 1, va, cur => do
    let w ← (match cur with
      | some w => pure w
      | none => do return (← dseWord c named va).2 : Exec TW)
    let rest ← dseBytes c named n (va + 1#64) (if va.toNat % 8 = 7 then none else some w)
    return byteOf w.val (va.toNat % 8) :: rest

/-- A destination split into the words it touches: offset and number of bytes of each, in ascending order. -/
def wordSegs (va : Nat) (off : Nat) : Nat → Nat → List (Nat × Nat)
  | 0, _ => []
  | _ + 1, 0 => []
  | fuel + 1, n + 1 =>
    let k := min (n + 1) (8 - (va + off) % 8)
    (off, k) :: wordSegs va (off + k) fuel (n + 1 - k)

/-- The check of the `k` destination bytes at `va`, which lie in one word: poison is only replaced whole (R121, R148). -/
def dseDest (c : CoreId) (va : Word) (k : Nat) : Exec (Xl × TW) := do
  let t ← translate c .write va onlyCacheable
  let old ← peekWord c t
  require (!decide (old.tag = 0x82#8) || decide (k = 8)) (excI 0x06#8 old.val va)
  return (t, old)

/-- The checks of a list of destination words (R125). -/
def dseDests (c : CoreId) (base : Word) : List (Nat × Nat) → Exec (List (Xl × Nat × Nat))
  | [] => return []
  | (off, k) :: rest => do
    let (t, _) ← dseDest c (base + BitVec.ofNat 64 off) k
    let ts ← dseDests c base rest
    return (t, off, k) :: ts

/-- Store the bytes of one destination word (R122). -/
def dsePut (c : CoreId) (va : Word) (t : Xl) (bs : List Byte) : Exec Unit :=
  storeCacheable c va t bs.length (TW.raw (BitVec.ofNat 64 (ofBytes bs)))

/-- Store a checked destination's bytes. -/
def dsePutAll (c : CoreId) (base : Word) (bs : List Byte) : List (Xl × Nat × Nat) → Exec Unit
  | [] => pure ()
  | (t, off, k) :: rest => do
    dsePut c (base + BitVec.ofNat 64 off) t ((bs.drop off).take k)
    dsePutAll c base bs rest

/-- A DSE instruction that retires clears PROGA.V and leaves PROGB and PROGC zero (R152). -/
def progDone (c : CoreId) : M Unit :=
  modCtx c (fun x => { x with proga := x.proga &&& ~~~0x10#64, progb := 0#64, progc := 0#64 })

/-- PROGA of a record: kind, instruction word, count, address, RETRY (Table 5-12). -/
def progWord (kind : Nat) (word : BitVec 32) (cnt : Nat) (pc : Word) (retry : Bool) : Word :=
  1#64 ||| bitAt true 4 ||| bitAt retry 5 ||| placed kind 6 ||| placed ((majorOf word - 0x20) % 4) 8 |||
  placed (word.toNat % 8) 10 ||| placed (cnt % 2 ^ 32) 16 ||| placed (fieldN pc 2 16) 48

/-- A kind 0 instruction is abandoned: it leaves a record that protects its next execution (R150). -/
def abandon (c : CoreId) (word : BitVec 32) : M Unit :=
  modCtx c (fun x => { x with proga := progWord 0 word 0 x.pc true, progb := 0#64, progc := 0#64 })

/-- Whether the open window of a checked pair ends at core `c`'s next interruption point. -/
def State.endsNext (s : State) (c : CoreId) : Bool :=
  s.leads c && match (s.pair (pairOf c)).current with
  | some w => w.mustEnd (s.pair (pairOf c)).winlen.toNat ((s.regs c).posN, (s.regs c).posU + 1)
  | none => false

/-- The interruption point of a decimal instruction once its operands are read: a check window that ends there abandons it, and it restarts from
its beginning (R149, R150, R281). -/
def decPoint (c : CoreId) (word : BitVec 32) : Exec Unit := do
  if (← get).endsNext c then
    lift (abandon c word)
    points c 1
    throw .wait

/-! ### Decimal instructions (R123–R131) -/

/-- A memory field of a decimal instruction: its base register, length and format. -/
structure DecField where
  reg : Reg
  len : Nat
  zoned : Bool
  deriving DecidableEq, Repr

/-- D of an extension word. -/
def fieldD (x : XOp) : DecField := { reg := x.rd, len := x.ld, zoned := x.zd }
/-- A of an extension word. -/
def fieldA (x : XOp) : DecField := { reg := x.ra, len := x.la, zoned := x.za }
/-- B of an extension word. -/
def fieldB (x : XOp) : DecField := { reg := x.rc, len := x.lb, zoned := x.zb }

/-- The base registers of a list, checked together (R131 item 1). -/
def checkBases (c : CoreId) (rs : List Reg) : Exec Unit := do
  let r ← lift (getRegs c)
  checkAddr (rs.map (fun f => (f, .base, r.read f)))

/-- The base address in a register. -/
def baseOf (c : CoreId) (f : Reg) : Exec Word := do return baseAddr (← lift (readReg c f))

/-- The bytes of a source field. -/
def readField (c : CoreId) (f : DecField) : Exec (List Byte) := do dseBytes c false f.len (← baseOf c f.reg) none

/-- The value of a source field's bytes; cause 0x14 names the operand and the lowest bad byte (R147). -/
def fieldValue (c : CoreId) (f : DecField) (opnd : Nat) (bs : List Byte) : Exec Int := do
  let base ← baseOf c f.reg
  match (if f.zoned then zonedBad bs else packedBad bs) with
  | some i => throw (excI 0x14#8 (placed opnd 0) (base + BitVec.ofNat 64 i))
  | none => return if f.zoned then zonedValue bs else packedValue bs

/-- Watch a source field (R304). -/
def watchField (c : CoreId) (write : Bool) (f : DecField) : Exec Unit := do watch c write (← baseOf c f.reg) f.len

/-- Read the source fields of a decimal instruction in R131's order: the values of A and, when it is used, B. -/
def decSources (c : CoreId) (word : BitVec 32) (fs : List DecField) : Exec (List Int) := do
  match fs with
  | [a] =>
    let ba ← readField c a
    watchField c false a
    let va ← fieldValue c a 0 ba
    decPoint c word
    return [va]
  | [a, b] =>
    let ba ← readField c a
    let bb ← readField c b
    watchField c false a
    watchField c false b
    let va ← fieldValue c a 0 ba
    let vb ← fieldValue c b 1 bb
    decPoint c word
    return [va, vb]
  | _ => return []

/-- Write D: the destination checks, then one store (R125, R126). -/
def decDest (c : CoreId) (d : DecField) (v : Int) : Exec Unit := do
  let base ← baseOf c d.reg
  let ts ← dseDests c base (wordSegs (base.toNat % 8) 0 d.len d.len)
  watchField c true d
  dsePutAll c base (if d.zoned then zonedBytes d.len v else packedBytes d.len v) ts

/-- A result of a decimal instruction written to D, with CSW.CC (R126, R130). -/
def decResult (c : CoreId) (x : XOp) (v : Int) : Exec Unit := do
  let d := fieldD x
  let late := decide (fieldDigits d.len d.zoned < digitCount v.natAbs)
  require (!(late && x.ovt)) (exc0 0x15#8)
  decDest c d v
  lift (setCc c (if late then 3#2 else ccInt v))
  lift (progDone c)

/-- An arithmetic instruction of D, A and B (R123, R127). -/
def decBinary (c : CoreId) (word : BitVec 32) (x : XOp) (f : Int → Int → Exec Int) : Exec Unit := do
  checkBases c [x.rd, x.ra, x.rc]
  match ← decSources c word [fieldA x, fieldB x] with
  | [a, b] => decResult c x (← f a b)
  | _ => pure ()

/-- An instruction of D and A. -/
def decUnary (c : CoreId) (word : BitVec 32) (x : XOp) (f : Int → Int) : Exec Unit := do
  checkBases c [x.rd, x.ra]
  match ← decSources c word [fieldA x] with
  | [a] => decResult c x (f a)
  | _ => pure ()

/-- DDIV (R127). -/
def decDivide (rem : Bool) (a b : Int) : Exec Int := do
  require (!decide (b = 0)) (exc0 0x16#8)
  return if rem then Int.tmod a b else Int.tdiv a b

/-- DCMP. -/
def decCompare (c : CoreId) (word : BitVec 32) (x : XOp) : Exec Unit := do
  checkBases c [x.ra, x.rc]
  match ← decSources c word [fieldA x, fieldB x] with
  | [a, b] =>
    lift (setCc c (ccCompare a b))
    lift (progDone c)
  | _ => pure ()

/-- DSHR (R128). -/
def decShift (x : XOp) (a : Int) : Int :=
  if 0 ≤ x.shift then a * 10 ^ x.shift.toNat else shiftRight a (-x.shift).toNat x.rnd

/-- DCVB (R126, R129): PH:PL becomes visible to the next instruction. -/
def decToBinary (c : CoreId) (word : BitVec 32) (x : XOp) : Exec Unit := do
  checkBases c [x.ra]
  match ← decSources c word [fieldA x] with
  | [a] =>
    let late := !(decide (-(2 ^ 127) ≤ a) && decide (a < 2 ^ 127))
    require (!(late && x.ovt)) (exc0 0x15#8)
    let ph := BitVec.ofInt 64 (Int.fdiv a (2 ^ 64))
    let pl := BitVec.ofInt 64 a
    lift (modRegs c (fun r =>
      let r := r.showProduct
      r.setCtx { r.ctx with ph := ph, pl := pl }))
    lift (foldEvent c 1 ph 5)
    lift (foldEvent c 1 pl 5)
    lift (setCc c (if late then 3#2 else ccInt a))
    lift (progDone c)
  | _ => pure ()

/-- DCVD (R129). An early read of PH:PL sets CSW.EARLYPROD only when the instruction completes (R131). -/
def decFromBinary (c : CoreId) (x : XOp) : Exec Unit := do
  checkBases c [x.rd]
  let y ← lift (getCtx c)
  decResult c x (y.ph.toInt * 2 ^ 64 + (y.pl.toNat : Int))
  let _ ← lift (readProduct c true)

/-- A decimal, string or edit instruction has an extension word. -/
def runX (c : CoreId) (i : Instr) (m : Exec Unit) := runInsn c i (seqBody c 8 m)

/-- DADD. -/
def execDadd (c : CoreId) (x : XOp) := runX c (.dadd c x) (decBinary c (wordOf (.dadd c x)) x (fun a b => return a + b))
/-- DSUB. -/
def execDsub (c : CoreId) (x : XOp) := runX c (.dsub c x) (decBinary c (wordOf (.dsub c x)) x (fun a b => return a - b))
/-- DMUL. -/
def execDmul (c : CoreId) (x : XOp) := runX c (.dmul c x) (decBinary c (wordOf (.dmul c x)) x (fun a b => return a * b))
/-- DDIV. -/
def execDdiv (c : CoreId) (x : XOp) := runX c (.ddiv c x) (decBinary c (wordOf (.ddiv c x)) x (decDivide x.rem))
/-- DCMP. -/
def execDcmp (c : CoreId) (x : XOp) := runX c (.dcmp c x) (decCompare c (wordOf (.dcmp c x)) x)
/-- DSHR. -/
def execDshr (c : CoreId) (x : XOp) := runX c (.dshr c x) (decUnary c (wordOf (.dshr c x)) x (decShift x))
/-- DZAD. -/
def execDzad (c : CoreId) (x : XOp) := runX c (.dzad c x) (decUnary c (wordOf (.dzad c x)) x id)
/-- DCVB. -/
def execDcvb (c : CoreId) (x : XOp) := runX c (.dcvb c x) (decToBinary c (wordOf (.dcvb c x)) x)
/-- DCVD. -/
def execDcvd (c : CoreId) (x : XOp) := runX c (.dcvd c x) (decFromBinary c x)

/-! ### Progress (R149–R153) -/

/-- A core's microcode registers with the progress contents in m29–m31 (R192). -/
def Core.withProgress (k : Core) (a b p : Word) : Core :=
  let put (r : Vector TW 32) (i : Fin 32) (v : Word) : Vector TW 32 := r.set i.val { tag := 0x84#8, val := v } i.isLt
  { k with mregs := put (put (put k.mregs 29 a) 30 b) 31 p }

/-- A kind 1 or 2 routine keeps its progress in m29–m31 (R192). What an interruption at this boundary would copy to PROGA–PROGC stands there as
well: no other instruction sees them before this one stops. -/
def keepRecord (c : CoreId) (a b p : Word) : M Unit := do
  modCore c (fun k => k.withProgress a b p)
  modCtx c (fun x => { x with proga := a, progb := b, progc := p })

/-- Record the progress of a string instruction (R151). -/
def recordOffset (c : CoreId) (word : BitVec 32) (cnt : Nat) : M Unit := do
  let x ← getCtx c
  keepRecord c (progWord 1 word cnt x.pc false) 0#64 0#64

/-- The count at which an instruction resumes (R152). -/
def Ctx.resumeAt (x : Ctx) (word : BitVec 32) : Nat := if progMatches x.proga word x.pc then fieldN x.proga 16 32 else 0

/-! ### String instructions (R133–R138) -/

/-- A length register's value: checked as R58 checks a raw operand (R134). -/
def checkLengths (c : CoreId) (rs : List Reg) : Exec Unit := do
  let r ← lift (getRegs c)
  checkValues rawTag (rs.map r.read)
  require (rs.all (fun f => decide ((r.read f).val.toNat ≤ 0xFFFFFFFF))) (excI 0x14#8 (placed 4 0 ||| placed 1 8) 0#64)

/-- The destination word being written, with the bytes produced so far: later source reads see them (R135, R136). -/
structure Produced where
  pa : Pa
  old : TW
  lo : Nat
  bytes : List Byte
  deriving DecidableEq, Repr

/-- A source byte, seen past the bytes already produced for the current destination word. -/
def dseByte (c : CoreId) (v : Option Produced) (va : Word) : Exec Byte := do
  let k := va.toNat % 8
  let t ← translate c .read va onlyCacheable
  let seen : Option Byte := match v with
    | none => none
    | some p =>
      if p.pa.toNat / 8 = t.pa.toNat / 8 ∧ p.bytes ≠ [] then
        (if p.lo ≤ k ∧ k < p.lo + p.bytes.length then p.bytes[k - p.lo]?
         else if p.old.tag = 0x82#8 then none else some (byteOf p.old.val k))
      else none
  let b ← (match seen with
    | some b => pure b
    | none => do return byteOf (← dseWord c true va).2.val k : Exec Byte)
  watch c false va 1
  return b

/-- Produce up to `n` further bytes of a destination word at `d` from offset `i` on; it ends early at a stop, which the answer
carries. `src` gives the byte at an offset. -/
def produce (c : CoreId) (src : Option Produced → Nat → Exec Byte) (d : Word) : Nat → Nat → Produced → Exec (Produced × Option Stop)
  | 0, _, p => return (p, none)
  | n + 1, i, p => do
    match ← tryCatch (do
        let b ← src (some p) i
        watch c true (d + BitVec.ofNat 64 i) 1
        return Except.ok b) (fun e => return Except.error e) with
    | .error e => return (p, some e)
    | .ok b => produce c src d n (i + 1) { p with bytes := p.bytes ++ [b] }

/-- Move the bytes of one destination word: offsets `i` to `i + k − 1`, of which at most `cut` now. The bytes completed before a
stop are stored, unless the move covers the word, which the engine writes in one store and never half-writes (R122, R146, R148). -/
def moveWord (c : CoreId) (src : Option Produced → Nat → Exec Byte) (d : Word) (i k cut : Nat) : Exec Nat := do
  let a := d + BitVec.ofNat 64 i
  let b ← src none i
  let (t, old) ← dseDest c a k
  watch c true a 1
  let n := min k cut
  let (p, stop) ← produce c src d (n - 1) (i + 1) { pa := t.pa, old := old, lo := a.toNat % 8, bytes := [b] }
  if p.bytes.length = k || !decide (k = 8) then
    dsePut c a t p.bytes
    match stop with
    | some e => do
      let x ← lift (getCtx c)
      lift (keepRecord c (setField x.proga 16 32 (fieldN x.proga 16 32 + p.bytes.length)) x.progb x.progc)
      throw e
    | none => return p.bytes.length
  else
    match stop with
    | some e => throw e
    | none => return 0

/-- Move bytes from offset `i` up to `stop`, one destination word at a time; progress is kept after each (R146, R151). -/
def moveRun (c : CoreId) (word : BitVec 32) (src : Option Produced → Nat → Exec Byte) (d : Word) (len stop : Nat) : Nat → Nat → Exec Unit
  | 0, _ => pure ()
  | fuel + 1, i => do
    if i < stop then
      let k := min (len - i) (8 - (d.toNat + i) % 8)
      let n ← between c (do
        let n ← moveWord c src d i k (stop - i)
        if n ≠ 0 then
          lift (recordOffset c word (i + n))
          points c n
        return n)
      if n ≠ 0 then moveRun c word src d len stop fuel (i + n)
    else pure ()

/-- MVST and MVTR from the recorded offset on, up to offset `stop` (R135, R136). -/
def moveBody (c : CoreId) (word : BitVec 32) (rd rl : Reg) (src : Option Produced → Nat → Exec Byte) (stop : Nat) : Exec Unit := do
  let r ← lift (getRegs c)
  let len := (r.read rl).val.toNat
  let start := r.ctx.resumeAt word
  let d ← baseOf c rd
  lift (recordOffset c word start)
  moveRun c word src d len (min len stop) len start

/-- Byte `i` of the field whose base register is `f`. -/
def srcByte (c : CoreId) (f : Reg) (v : Option Produced) (i : Nat) : Exec Byte := do
  dseByte c v ((← baseOf c f) + BitVec.ofNat 64 i)

/-- T[A[i]] (R136). -/
def tableByte (c : CoreId) (a t : Reg) (v : Option Produced) (i : Nat) : Exec Byte := do
  let b ← srcByte c a v i
  srcByte c t v b.toNat

/-- MVST up to offset `stop`. -/
def mvstRun (c : CoreId) (word : BitVec 32) (x : XOp) (stop : Nat) : Exec Unit := do
  checkBases c [x.rd, x.ra]
  checkLengths c [x.rl1]
  moveBody c word x.rd x.rl1 (srcByte c x.ra) stop

/-- MVTR up to offset `stop`. -/
def mvtrRun (c : CoreId) (word : BitVec 32) (x : XOp) (stop : Nat) : Exec Unit := do
  checkBases c [x.rd, x.ra, x.rl2]
  checkLengths c [x.rl1]
  moveBody c word x.rd x.rl1 (tableByte c x.ra x.rl2) stop

/-- Search offsets `i` up to `stop`; the answer is the first offset at which `test` answers, with what it answers. -/
def scanRun (c : CoreId) (word : BitVec 32) (test : Nat → Exec (Option (BitVec 2))) (stop : Nat) : Nat → Nat → Exec (Option (Nat × BitVec 2))
  | 0, _ => return none
  | fuel + 1, i => do
    if i < stop then
      match ← between c (do
          let r ← test i
          if r.isNone then
            lift (recordOffset c word (i + 1))
            points c 1
          return r) with
      | some r => return some (i, r)
      | none => scanRun c word test stop fuel (i + 1)
    else return none

/-- Compare byte `i` of A and B, the shorter extended with the pad byte (R137). -/
def compareAt (c : CoreId) (x : XOp) (la lb : Nat) (i : Nat) : Exec (Option (BitVec 2)) := do
  let a ← (if i < la then srcByte c x.ra none i else pure x.byte)
  let b ← (if i < lb then srcByte c x.rc none i else pure x.byte)
  return if a = b then none else if a.toNat < b.toNat then some 1#2 else some 2#2

/-- CMPS up to offset `stop`; nothing when it has not ended there (R137). -/
def cmpsRun (c : CoreId) (word : BitVec 32) (x : XOp) (stop : Nat) : Exec Unit := do
  checkBases c [x.ra, x.rc]
  checkLengths c [x.rl1, x.rl2]
  let r ← lift (getRegs c)
  let la := (r.read x.rl1).val.toNat
  let lb := (r.read x.rl2).val.toNat
  let n := max la lb
  let start := r.ctx.resumeAt word
  lift (recordOffset c word start)
  let hit ← scanRun c word (compareAt c x la lb) (min n stop) n start
  if n ≤ stop || hit.isSome then
    let (off, cc) := hit.getD (n, 0#2)
    lift (writeReg c x.rd (TW.fix (BitVec.ofNat 64 off)))
    lift (setCc c cc)

/-- SRCH up to offset `stop` (R138). -/
def srchRun (c : CoreId) (word : BitVec 32) (x : XOp) (stop : Nat) : Exec Unit := do
  checkBases c [x.ra]
  checkLengths c [x.rl1]
  let r ← lift (getRegs c)
  let n := (r.read x.rl1).val.toNat
  let start := r.ctx.resumeAt word
  lift (recordOffset c word start)
  let hit ← scanRun c word (fun i => do
    let b ← srcByte c x.ra none i
    return if decide (b = x.byte) ≠ x.ne then some 0#2 else none) (min n stop) n start
  if n ≤ stop || hit.isSome then
    let (off, cc) := hit.getD (n, 2#2)
    lift (writeReg c x.rd (TW.fix (BitVec.ofNat 64 off)))
    lift (setCc c cc)

/-- No interruption: past every offset and picture byte. -/
def noStop : Nat := 2 ^ 33

/-- MVST. -/
def execMvst (c : CoreId) (x : XOp) := runX c (.mvst c x) (do mvstRun c (wordOf (.mvst c x)) x noStop; lift (progDone c))
/-- MVTR. -/
def execMvtr (c : CoreId) (x : XOp) := runX c (.mvtr c x) (do mvtrRun c (wordOf (.mvtr c x)) x noStop; lift (progDone c))
/-- CMPS. -/
def execCmps (c : CoreId) (x : XOp) := runX c (.cmps c x) (do cmpsRun c (wordOf (.cmps c x)) x noStop; lift (progDone c))
/-- SRCH. -/
def execSrch (c : CoreId) (x : XOp) := runX c (.srch c x) (do srchRun c (wordOf (.srch c x)) x noStop; lift (progDone c))

/-! ### Editing (R140–R144) -/

/-- A picture item (Table 5-9). -/
inductive PicItem where
  | lit (b : Byte)
  | digit | maybe | sign
  | cond (b : Byte)
  | force | next
  | float (b : Byte)
  deriving DecidableEq, Repr

/-- The item at the front of a picture and its length; none when it is malformed. `isF` is FMTF. Bytes 0xF0–0xFF stand in no row of Table 5-9
and are malformed here (DESIGN CHOICE, log entry 91). -/
def picItem (isF : Bool) : List Byte → Option (PicItem × Nat)
  | [] => none
  | b :: t =>
    let two (f : Byte → PicItem) : Option (PicItem × Nat) := match t with
      | [] => none
      | x :: _ => some (f x, 2)
    if b.toNat < 0xE0 then some (.lit b, 1)
    else if b = 0xE0#8 then some (.digit, 1)
    else if b = 0xE1#8 then some (.maybe, 1)
    else if b = 0xE3#8 then some (.sign, 1)
    else if b = 0xE4#8 then two .cond
    else if b = 0xE5#8 then some (.force, 1)
    else if b = 0xE6#8 then some (.next, 1)
    else if b = 0xE7#8 then (if isF then two .float else none)
    else if b = 0xEF#8 then two .lit
    else none

/-- The items of a picture with their offsets, up to the first malformed one, whose offset is the second part of the answer. -/
def picItems (isF : Bool) : Nat → Nat → List Byte → List (Nat × PicItem) × Option Nat
  | 0, _, _ => ([], none)
  | _ + 1, _, [] => ([], none)
  | fuel + 1, p, bs =>
    match picItem isF bs with
    | none => ([], some p)
    | some (it, n) =>
      let (rest, bad) := picItems isF fuel (p + n) (bs.drop n)
      ((p, it) :: rest, bad)

/-- Whether an item consumes a source digit. -/
def PicItem.isDigit : PicItem → Bool
  | .digit => true
  | .maybe => true
  | _ => false

/-- How many bytes an item outputs. -/
def PicItem.outputs : PicItem → Nat
  | .force => 0
  | .next => 0
  | .float _ => 0
  | _ => 1

/-- The fields of a picture: the offset of the first item, the first source byte and the number of digit items of each (R141). -/
def picFields : Nat → Nat → Nat → List (Nat × PicItem) → List (Nat × Nat × Nat)
  | p, src, d, [] => [(p, src, d)]
  | p, src, d, (q, .next) :: t => (p, src, d) :: picFields (q + 1) (src + (if d = 0 then 0 else d / 2 + 1)) 0 t
  | p, src, d, (_, it) :: t => picFields p src (if it.isDigit then d + 1 else d) t

/-- The source bytes of a field with `d` digit items (R141). -/
def fieldBytes (d : Nat) : Nat := if d = 0 then 0 else d / 2 + 1

/-- The progress of FMT and FMTF: PROGB and PROGC (Tables 5-13 and 5-14), with the picture bytes completed. -/
structure Edit where
  pos : Nat
  srcn : Nat
  sig : Bool
  neg : Bool
  fz : Bool
  fpv : Bool
  outn : Nat
  fchar : Byte
  fpos : Word
  deriving DecidableEq, Repr

/-- PROGB of a record. -/
def Edit.progb (e : Edit) : Word :=
  placed (e.srcn % 2 ^ 16) 0 ||| bitAt e.sig 16 ||| bitAt e.neg 17 ||| bitAt e.fz 18 ||| bitAt e.fpv 19 ||| placed (e.outn % 2 ^ 16) 20 |||
  placed e.fchar.toNat 36

/-- An edit state from a record's registers. -/
def Edit.ofProg (pos : Nat) (b f : Word) : Edit :=
  { pos := pos, srcn := fieldN b 0 16, sig := b.getLsbD 16, neg := b.getLsbD 17, fz := b.getLsbD 18, fpv := b.getLsbD 19, outn := fieldN b 20 16
    fchar := b.extractLsb' 36 8, fpos := addr56 f }

/-- Record the progress of an edit instruction (R151). -/
def recordEdit (c : CoreId) (word : BitVec 32) (e : Edit) : M Unit := do
  let x ← getCtx c
  keepRecord c (progWord 2 word e.pos x.pc false) e.progb e.fpos

/-- Output one byte at `a` (R146): a word that holds poison is refused, since the byte is only part of it. -/
def editOut (c : CoreId) (a : Word) (b : Byte) : Exec Unit := do
  let (t, _) ← dseDest c a 1
  watch c true a 1
  dsePut c a t [b]

/-- A nibble of the source at `ra`, by its nibble offset (R117). -/
def srcNibble (c : CoreId) (ra : Reg) (n : Nat) : Exec Nat := do
  let b ← srcByte c ra none (n / 2)
  return if n % 2 = 0 then nibHi b else nibLo b

/-- Read and validate a field's source at its start (R141, R144): SRCN, NEG and FZ. A field with both a non-zero first nibble and an invalid code
reports the first (REASON 3; DESIGN CHOICE, log entry 91). -/
def fieldStart (c : CoreId) (ra : Reg) (src d : Nat) (e : Edit) : Exec Edit := do
  if d = 0 then return { e with srcn := 2 * src, sig := false, neg := false, fz := true, fpv := false }
  else
    let a := (← baseOf c ra) + BitVec.ofNat 64 src
    let bs ← dseBytes c true (fieldBytes d) a none
    watch c false a (fieldBytes d)
    require (!(decide (d % 2 = 0) && !decide (nibHi (bs.headD 0#8) = 0))) (excI 0x14#8 (placed 3 8) a)
    match packedBad bs with
    | some i => throw (excI 0x14#8 0#64 (a + BitVec.ofNat 64 i))
    | none =>
      let v := packedMag 0 bs
      let neg := (packedSign (nibLo (bs.getLastD 0#8))).getD false && !decide (v = 0)
      return { e with srcn := 2 * src + (if d % 2 = 0 then 1 else 0), sig := false, neg := neg, fz := decide (v = 0), fpv := false }

/-- FILL is output at a suppressed position, and FMTF remembers where (R143). -/
def editFill (c : CoreId) (x : XOp) (isF : Bool) (out : Word) (e : Edit) : Exec Edit := do
  let a := out + BitVec.ofNat 64 e.outn
  editOut c a x.fill
  return { e with outn := e.outn + 1, fpv := isF || e.fpv, fpos := if isF then addr56 a else e.fpos }

/-- Output a byte that is not FILL. -/
def editByte (c : CoreId) (out : Word) (b : Byte) (e : Edit) : Exec Edit := do
  editOut c (out + BitVec.ofNat 64 e.outn) b
  return { e with outn := e.outn + 1 }

/-- A digit is output: when it turns significance on, FMTF first puts the float character over the last FILL (R143). -/
def editDigit (c : CoreId) (isF : Bool) (out : Word) (d : Nat) (e : Edit) : Exec Edit := do
  if isF && !e.sig && e.fpv then editOut c e.fpos e.fchar
  let e ← editByte c out (BitVec.ofNat 8 (0x30 + d)) e
  return { e with sig := true, srcn := e.srcn + 1 }

/-- Process one picture item (Table 5-9). -/
def editItem (c : CoreId) (x : XOp) (isF : Bool) (out : Word) (it : PicItem) (e : Edit) : Exec Edit := do
  match it with
  | .lit b => editByte c out b e
  | .digit => do
    let d ← srcNibble c x.ra e.srcn
    editDigit c isF out d e
  | .maybe => do
    let d ← srcNibble c x.ra e.srcn
    if e.sig || !decide (d = 0) then editDigit c isF out d e
    else do
      let e ← editFill c x isF out e
      return { e with srcn := e.srcn + 1 }
  | .sign =>
    if e.neg then editByte c out x.minus e
    else if x.plus = 0x00#8 then editFill c x isF out e
    else editByte c out x.plus e
  | .cond b => if e.sig then editByte c out b e else editFill c x isF out e
  | .force => return { e with sig := true }
  | .next => return { e with sig := false, fpv := false }
  | .float b => return { e with fchar := b }

/-- The number of bytes of an item. -/
def PicItem.size (it : PicItem) (first : Byte) : Nat :=
  match it with
  | .cond _ => 2
  | .float _ => 2
  | .lit _ => if first = 0xEF#8 then 2 else 1
  | _ => 1

/-- Process items from the state `e` on, up to picture byte `stop`; a field's source is read and validated at its start. -/
def editRun (c : CoreId) (word : BitVec 32) (x : XOp) (isF : Bool) (out : Word) (pic : List Byte) (fields : List (Nat × Nat × Nat))
    (stop : Nat) : List (Nat × PicItem) → Edit → Exec Edit
  | [], e => return e
  | (p, it) :: rest, e => do
    if stop ≤ p then return e
    else
      let e ← between c (do
        let e ← (match fields.find? (fun f => decide (f.1 = p)) with
          | some (_, src, d) => fieldStart c x.ra src d e
          | none => pure e : Exec Edit)
        let n := it.size (pic.getD p 0#8)
        let e ← editItem c x isF out it e
        let e := { e with pos := p + n }
        lift (recordEdit c word e)
        points c n
        return e)
      editRun c word x isF out pic fields stop rest e

/-- Whether two ranges of bytes overlap. -/
def overlaps (a n b m : Nat) : Bool := decide (0 < n) && decide (0 < m) && decide (a < b + m) && decide (b < a + n)

/-- FMT and FMTF up to picture byte `stop` (R140–R146): the edit state reached and whether the picture has ended. A picture that ends
with a next-field item ends in an empty field. -/
def fmtRun (c : CoreId) (word : BitVec 32) (x : XOp) (isF : Bool) (stop : Nat) : Exec (Edit × Bool) := do
  checkBases c [x.rd, x.ra, x.rc]
  let r ← lift (getRegs c)
  let matched := progMatches r.ctx.proga word r.ctx.pc
  let start := r.ctx.resumeAt word
  let e0 : Edit := if matched then Edit.ofProg start r.ctx.progb r.ctx.progc
    else { pos := 0, srcn := 0, sig := false, neg := false, fz := true, fpv := false, outn := 0, fchar := if isF then x.fill else 0#8, fpos := 0#64 }
  lift (recordEdit c word e0)
  let out ← baseOf c x.rd
  let src ← baseOf c x.ra
  let pb ← baseOf c x.rc
  let pic ← dseBytes c true x.plen pb none
  watch c false pb x.plen
  if 0xE0 ≤ x.fill.toNat ∧ x.fill.toNat ≤ 0xEF then
    -- OPND of this REASON is not stated: a free value
    let opnd ← lift (drawBelow 16)
    throw (excI 0x14#8 (placed opnd 0 ||| placed 2 8) 0#64)
  let (items, bad) := picItems isF (x.plen + 1) 0 pic
  match bad with
  | some p => throw (excI 0x14#8 (placed 5 0 ||| placed 5 8) (pb + BitVec.ofNat 64 p))
  | none =>
    let fields := picFields 0 0 0 items
    let srcLen := (fields.map (fun f => fieldBytes f.2.2)).sum
    let outLen := (items.map (fun i => i.2.outputs)).sum
    require (!(overlaps out.toNat outLen pb.toNat x.plen) && !(overlaps out.toNat outLen src.toNat srcLen))
      (excI 0x14#8 (placed 2 0 ||| placed 4 8) out)
    let e ← editRun c word x isF out pic fields stop (items.filter (fun i => decide (start ≤ i.1))) e0
    -- a last field without items counts as zero
    let lastEmpty := match fields.getLast? with
      | some (p, _, _) => decide (x.plen ≤ p)
      | none => true
    return (if lastEmpty then { e with neg := false, fz := true } else e, decide (x.plen ≤ e.pos))

/-- FMT and FMTF to their end: CSW.CC from the last field (R143). -/
def fmtBody (c : CoreId) (word : BitVec 32) (x : XOp) (isF : Bool) : Exec Unit := do
  let (e, _) ← fmtRun c word x isF noStop
  lift (setCc c (if e.fz then 0#2 else if e.neg then 1#2 else 2#2))
  lift (progDone c)

/-- FMT. -/
def execFmt (c : CoreId) (x : XOp) := runX c (.fmt c x) (fmtBody c (wordOf (.fmt c x)) x false)
/-- FMTF. -/
def execFmtf (c : CoreId) (x : XOp) := runX c (.fmtf c x) (fmtBody c (wordOf (.fmtf c x)) x true)

end Sys2Proof.Machine
end

