-- ==== Sys2Proof/Machine/Append.lean ====
section
/-! DEFINITION. The journal instructions JAPPEND, JWAIT and JSTAMP (14, R343–R352). -/

namespace Sys2Proof.Machine

/-- The journal sequencer is ready in READYMAP, or cause 0x1D (R347, R352). -/
def sequencerReady (c : CoreId) : Exec Unit := do
  let _ ← lift (getCore c)
  require ((← get).ready0 50) (exc0 0x1D#8)

/-- Cause 0x1C (Table 14-3). -/
def appendFault (reason ring : Nat) : Stop := excI 0x1C#8 (placed reason 0 ||| placed ring 8) 0#64

/-- A word of the ring or its control area, as JAPPEND reaches it: with write rights, never in a device window (R346). -/
def ringXl (c : CoreId) (va : Word) : Exec Xl := do
  checkAlign va 8
  translate c .jappend va shadowDeny

/-- A control word: HEAD or RELEASE. -/
def ringCount (c : CoreId) (va : Word) : Exec (BitVec 32) := do
  let t ← queueFault c va 8 (ringXl c va)
  let w ← accessWord c va t 8
  require (!decide (w.tag = 0x82#8)) (excI 0x06#8 w.val va)
  lift (loadRetires c t)
  return w.val.setWidth 32

/-- A JAPPEND store: through the store buffer, or the commit gate of a checked pair. -/
def recordStore (c : CoreId) (va : Word) (t : Xl) (w : TW) : Exec Unit := storeCacheable c va t 8 w

/-- The source bytes of a record, ascending (R346 step 2); `cur` is the word that holds the first one, when it has been read. Causes 0x05
and 0x03 name no address (Table 6-13). -/
def appendBytes (c : CoreId) : Nat → Word → Option TW → Exec (List Byte)
  | 0, _, _ => return []
  | n + 1, va, cur => do
    let w ← (match cur with
      | some w => pure w
      | none => do
        let t ← queueFault c va 1 (translate c .read va shadowDeny)
        let w ← accessWord c va t 1
        require (!decide (w.tag = 0x82#8)) (excI 0x06#8 w.val va)
        require (!decide (w.tag = 0x00#8)) (exc0 0x05#8)
        require (!reservedTag w.tag) (exc0 0x03#8)
        lift (loadRetires c t)
        return w : Exec TW)
    let rest ← appendBytes c n (va + 1#64) (if va.toNat % 8 = 7 then none else some w)
    return byteOf w.val (va.toNat % 8) :: rest

/-- The words of a record (Table 14-2). -/
def recordWords (time : Word) (epoch : BitVec 48) (len ring : Nat) (bytes : List Byte) : List TW :=
  { tag := 0x06#8, val := time } :: TW.raw (epoch.setWidth 64 ||| placed len 48 ||| placed ring 56) ::
    (List.range ((len + 7) / 8)).map (fun i => TW.raw (BitVec.ofNat 64 (ofBytes ((bytes.drop (8 * i)).take 8))))

/-- Where the words of a record lie in the ring (R346 step 6): with their addresses checked. -/
def recordPlaces (c : CoreId) (base size : Word) : Nat → List TW → Exec (List (Word × Xl × TW))
  | _, [] => return []
  | off, w :: t => do
    let va := base + BitVec.ofNat 64 (off % size.toNat)
    let x ← ringXl c va
    let rest ← recordPlaces c base size (off + 8) t
    return (va, x, w) :: rest

/-- Watch the words of a record. -/
def watchRecord (c : CoreId) : List (Word × Xl × TW) → Exec Unit
  | [] => pure ()
  | (va, _, _) :: rest => do
    watch c true va 8
    watchRecord c rest

/-- Store the words of a record. -/
def recordStores (c : CoreId) : List (Word × Xl × TW) → Exec Unit
  | [] => pure ()
  | (va, t, w) :: rest => do
    recordStore c va t w
    recordStores c rest

/-- A refusal of JAPPEND, or its wait (R347): cause 0x1C with TRAPFULL, else the instruction is issued again. -/
def appendWaits (g : Ring) (reason ring : Nat) : Stop := if g.trapfull then appendFault reason ring else .hold

/-- The stamp of a record: domain time and the core's epoch copy, which both cores of a checked pair take alike (R276, R346 step 5; DEDUCED,
log entry 92). -/
def recordStamp (c : CoreId) : Exec (Word × BitVec 48) := do
  let s ← get
  let t ← inputRead c 0xFFF#12 { tag := 0x06#8, val := jtime s }
  let e ← inputRead c 0xFFE#12 (TW.raw ((s.core c).epoch.setWidth 64))
  return (t.val, e.val.setWidth 48)

/-- JAPPEND (R346, R347). Its causes come in the order of Table 6-7: REASON 3 and 2 after step 1, then every access fault, of the source
bytes, of RELEASE and HEAD and of the stores, then watchpoints, then REASON 0 and 1. -/
def appendBody (c : CoreId) (a b : Reg) : Exec Unit := do
  let wa ← lift (readReg c a)
  checkAddr [(a, .base, wa)]
  sequencerReady c
  let wb ← operand1 c rawTag b
  let x ← lift (getCtx c)
  let ring := fieldN x.jstat 48 8
  let len := wb.val.toNat
  require (decide (1 ≤ len) && decide (len ≤ 240)) (appendFault 3 ring)
  let g := (← get).jrnl.ring ring
  require (x.jstat.getLsbD 56 && g.en && decide (ring < 255) && decide (12 ≤ g.log2.toNat) && decide (g.log2.toNat ≤ 30)) (appendFault 2 ring)
  let base := x.modbase.get 3
  let size := x.modsize.get 3
  require (decide (0 < size.toNat) && decide (size.toNat ≤ 2 ^ 32)) (excA 0x07#8 base)
  let bytes ← appendBytes c len (baseAddr wa) none
  let need := 16 + 8 * ((len + 7) / 8)
  let ctl := base + BitVec.ofNat 64 (2 ^ g.log2.toNat)
  let release ← ringCount c ctl
  let head ← ringCount c (ctl + 64#64)
  let (time, epoch) ← recordStamp c
  let places ← recordPlaces c base size (head.toNat % size.toNat) (recordWords time epoch len ring bytes)
  let th ← ringXl c (ctl + 64#64)
  watch c false (baseAddr wa) len
  watchRecord c places
  watch c true (ctl + 64#64) 8
  require (decide ((head - release).toNat + need ≤ 2 ^ g.log2.toNat)) (appendWaits g 0 ring)
  require (← get).jrnl.opened.isSome (appendWaits g 1 ring)
  let head' := head + BitVec.ofNat 32 need
  recordStores c places
  recordStore c (ctl + 64#64) th (TW.raw (head'.setWidth 64))
  lift (modCtx c (fun x => { x with jstat := setField x.jstat 0 48 epoch.toNat }))
  lift (foldSys c (← lift (getCtx c)).jstat)
  pushStore c (.notice (BitVec.ofNat 8 ring) epoch need head')

/-- JAPPEND. -/
def execJappend (c : CoreId) (a b : Reg) := runSeq c (.jappend c a b) (appendBody c a b)

/-- JWAIT (R352, Table 14-5). -/
def execJwait (c : CoreId) (a : Reg) := runSeq c (.jwait c a) (do
  sequencerReady c
  let w ← operand1 c rawTag a
  require (decide (w.val >>> 48 = 0#64)) (exc0 0x03#8)
  match (← get).jwaitCc (w.val.setWidth 48) with
  | some cc => lift (setCc c cc)
  | none =>
    lift (modCore c (fun k => { k with jwait := some w.val }))
    throw .wait)

/-- JSTAMP's value (R343): up to 3 ns behind JTIME by a free amount, and never below the core's last one. -/
def stampValue (c : CoreId) : M Word := do
  let lag ← drawBelow 4
  let s ← get
  let now := jtime s
  let v := now.toNat - lag
  let last := (s.core c).lastStamp.toNat
  let w := BitVec.ofNat 64 (if last ≤ now.toNat then max last v else v)
  modCore c (fun k => { k with lastStamp := w })
  return w

/-- JSTAMP (R72, R343): in a checked pair its value is an input (R276). -/
def execJstamp (c : CoreId) (dst : Reg) := runSeq c (.jstamp c dst) (do
  let v ← lift (stampValue c)
  let w ← inputRead c 0xFFF#12 { tag := 0x06#8, val := v }
  lift (writeReg c dst w))

end Sys2Proof.Machine
end

