-- ==== Sys2Proof/Machine/Extension.lean ====
section
/-! DEFINITION. Customer extension functions: the microsequencer on the extension area (07, R186–R199). -/

namespace Sys2Proof.Machine

/-- A 5-bit register number of the microsequencer. -/
abbrev MReg := BitVec 5

/-- Fields of a microword (Table 7-2). -/
structure Micro where
  uop : Nat
  md : MReg
  ma : MReg
  mb : MReg
  fn : BitVec 12
  imm : BitVec 17
  cond : Nat
  target : Nat
  deriving DecidableEq, Repr

/-- A microword's fields. -/
def microOf (w : BitVec 32) : Micro :=
  { uop := w.toNat / 2 ^ 27, md := w.extractLsb' 22 5, ma := w.extractLsb' 17 5, mb := w.extractLsb' 12 5, fn := w.extractLsb' 0 12
    imm := w.extractLsb' 0 17, cond := w.toNat / 2 ^ 23 % 16, target := w.toNat % 2 ^ 14 }

/-- Where the sequencer stands: its address and its stack, the newest return address first. -/
structure Seqr where
  addr : Nat
  stack : List Nat
  deriving DecidableEq, Repr

/-- How a micro-op ends. -/
inductive MicroStep where
  | goes (q : Seqr)
  | ends
  deriving DecidableEq, Repr

/-- A microcode machine check: the instruction is abandoned with the effects that R191 gives its kind (Table 7-5). -/
def microCheck {α : Type} (c : CoreId) (src addr : Nat) : Exec α := do
  let s ← get
  lift (machineCheck c (ucodeInfo src (s.readsB c) addr) 0#64)
  throw .wait

/-- An m register. -/
def mget (c : CoreId) (m : MReg) : Exec TW := do return unit (← lift (getCore c)).mregs ⟨m.toNat, m.isLt⟩
/-- Write an m register. -/
def mset (c : CoreId) (m : MReg) (w : TW) : Exec Unit := lift (modCore c (fun k => { k with mregs := setUnit k.mregs ⟨m.toNat, m.isLt⟩ w }))

/-- The flags TE, V, C, N, Z of a sum or difference (R189). -/
def microFlags (old : BitVec 5) (a b : Word) (sub : Bool) : BitVec 5 :=
  let r := if sub then a - b else a + b
  let v := if sub then a.toInt - b.toInt else a.toInt + b.toInt
  let carry := if sub then (if Config.borrowCarry then decide (a.toNat < b.toNat) else decide (b.toNat ≤ a.toNat))
    else decide (2 ^ 64 ≤ a.toNat + b.toNat)
  (old &&& 0x10#5) ||| (if decide (v = r.toInt) then 0#5 else 0x08#5) ||| (if carry then 0x04#5 else 0#5) |||
    (if r.getLsbD 63 then 0x02#5 else 0#5) ||| (if r = 0#64 then 0x01#5 else 0#5)

/-- Set the flags. -/
def setFlags (c : CoreId) (f : BitVec 5 → BitVec 5) : Exec Unit := lift (modCore c (fun k => { k with uflags := f k.uflags }))

/-- The tag of a result: fn[7:0] when fn[8] = 1, else ma's (Table 7-3). -/
def microTag (fn : BitVec 12) (a : Tag) : Tag := if fn.getLsbD 8 then fn.extractLsb' 0 8 else a

/-- Whether a condition holds (Table 7-4); none for the illegal condition 15. -/
def condHolds (f : BitVec 5) (cond : Nat) : Option Bool :=
  let z := f.getLsbD 0
  let n := f.getLsbD 1
  let cy := f.getLsbD 2
  let v := f.getLsbD 3
  let te := f.getLsbD 4
  match cond with
  | 0 => some true
  | 1 => some z
  | 2 => some !z
  | 3 => some n
  | 4 => some !n
  | 5 => some cy
  | 6 => some !cy
  | 7 => some v
  | 8 => some !v
  | 9 => some te
  | 10 => some !te
  | 11 => some (n != v)
  | 12 => some (n == v)
  | 13 => some (z || (n != v))
  | 14 => some (!z && (n == v))
  | _ => none

/-- Whether an address lies in the extension area. -/
def inArea (a : Nat) : Bool := decide (0x2C00 ≤ a) && decide (a < 0x4000)

/-- Go to a target, which must lie in the extension area (R199 rule 1). -/
def goTo (c : CoreId) (at_ dest : Nat) (stack : List Nat) : Exec MicroStep := do
  if inArea dest then return .goes { addr := dest, stack := stack } else microCheck c 2 at_

/-- The 8-byte u.ld: LD's checks without a barrier (R191). -/
def microLoad (c : CoreId) (va : Word) (n : Nat) (signed : Bool) : Exec TW := do
  if n = 8 then
    checkAlign va 8
    let t ← queueFault c va 8 (translate c .read va (sizeDeny 8))
    let w ← accessWord c va t 8
    let w ← loadFull w va
    watch c false va 8
    lift (loadRetires c t)
    return w
  else loadPart c va n signed

/-- u.st: ST's checks without the write barriers (R191). -/
def microStore (c : CoreId) (va : Word) (n : Nat) (w : TW) : Exec Unit := do
  if n = 8 then
    checkAlign va 8
    let t ← translate c .write va (sizeDeny 8)
    checkStored w
    watch c true va 8
    putWord c va t 8 w
  else storePart c va n w

/-- u.sbr: `n` bytes through the string buffer. -/
def microBytes (c : CoreId) (va : Word) (n : Nat) : Exec TW := do
  let bs ← dseBytes c true n va none
  watch c false va n
  return TW.raw (BitVec.ofNat 64 (ofBytes bs))

/-- u.sbw: the low `n` bytes of a word through the string buffer. -/
def microPutBytes (c : CoreId) (va : Word) (n : Nat) (w : TW) : Exec Unit := do
  let ts ← dseDests c va (wordSegs (va.toNat % 8) 0 n n)
  watch c true va n
  dsePutAll c va ((List.range n).map (byteOf w.val)) ts

/-- ADV is added to the CNT field of m29 (R192). -/
def advance29 (c : CoreId) (fn : BitVec 12) : Exec Unit := do
  let w ← mget c 29#5
  mset c 29#5 { w with val := setField w.val 16 32 (fieldN w.val 16 32 + (fn.extractLsb' 4 8).toNat) }

/-- u.rd of a system register obeys MFS privilege (R199 rule 3). -/
def microRead (c : CoreId) (fn : BitVec 12) (word : BitVec 32) : Exec TW := do
  if fn.getLsbD 11 then
    let n := fn.toNat % 2 ^ 11
    match sysPriv n with
    | none => throw (excI 0x01#8 (word.setWidth 64) 0#64)
    | some (r, _) =>
      require (decide (r ≤ (← lift (privOf c)).toNat)) (excI 0x02#8 (word.setWidth 64) 0#64)
      mfsValue c n
  else lift (readReg c (fn.extractLsb' 0 5))

/-- The causes that u.trap may raise in an extension routine (R199 rule 4). -/
def extensionCause (u : Nat) : Bool := u = 0x03 || u = 0x05 || u = 0x14 || u = 0x15 || u = 0x16 || u = 0x19

/-- One micro-op of an extension routine (Table 7-3). `word` is the instruction's word. u.wr and the rights of fn[2] = 1 are illegal actions of an
extension (R199 rule 2), and the step result of u.dse, whose engine accumulators the spec gives no size or steps of, is free (log entry 39).
u.fin copies any tag to dst, 0x83 included, of which R32 does not speak (DESIGN CHOICE, log entry 93). -/
def microOp (c : CoreId) (word : BitVec 32) (q : Seqr) (u : Micro) : Exec MicroStep := do
  let a ← mget c u.ma
  let b ← mget c u.mb
  let next : Seqr := { q with addr := (q.addr + 1) % 16384 }
  let seq : Exec MicroStep := return .goes next
  match u.uop with
  | 0x00 => seq
  | 0x01 => do
    mset c u.md { tag := microTag u.fn a.tag, val := a.val + b.val }
    setFlags c (fun f => microFlags f a.val b.val false)
    seq
  | 0x02 => do
    mset c u.md { tag := microTag u.fn a.tag, val := a.val - b.val }
    setFlags c (fun f => microFlags f a.val b.val true)
    seq
  | 0x03 => do
    let v := match (u.fn.extractLsb' 0 2).toNat with
      | 0 => a.val &&& b.val
      | 1 => a.val ||| b.val
      | 2 => a.val ^^^ b.val
      | _ => a.val &&& ~~~b.val
    mset c u.md { tag := microTag u.fn a.tag, val := v }
    setFlags c (fun f => (f &&& 0x1C#5) ||| (if v.getLsbD 63 then 0x02#5 else 0#5) ||| (if v = 0#64 then 0x01#5 else 0#5))
    seq
  | 0x04 => do
    let k := b.val.toNat % 64
    let v := match (u.fn.extractLsb' 0 2).toNat with
      | 0 => a.val <<< k
      | 1 => a.val >>> k
      | 2 => a.val.sshiftRight k
      | _ => if Config.rotateLeft then rotl a.val k else rotl a.val (64 - k)
    mset c u.md { tag := microTag u.fn a.tag, val := v }
    seq
  | 0x05 => do
    let p : Int := if u.fn.getLsbD 1 then a.val.toInt * b.val.toInt else (a.val.toNat : Int) * (b.val.toNat : Int)
    let t ← lift drawWord
    mset c u.md { tag := t.setWidth 8, val := if u.fn.getLsbD 0 then BitVec.ofInt 64 (Int.fdiv p (2 ^ 64)) else BitVec.ofInt 64 p }
    seq
  | 0x06 => do
    let i : Word := u.imm.signExtend 64
    mset c u.md { a with val := a.val + i }
    setFlags c (fun f => microFlags f a.val i false)
    seq
  | 0x07 => do
    let d ← mget c u.md
    let d : TW := if u.imm.getLsbD 16 then TW.raw 0#64 else d
    mset c u.md { d with val := setField d.val (16 * (u.ma.toNat % 4)) 16 (u.imm.toNat % 2 ^ 16) }
    seq
  | 0x08 => do
    mset c u.md (if u.fn.getLsbD 8 then { tag := u.fn.extractLsb' 0 8, val := a.val } else TW.raw (a.tag.setWidth 64))
    seq
  | 0x09 => do
    setFlags c (fun f => (microFlags f a.val b.val true &&& 0x0F#5) ||| (if a.tag = b.tag then 0x10#5 else 0#5))
    seq
  | 0x0A => do
    if u.fn.getLsbD 2 then microCheck c 2 q.addr
    else do
      let w ← microLoad c a.val (2 ^ (u.fn.extractLsb' 0 2).toNat) (u.fn.getLsbD 3)
      mset c u.md w
      seq
  | 0x0B => do
    if u.fn.getLsbD 2 then microCheck c 2 q.addr
    else do
      microStore c a.val (2 ^ (u.fn.extractLsb' 0 2).toNat) b
      advance29 c u.fn
      seq
  | 0x0C => do
    checkAlign a.val 8
    let t ← queueFault c a.val 8 (translate c .read a.val (sizeDeny 8))
    let w ← accessWord c a.val t 8
    watch c false a.val 8
    lift (loadRetires c t)
    mset c u.md (TW.raw (w.tag.setWidth 64))
    seq
  | 0x0D => do
    if b.val >>> 3 ≠ 0#64 then microCheck c 2 q.addr
    else do
      let w ← microBytes c a.val (b.val.toNat + 1)
      mset c u.md w
      seq
  | 0x0F => do
    if 8 ≤ u.md.toNat then microCheck c 2 q.addr
    else do
      microPutBytes c a.val (u.md.toNat + 1) b
      advance29 c u.fn
      seq
  | 0x10 => do
    let t ← lift drawWord
    let v ← lift drawWord
    mset c u.md { tag := t.setWidth 8, val := v }
    seq
  | 0x11 => do
    let w ← microRead c u.fn word
    mset c u.md w
    seq
  | 0x13 =>
    if u.fn.getLsbD 8 then
      if (u.fn.extractLsb' 0 5).toNat ≤ 13 then do
        lift (modRegs c (fun r => { r with trapinfo := a.val, faddr := b.val }))
        throw (.tag (u.fn.extractLsb' 0 5) none none)
      else microCheck c 2 q.addr
    else if extensionCause (u.fn.toNat % 256) then throw (excI (u.fn.extractLsb' 0 8) a.val b.val)
    else microCheck c 2 q.addr
  | 0x14 => do
    if u.fn.getLsbD 0 then lift (writeReg c (dstOf word) a)
    if u.fn.getLsbD 1 then lift (setCc c (b.val.setWidth 2))
    return .ends
  | 0x18 => do
    match condHolds (← lift (getCore c)).uflags u.cond with
    | none => microCheck c 2 q.addr
    | some true => goTo c q.addr u.target q.stack
    | some false => seq
  | 0x19 =>
    if 8 ≤ q.stack.length then microCheck c 3 q.addr
    else goTo c q.addr u.target (next.addr :: q.stack)
  | 0x1A =>
    if u.cond ≠ 0 ∨ u.target ≠ 0 then microCheck c 2 q.addr
    else match q.stack with
      | [] => microCheck c 3 q.addr
      | dest :: rest => return .goes { addr := dest, stack := rest }
  | 0x1B => goTo c q.addr ((a.val.toNat + u.fn.toNat) % 16384) q.stack
  | _ => microCheck c 2 q.addr

/-- The microword of an image at an address. -/
def Image.word (m : Image) (a : Nat) : BitVec 32 := if inArea a then Tab.getD m.ext (a - 0x2C00) 0#32 else Tab.getD m.std a 0#32

/-- The micro-op at the sequencer's address, when its word can be read: a bad word that no rewrite has mended raises a machine check (R193). -/
def microNext (c : CoreId) (word : BitVec 32) (m : Image) (q : Seqr) : Exec MicroStep := do
  if (← get).parityBad c q.addr then microCheck c 1 q.addr
  else microOp c word q (microOf (m.word q.addr))

/-- Run a routine for up to `n` micro-ops; the next one exceeds the budget (R199 rule 6). -/
def microRun (c : CoreId) (word : BitVec 32) (m : Image) : Nat → Seqr → Exec Unit
  | 0, q => microCheck c 4 q.addr
  | n + 1, q => do
    match ← microNext c word m q with
    | .ends => pure ()
    | .goes q => microRun c word m n q

/-- Run the first `n` micro-ops of a routine, up to its u.fin: an interruption there leaves their stores (R191, R199 rule 5). -/
def microPart (c : CoreId) (word : BitVec 32) (m : Image) : Nat → Seqr → Exec Unit
  | 0, _ => pure ()
  | n + 1, q => do
    if (microOf (m.word q.addr)).uop = 0x14 then pure ()
    else match ← microNext c word m q with
      | .ends => pure ()
      | .goes q => microPart c word m n q

/-- The entry of function `fn`: none when it is not installed (R197). -/
def Image.entry (m : Image) (fn : Nat) : Option Nat :=
  let nfn := (Tab.getD m.ext 0 0#32).toNat % 2 ^ 11
  let u := microOf (Tab.getD m.ext (1 + fn) 0#32)
  if fn < nfn ∧ u.uop = 0x18 ∧ u.cond = 0 ∧ inArea u.target then some u.target else none

/-- The m registers at a routine's entry (R186, R198): the operands in m16–m19, every other one undefined, so free; so are the flags. -/
def enterRoutine (c : CoreId) (word : BitVec 32) (a b d : TW) : M Unit := do
  let s ← get
  let base := s.free
  set { s with free := base + 65 }
  let undef (i : Nat) : TW := { tag := (Config.freeWord (base + 2 * i)).setWidth 8, val := Config.freeWord (base + 2 * i + 1) }
  modCore c (fun k => { k with
    mregs := Vector.ofFn (fun i => if i.val = 16 then a else if i.val = 17 then b else if i.val = 18 then d
      else if i.val = 19 then TW.raw (word.setWidth 64) else undef i.val)
    uflags := (Config.freeWord (base + 64)).setWidth 5 })

/-- An extension function (R74, R197–R199): `run` runs its routine; cause 0x01 when it is not installed. -/
def extensionWith (c : CoreId) (word : BitVec 32) (dst a b : Reg) (fn : BitVec 11) (run : Image → Seqr → Exec Unit) : Exec Unit := do
  match (← get).imageFor c with
  | none => throw (excI 0x01#8 (word.setWidth 64) 0#64)
  | some m =>
    match m.entry fn.toNat with
    | none => throw (excI 0x01#8 (word.setWidth 64) 0#64)
    | some at_ =>
      let wa ← lift (readReg c a)
      let wb ← lift (readReg c b)
      let wd ← lift (readReg c dst)
      lift (enterRoutine c word wa wb wd)
      run m { addr := at_, stack := [] }

/-- An extension function, whole. -/
def extensionBody (c : CoreId) (word : BitVec 32) (dst a b : Reg) (fn : BitVec 11) : Exec Unit :=
  extensionWith c word dst a b fn (fun m q => microRun c word m 1024 q)

/-- An extension function up to its `n`-th micro-op boundary. -/
def extensionPart (c : CoreId) (word : BitVec 32) (dst a b : Reg) (fn : BitVec 11) (n : Nat) : Exec Unit :=
  extensionWith c word dst a b fn (fun m q => microPart c word m (min n 1024) q)

/-- CUSTOMER_EXTENSION_FUNCTION. -/
def execCustomerExtensionFunction (c : CoreId) (dst a b : Reg) (fn : BitVec 11) :=
  runSeq c (.customerExtensionFunction c dst a b fn)
    (extensionBody c (wordOf (.customerExtensionFunction c dst a b fn)) dst a b fn)

end Sys2Proof.Machine
end

