-- ==== Sys2Proof/Machine/System.lean ====
section
/-! DEFINITION. Branches, windows, contexts, traps and returns, barriers, system registers (02 R61–R73, 06, 08 R227–R229). -/

namespace Sys2Proof.Machine

/-! ### Branches and jumps (R65) -/

/-- A branch event (Table 11-3): the target when taken. -/
def branchEvent (c : CoreId) (dest : Word) (taken : Bool) : M Unit := foldEvent c 4 (if taken then dest else 0#64) (if taken then 1 else 0)

/-- A jump to `to`. -/
def jumpTo (c : CoreId) (dest : Word) : Exec Word := do
  lift (branchEvent c dest true)
  return dest

/-- A register as a jump target (R65): raw or fixnum, a multiple of 4. -/
def jumpTarget (c : CoreId) (a : Reg) : Exec Word := do
  let w ← operand1 c rawTag a
  require (decide (w.val.toNat % 4 = 0)) (excA 0x07#8 w.val)
  return w.val

/-- The address of the executing instruction. -/
def pcOf (c : CoreId) : Exec Word := do return (← lift (getCtx c)).pc

/-- CALL and CALLR leave the return address in p7 (R65). -/
def linkP7 (c : CoreId) : Exec Unit := do
  let pc ← pcOf c
  lift (writeReg c 31#5 (TW.raw (pc + 4#64)))

/-- B. -/
def execB (c : CoreId) (off : BitVec 26) := runInsn c (.b c off) (do
  let pc ← pcOf c
  jumpTo c (pc + off.signExtend 64 * 4#64))

/-- CALL. -/
def execCall (c : CoreId) (off : BitVec 26) := runInsn c (.call c off) (do
  let pc ← pcOf c
  linkP7 c
  jumpTo c (pc + off.signExtend 64 * 4#64))

/-- BC. -/
def execBc (c : CoreId) (mask : BitVec 4) (off : BitVec 22) := runInsn c (.bc c mask off) (do
  let x ← lift (getCtx c)
  if mask.getLsbD x.csw.cc.toNat then jumpTo c (x.pc + off.signExtend 64 * 4#64)
  else
    lift (branchEvent c 0#64 false)
    return x.pc + 4#64)

/-- JMPR. -/
def execJmpr (c : CoreId) (a : Reg) := runInsn c (.jmpr c a) (do jumpTo c (← jumpTarget c a))

/-- CALLR. -/
def execCallr (c : CoreId) (a : Reg) := runInsn c (.callr c a) (do
  let dest ← jumpTarget c a
  linkP7 c
  jumpTo c dest)

/-- The check of RET against the shadow copy, made while stage 1 is enabled (R159, R163). -/
def checkShadow (c : CoreId) (dest : Word) : Exec Unit := do
  let r ← lift (getRegs c)
  if r.s1en then
    let sp := (r.ctx.shadowsp - 8#64) &&& maskAddr8
    let t ← queueFault c sp 8 (translateAs c r.ctx r.ctx.csw.priv r.ctx.csw.key .shadowRead sp shadowDeny)
    let w ← (if t.mt = .cacheable then readWord c t.pa else readWordUncached c t.pa)
    queueWord c sp t.pa 8 w
    require (!decide (w.tag = 0x82#8)) (excI 0x06#8 w.val sp)
    require (decide (w.tag = 0x83#8) && decide (w.val = dest)) (excI 0x10#8 (if w.tag = 0x83#8 then w.val else 0#64) sp)

/-- RET (R159). -/
def execRet (c : CoreId) := runInsn c (.ret c) (do
  let dest ← jumpTarget c 15#5
  checkShadow c dest
  doRestore c
  jumpTo c dest)

/-! ### Windows and contexts -/

/-- SAVE (R157). -/
def execSave (c : CoreId) := runSeq c (.save c) (doSave c)
/-- RESTORE (R158). -/
def execRestore (c : CoreId) := runSeq c (.restore c) (doRestore c)

/-- CTXSW's operands, checked (R164): the CTXID and the address of the save area. -/
def ctxswOperands (c : CoreId) (a b : Reg) : Exec (BitVec 16 × Pa) := do
  let (wa, wb) ← operands2 c rawTag a b
  require (!decide (fieldN wa.val 0 16 = 0) && decide (wa.val >>> 16 = 0#64) && decide (wb.val.toNat % 2048 = 0) && decide (wb.val >>> 52 = 0#64))
    (exc0 0x03#8)
  return (wa.val.setWidth 16, toPa wb.val)

/-- Stamps after a context switch do not fall below domain time at the switch: filling a save area takes longer than a stamp may lag (R343). -/
def Core.stampedTo (k : Core) (now : Word) : Core := { k with lastStamp := if k.lastStamp.toNat < now.toNat then now else k.lastStamp }

/-- CTXSW (R164): the address at which execution continues is the new context's. -/
def execCtxsw (c : CoreId) (a b : Reg) := runInsn c (.ctxsw c a b) (do
  let (id, csa) ← ctxswOperands c a b
  let pc ← pcOf c
  let old ← lift (getRegs c)
  contextSwitch c id csa (pc + 4#64)
  if old.ctx.id ≠ id then lift (modify (fun s => s.setCore c ((s.core c).stampedTo (jtime s))))
  let r ← lift (getRegs c)
  return if r.cur = old.cur then pc + 4#64 else r.ctx.pc)

/-! ### Traps and returns -/

/-- Whether the core goes on after an entry made inside an instruction: a triple fault has stopped it. -/
def State.goesOn (s : State) (c : CoreId) : Bool := decide ((s.core c).run = .running) || decide ((s.core c).run = .rallying)

/-- TRAP at User privilege needs UOK in a descriptor that can be read and is valid (R170). -/
def checkUok (c : CoreId) (e : Nat) (info : Word) : Exec Unit := do
  let r ← lift (getRegs c)
  if r.ctx.csw.priv = 0#2 ∧ r.ctx.csw.fd = 0#2 then
    match ← lift (readDesc c (toPa r.hdtb + BitVec.ofNat 52 (32 * e))) with
    | .ok d => require (d.invalid || d.w2.getLsbD 17) (excI 0x02#8 info 0#64)
    | .error _ => pure ()

/-- TRAP n (R73, R170): the entry is the instruction's effect. -/
def trapBody (c : CoreId) (n : BitVec 6) : Exec Word := do
  let e := 0x40 + n.toNat
  checkUok c e ((wordOf (.trap c n)).setWidth 64)
  let pc ← pcOf c
  match ← lift (enterSettled c e .trapN (pc + 4#64)) with
  | .later => throw .wait
  | _ =>
    require ((← get).goesOn c) .wait
    return (← lift (getCtx c)).pc

/-- TRAP. -/
def execTrap (c : CoreId) (n : BitVec 6) := runInsn c (.trap c n) (trapBody c n)

/-- RTT: a pending product belongs to the context that made it (R62, R172). -/
def execRtt (c : CoreId) := runInsn c (.rtt c) (do
  lift (modRegs c (·.showProduct))
  doRtt c)

/-- RTT.TD. -/
def execRttTd (c : CoreId) := runInsn c (.rttTd c) (doRttTag c 1 (wordOf (.rttTd c)))
/-- RTT.TS. -/
def execRttTs (c : CoreId) := runInsn c (.rttTs c) (doRttTag c 2 (wordOf (.rttTs c)))
/-- RTT.TR. -/
def execRttTr (c : CoreId) := runInsn c (.rttTr c) (doRttTag c 3 (wordOf (.rttTr c)))

/-! ### Barriers -/

/-- FBAR: its delivery, when a queue is pending, is made before it (R73, R111 item 1). -/
def execFbar (c : CoreId) := runSeq c (.fbar c) (pure ())

/-- MBAR (R73, R240). -/
def execMbar (c : CoreId) := runSeq c (.mbar c) (settleAccesses c)

/-- Whether a TLBI operand has only the bits that its form names (R227, Table 8-10). -/
def tlbiOperandOk (form : Nat) (v : Word) : Bool :=
  if form = 2 ∨ form = 4 then decide (v &&& ~~~0x000FFFFFFFFFF000#64 = 0#64)
  else if form = 3 then decide (v >>> 16 = 0#64)
  else decide (v = 0#64)

/-- Who acknowledges a TLBI form: every other core, and the IOMMU (48) for the forms that name it (Table 8-10, R228). Cores of a die that is
lost are dropped. -/
def tlbiReceivers (s : State) (c : CoreId) (form : Nat) : List Nat :=
  if form = 5 then []
  else (((List.finRange 48).filter (fun d => !decide (d = c) && !s.dieLost (dieOf d))).map (·.val)) ++ (if form = 3 then [] else [48])

/-- TLBI (R227, R228): the core's own entries go and the others are asked; it retires once all have acknowledged. -/
def tlbiBody (c : CoreId) (a : Reg) (form : BitVec 4) : Exec Unit := do
  let w ← operand1 c rawTag a
  require (tlbiOperandOk form.toNat w.val) (exc0 0x03#8)
  settleAccesses c
  let r ← lift (getRegs c)
  let vmid : BitVec 16 := r.s2root.setWidth 16
  lift (tlbiRemove c form.toNat w.val vmid)
  let left := tlbiReceivers (← get) c form.toNat
  if left.isEmpty then pure ()
  else
    lift (modCore c (fun k => { k with tlbi := some { form := form, operand := w.val, vmid := vmid, left := left } }))
    throw .wait

/-- TLBI. -/
def execTlbi (c : CoreId) (a : Reg) (form : BitVec 4) := runSeq c (.tlbi c a form) (tlbiBody c a form)

/-! ### System registers (R61, R73) -/

/-- MFS. -/
def execMfs (c : CoreId) (dst : Reg) (n : BitVec 12) := runSeq c (.mfs c dst n) (do
  let w ← mfsValue c n.toNat
  lift (writeReg c dst w))

/-- The source tags of MTS to register `n` (R73, R33). -/
def mtsTag (n : Nat) (t : Tag) : Bool := if n = 0x040 ∨ n = 0x041 ∨ n = 0x042 then decide (t = 0x84#8) else rawTag t

/-- MTS of register `a` to system register `n` (R73). -/
def mtsBody (c : CoreId) (a : Reg) (n : Nat) : Exec Unit := do
  let w ← operand1 c (mtsTag n) a
  mtsWrite c n w
  lift (foldEvent c 1 w.val w.tag.toNat)

/-- MTS. -/
def execMts (c : CoreId) (a : Reg) (n : BitVec 12) := runSeq c (.mts c a n) (mtsBody c a n.toNat)

/-- MFP (R61). -/
def execMfp (c : CoreId) (dst : Reg) (high : Bool) := runSeq c (.mfp c dst high) (do
  let v ← lift (readProduct c high)
  lift (writeReg c dst (TW.raw v)))

/-- MTS to HDTB (R169). -/
def execHdtbWrite (c : CoreId) (a : Reg) := runSeq c (.hdtbWrite c a) (mtsBody c a 0x001)
/-- MTS to a span register (R225). -/
def execSpanRegisterWrite (c : CoreId) (span : Fin 16) (which : BitVec 2) (a : Reg) := runSeq c (.spanRegisterWrite c span which a)
  (mtsBody c a (0x100 + 4 * span.val + which.toNat))
/-- MTS to S2ROOT (R226). -/
def execS2rootWrite (c : CoreId) (a : Reg) := runSeq c (.s2rootWrite c a) (mtsBody c a 0x140)
/-- MTS to TTINFO (R444). -/
def execTtinfoWrite (c : CoreId) (a : Reg) := runSeq c (.ttinfoWrite c a) (mtsBody c a 0x01A)
/-- MTS to PL or PH (R62). -/
def execProductRegisterWrite (c : CoreId) (high : Bool) (a : Reg) := runSeq c (.productRegisterWrite c high a)
  (mtsBody c a (if high then 0x211 else 0x210))
/-- MTS to CSW (R167). -/
def execCswWrite (c : CoreId) (a : Reg) := runSeq c (.cswWrite c a) (mtsBody c a 0x000)
/-- MTS to GCCTL (R270). -/
def execGcctlWrite (c : CoreId) (a : Reg) := runSeq c (.gcctlWrite c a) (mtsBody c a 0x404)
/-- MTS to CTXCTL with SPILL (Table 6-11). -/
def execCtxctlSpill (c : CoreId) (a : Reg) := runSeq c (.ctxctlSpill c a) (mtsBody c a 0x305)
/-- MTS to CTXCTL with DISCARD (Table 6-11). -/
def execCtxctlDiscard (c : CoreId) (a : Reg) := runSeq c (.ctxctlDiscard c a) (mtsBody c a 0x305)
/-- MTS to TLBCTL (Table 8-12). -/
def execTlbctlFlush (c : CoreId) (a : Reg) := runSeq c (.tlbctlFlush c a) (mtsBody c a 0x143)
/-- MTS to CACHECTL that clears L2EN (R248). -/
def execL2Disable (c : CoreId) (a : Reg) := runSeq c (.l2Disable c a) (mtsBody c a 0x500)
/-- MTS to CACHECTL that sets L2EN (R249). -/
def execL2Enable (c : CoreId) (a : Reg) := runSeq c (.l2Enable c a) (mtsBody c a 0x500)
/-- MTS to CACHECTL with L2FD (R250). -/
def execL2FlushAndDisable (c : CoreId) (a : Reg) := runSeq c (.l2FlushAndDisable c a) (mtsBody c a 0x500)
/-- MTS to CACHECTL that clears VCEN (Table 9-7). -/
def execVictimCacheDisable (c : CoreId) (a : Reg) := runSeq c (.victimCacheDisable c a) (mtsBody c a 0x500)
/-- MTS to CHKCTL with WINEND (R280). -/
def execWindowEndRequest (c : CoreId) (a : Reg) := runSeq c (.windowEndRequest c a) (mtsBody c a 0x600)
/-- MTS to DBGCORE (R304). -/
def execDebugSkip (c : CoreId) (a : Reg) := runSeq c (.debugSkip c a) (mtsBody c a 0x710)

end Sys2Proof.Machine
end

