-- ==== Sys2Proof/Machine/TagMem.lean ====
section
/-! DEFINITION. Tag, memory, cache and repeated instructions (02, R53–R57, R66–R71; 09, R246–R247). -/

namespace Sys2Proof.Machine

/-! ### Tags -/

/-- Whether a payload is well formed under a character or constant tag (R22). -/
def payloadOk (t : Tag) (v : Word) : Bool :=
  if t = 0x03#8 then decide (v.toNat ≤ 0x10FFFF) && !(decide (0xD800 ≤ v.toNat) && decide (v.toNat ≤ 0xDFFF))
  else if t = 0x04#8 then decide (v.toNat < 4)
  else true

/-- TAGOF (R69). -/
def execTagof (c : CoreId) (dst a : Reg) := runSeq c (.tagof c dst a) (do
  let w ← lift (readReg c a)
  lift (writeReg c dst (TW.fix (w.tag.setWidth 64))))

/-- TAGSET (R70, R22, R32, R38). -/
def execTagset (c : CoreId) (dst a : Reg) (tag : Tag) := runSeq c (.tagset c dst a tag) (do
  let w ← operand1 c valueTag a
  require (!reservedTag tag && !decide (tag = 0x83#8) && payloadOk tag w.val) (exc0 0x03#8)
  let s ← get
  lift (writeReg c dst { tag := tag, val := if tag = 0x82#8 then poisonWord s 0 0 7 else w.val }))

/-! ### Loads and stores -/

/-- LD and LDS (R53). -/
def loadBody (c : CoreId) (rt : Reg) (sz : BitVec 2) (signed : Bool) (m : MemOp) : Exec Unit := do
  let n := sizeOf sz
  let e ← effAddr c m n n
  let w ← (if n = 8 then loadWord c e.va else loadPart c e.va n signed)
  lift (writeReg c rt w)
  lift (advance c e)

/-- ST (R53). -/
def storeBody (c : CoreId) (rt : Reg) (sz : BitVec 2) (m : MemOp) : Exec Unit := do
  let n := sizeOf sz
  let e ← effAddr c m n n
  let w ← lift (readReg c rt)
  if n = 8 then storeWord c e.va w else storePart c e.va n w
  lift (advance c e)

/-- LDT (R54). -/
def loadTagBody (c : CoreId) (rt : Reg) (m : MemOp) : Exec Unit := do
  let e ← effAddr c m 8 8
  let w ← loadTag c e.va
  lift (writeReg c rt w)
  lift (advance c e)

/-- LD. -/
def execLd (c : CoreId) (rt : Reg) (sz : BitVec 2) (m : MemOp) := runSeq c (.ld c rt sz m) (loadBody c rt sz false m)
/-- LDS. -/
def execLds (c : CoreId) (rt : Reg) (sz : BitVec 2) (m : MemOp) := runSeq c (.lds c rt sz m) (loadBody c rt sz true m)
/-- ST. -/
def execSt (c : CoreId) (rt : Reg) (sz : BitVec 2) (m : MemOp) := runSeq c (.st c rt sz m) (storeBody c rt sz m)
/-- LDT. -/
def execLdt (c : CoreId) (rt : Reg) (m : MemOp) := runSeq c (.ldt c rt m) (loadTagBody c rt m)

/-- CAS (R55, R262, R263, R287): CSW.CC 0 when the word was replaced, 1 when it was not; dst receives the old word. -/
def casBody (c : CoreId) (dst a b : Reg) : Exec Unit := do
  let wa ← lift (readReg c a)
  checkAddr [(a, .base, wa)]
  let va := baseAddr wa
  checkAlign va 8
  let t ← queueFault c va 8 (translate c .cas va onlyCacheable)
  let old ← readWord c t.pa
  queueWord c va t.pa 8 old
  let d ← lift (readReg c dst)
  let w ← lift (readReg c b)
  require (!decide (old.tag = 0x82#8)) (excI 0x06#8 old.val va)
  checkValues valueTag [d]
  let out ← loadFull old va
  checkStored w
  watch c false va 8
  if old = d then
    storeFull c va t w (some old)
    lift (writeReg c dst out)
    lift (setCc c 0#2)
  else
    exchangeLine c t
    lift (writeReg c dst out)
    lift (setCc c 1#2)

/-- CAS. -/
def execCas (c : CoreId) (dst a b : Reg) := runSeq c (.cas c dst a b) (casBody c dst a b)

/-! ### Cache instructions (R71, R246, R247) -/

/-- DZL: the line becomes zero without being fetched. -/
def dzlAt (c : CoreId) (va : Word) : Exec Unit := do
  let t ← translate c .write va onlyCacheable
  let line := alignDown va 6
  watch c true line 64
  lift (foldEvent c 2 line 64)
  lift (foldEvent c 3 0#64 0)
  pushStore c (.zline t.pa)

/-- CPRE: a hint that requests the line into the L2 and never faults. -/
def cpreAt (c : CoreId) (va : Word) : Exec Unit := do
  let _ ← probe (do
    let t ← translate c .read va onlyCacheable
    let _ ← readWord c t.pa)

/-- CFLUSH: the line is written back if dirty and removed from the core's caches, after the core's earlier stores. -/
def cflushAt (c : CoreId) (va : Word) : Exec Unit := do
  let t ← translate c .read va allowAll
  if !(← get).leads c then drainFirst c
  let n := lineOf t.pa
  require (!(← get).deferredFor n c) .hold
  lift (l2Evict c n)
  lift (modCore c (fun k => k.dropL1 n))
  lift (dirRelease n c)

/-- CINV.LINE: the line is removed without being written back; in a checked pair the effect leaves by the gate (R284). -/
def cinvAt (c : CoreId) (va : Word) : Exec Unit := do
  let t ← translate c .write va allowAll
  if !(← get).leads c then drainFirst c
  if (← get).leads c then pushStore c (.drop t.pa) else lift (performStore c (.drop t.pa))

/-- A cache instruction on a memory operand (R71): the displacement scales by 8 and the index advances by 64. -/
def cacheBody (c : CoreId) (m : MemOp) (f : CoreId → Word → Exec Unit) : Exec Unit := do
  let e ← effAddr c m 8 64
  f c e.va
  lift (advance c e)

/-- CPRE does nothing when its registers fail their checks (R71). -/
def cpreBody (c : CoreId) (m : MemOp) : Exec Bool := do
  match ← probe (effAddr c m 8 64) with
  | none => return false
  | some e =>
    cpreAt c e.va
    lift (advance c e)
    return true

/-- DZL. -/
def execDzl (c : CoreId) (m : MemOp) := runSeq c (.dzl c m) (cacheBody c m dzlAt)
/-- CPRE. -/
def execCpre (c : CoreId) (m : MemOp) := runSeq c (.cpre c m) (do let _ ← cpreBody c m)
/-- CFLUSH. -/
def execCflush (c : CoreId) (m : MemOp) := runSeq c (.cflush c m) (cacheBody c m cflushAt)
/-- CINV.LINE. -/
def execCinvLine (c : CoreId) (m : MemOp) := runSeq c (.cinvLine c m) (cacheBody c m cinvAt)

/-- CINV.ALL. -/
def execCinvAll (c : CoreId) := runSeq c (.cinvAll c) (do
  if (← get).leads c then pushStore c .dropAll
  else
    drainFirst c
    lift (performStore c .dropAll))

/-- Lock the ways of a list, in order, until six are locked: the map and whether a way was refused (R247). -/
def lockWays (map : Byte) : List Nat → Byte × Bool
  | [] => (map, false)
  | w :: t =>
    if map.getLsbD w then lockWays map t
    else if ((List.range 8).filter (fun i => map.getLsbD i)).length < 6 then lockWays (map ||| BitVec.ofNat 8 (2 ^ w)) t
    else ((lockWays map t).1, true)

/-- WLOCK. -/
def execWlock (c : CoreId) (icache : Bool) (mask : Byte) := runSeq c (.wlock c icache mask) (do
  let k ← lift (getCore c)
  let (map, refused) := lockWays (if icache then k.lockI else k.lockD) (setBits mask.toNat 8)
  lift (modCore c (fun k => if icache then { k with lockI := map } else { k with lockD := map }))
  lift (setCc c (if refused then 3#2 else 0#2)))

/-- WUNLOCK. -/
def execWunlock (c : CoreId) (icache : Bool) (mask : Byte) := runSeq c (.wunlock c icache mask) (do
  lift (modCore c (fun k => if icache then { k with lockI := k.lockI &&& ~~~mask } else { k with lockD := k.lockD &&& ~~~mask }))
  lift (setCc c 0#2))

/-! ### Repeat prefixes (R66–R68) -/

/-- Under a prefix, rb's payload advances by 64 after a cache instruction and its tag is unchanged (R66). -/
def bumpBase (c : CoreId) (f : Reg) : M Unit := do
  let w ← readReg c f
  writeReg c f { w with val := w.val + 64#64 }

/-- One iteration of a repeated instruction. After CPRE, rb advances also when its translation was refused: of R66, under which rb advances
after each iteration, and R71, under which such a CPRE does nothing but for an auto-increment index, the model follows R66 (DEDUCED, log
entry 87). -/
def repIteration (c : CoreId) (w : BitVec 32) : Exec Unit := do
  let m := memOpOf w
  let rt := dstOf w
  let sz := w.extractLsb' 12 2
  let op := majorOf w
  if op = 0x11 then loadBody c rt sz false m
  else if op = 0x12 then loadBody c rt sz true m
  else if op = 0x13 then storeBody c rt sz m
  else if op = 0x14 then loadTagBody c rt m
  else if rt = 1#5 then do
    if ← cpreBody c m then lift (bumpBase c m.rb)
  else do
    cacheBody c m (if rt = 0#5 then dzlAt else if rt = 2#5 then cflushAt else cinvAt)
    lift (bumpBase c m.rb)

/-- Whether an event is due at the interruption point between two iterations under the prefix `pre` (R67, R68). -/
def repDue (c : CoreId) (pre : BitVec 32) : M Bool := do
  let s ← get
  return (s.due c ((s.regs c).holdsLevels pre)).isSome

/-- Up to `n` iterations under the prefix `pre`, LOOPCNT counting down with each; an event that is due after one is taken there
(R67, R68). -/
def repLoop (c : CoreId) (pre w : BitVec 32) : Nat → Exec Unit
  | 0 => pure ()
  | n + 1 => do
    part c (do
      repIteration c w
      lift (modCtx c (fun x => { x with loopcnt := x.loopcnt - 1#64 }))
      lift (foldSys c (← lift (getCtx c)).loopcnt)
      points c 1)
    if n ≠ 0 then
      let due ← lift (repDue c pre)
      require (!due) .event
    repLoop c pre w n

/-- The iterations a REP or REPN still has to make: all of LOOPCNT, or at most 32 with those that this execution has made. -/
def Regs.iterations (r : Regs) (bounded : Bool) : Nat :=
  if bounded then min r.ctx.loopcnt.toNat (32 - r.posU) else r.ctx.loopcnt.toNat

/-- A prefix and its instruction (R67, R68). -/
def repBody (c : CoreId) (bounded : Bool) (w : BitVec 32) : Exec Unit := do
  let r ← lift (getRegs c)
  repLoop c (if bounded then repnWord else repWord) w (r.iterations bounded)

/-- REP. -/
def execRep (c : CoreId) (follow : BitVec 32) := runInsn c (.rep c follow) (seqBody c 8 (repBody c false follow))
/-- REPN. -/
def execRepn (c : CoreId) (follow : BitVec 32) := runInsn c (.repn c follow) (seqBody c 8 (repBody c true follow))

end Sys2Proof.Machine
end

