-- ==== Sys2Proof/Machine/CoreEvents.lean ====
section
/-! DEFINITION. Events at a core: entries at a boundary or within a long instruction, background spills, waits that end (02 R67, 05 R149–R152, 06 R161–R182, 08 R228, 14 R352). -/

namespace Sys2Proof.Machine

/-! ### Interruption points within a long instruction (R67, R149–R151, R162) -/

/-- The part of CTXSW before its points, after its operand checks: frames of the bank that would be spilled, oldest first (R164). -/
def ctxswPart (c : CoreId) (a b : Reg) (n : Nat) : Exec Unit := do
  let (id, _) ← ctxswOperands c a b
  lift (modRegs c (·.showProduct))
  between c (settleFrames c 4)
  let r ← lift (getRegs c)
  let known := (List.finRange 4).any (fun b => r.usable b && decide ((r.bank b).id = id))
  if r.ctx.id ≠ id && !known && r.freeBank.isNone then
    match r.lruBank with
    | some b =>
      let x := r.bank b
      let k := if x.wstat.ow = x.wstat.cw + 1#5 then 0 else x.resident
      spillRun c b ((windowRun x.wstat.ow k).take n)
    | none => pure ()

/-- Run a string or edit instruction up to a point: what it completed keeps its effect in memory and in the progress record,
and nothing else of the context changes (R149, R151, R192). -/
def keepProgress (c : CoreId) (m : Exec Unit) : Exec Unit := do
  let x ← lift (getCtx c)
  m
  lift (modCtx c (fun y => { x with proga := y.proga, progb := y.progb, progc := y.progc }))

/-- What an instruction does before what interrupts it at its `n`-th interruption point, `n` > 0; the decimal path of the generic instructions
and JAPPEND restart from their beginning, and an extension function does so after its earlier stores (R191, R199 rule 5). -/
def partBody (c : CoreId) (i : Instr) (n : Nat) : Exec Unit := do
  let word := wordOf i
  let r ← lift (getRegs c)
  let upTo := r.ctx.resumeAt word + n
  match i with
  | .rep _ w => repLoop c repWord w (min n (r.iterations false))
  | .repn _ w => repLoop c repnWord w (min n (r.iterations true))
  | .save _ => if r.ctx.csw.fd = 1#2 then throw .saveDepth else spillStep c
  | .restore _ => fillStep c 0x12#8
  | .ret _ => do
    checkShadow c (← jumpTarget c 15#5)
    fillStep c 0x12#8
  | .rtt _ => do
    if !r.rttSelected then rttChecks c
    if r.ctx.csw.fd ≠ 2#2 && !r.rttToGuest then fillStep c 0x12#8
  | .ctxsw _ a b => ctxswPart c a b n
  | .customerExtensionFunction _ dst a b fn => extensionPart c word dst a b fn n
  | .dadd _ _ | .dsub _ _ | .dmul _ _ | .ddiv _ _ | .dcmp _ _ | .dshr _ _ | .dzad _ _ | .dcvb _ _ | .dcvd _ _ => lift (abandon c word)
  | .mvst _ x => keepProgress c (mvstRun c word x upTo)
  | .mvtr _ x => keepProgress c (mvtrRun c word x upTo)
  | .cmps _ x => keepProgress c (cmpsRun c word x upTo)
  | .srch _ x => keepProgress c (srchRun c word x upTo)
  | .fmt _ x => keepProgress c (do let _ ← fmtRun c word x false upTo)
  | .fmtf _ x => keepProgress c (do let _ ← fmtRun c word x true upTo)
  | _ => pure ()

/-- Whether levels 1–15 are held where an interrupt would be taken. At a boundary the instruction that the progress record
names is the one that stands there (R150). -/
def State.heldAt (s : State) (c : CoreId) (within : Option Within) : Bool :=
  let x := s.ctx c
  match within with
  | none => x.proga.getLsbD 4 && x.proga.getLsbD 5 && decide (fieldN x.proga 0 4 = 1) && decide (fieldN x.proga 6 2 = 0) &&
      decide (fieldN x.proga 48 16 = fieldN x.pc 2 16)
  | some w => (s.regs c).holdsLevels w.word || (decide (w.word = repnWord) && decide (0 < w.points))

/-- What goes before an instruction at core `c`'s boundary at ranks 4 to 6 (Table 6-7). -/
def State.aheadOf (s : State) (c : CoreId) (i : Instr) : Bool :=
  (s.regs c).deliveryDue i || (s.regs c).drainDue || (s.debugDue c).isSome

/-- Run the instruction at core `c`'s boundary up to its `n`-th interruption point, as what interrupts it there leaves it (R67, R149, R162, R191).
The answer is whether it stands at that point; a fault that it meets on the way is taken. -/
def cutInside (c : CoreId) (i : Instr) (n : Nat) : M Bool := do
  if !(← windowReady c) then return false
  else
    let s ← get
    let row := (s.regs c).issued i
    if s.aheadOf c i then return false
    else
      match ← (execute c row.insn (do partBody c i n; return 0#64)).run with
      | .ok _ =>
        modRegs c (fun r => { r with posU := (s.regs c).posU + n })
        forget c
        return true
      | .error e =>
        stopped c s row.insn.trapWord e
        return false

/-- The instruction that a core may be inside of: it issues one, whose words are given. -/
def State.inside (s : State) (c : CoreId) (w : Within) : Option Instr :=
  if w.points = 0 || !s.mayIssue c then none else decodeInsn c w.word w.ext

/-- Take the interrupt that is due, at the boundary or after `w.points` interruption points of an instruction (R173, R162). -/
def takeInterrupt (c : CoreId) (within : Option Within) : M Unit := do
  let s ← get
  let n := (within.map (·.points)).getD 0
  let there := s.setRegs c { s.regs c with posU := (s.regs c).posU + n }
  match there.due c (s.heldAt c within) with
  | none => pure ()
  | some (.async _) => pure ()
  | some e =>
    match within.bind (s.inside c) with
    | none => takeDue c e
    | some i => if ← cutInside c i n then takeDue c e

/-! ### Rows -/

/-- An event at core `c`'s boundary acts when the core can make progress, and waits for a line that a pair defers (R287). -/
def runBoundary (c : CoreId) (m : M Unit) (s : State) : Host.Outcome State Fault Refusal :=
  .next (if s.mayRun c then s.unlessDeferred (m.run s).2 else s)

/-- INTERRUPT_ENTRY (R173). -/
def execInterruptEntry (c : CoreId) (within : Option Within) := runBoundary c (takeInterrupt c within)

/-- An asynchronous exception of one cause, when it is the event due. -/
def takeAsync (c : CoreId) (cause : BitVec 8) : M Unit := do
  match (← get).due c false with
  | some (.async a) => if a.cause = cause then takeDue c (.async a)
  | _ => pure ()

/-- MACHINE_CHECK_ENTRY (R182). -/
def execMachineCheckEntry (c : CoreId) := runBoundary c (takeAsync c 0x20#8)

/-- PAIR_RETIRED_TRAP (R296). -/
def execPairRetiredTrap (c : CoreId) := runBoundary c (takeAsync c 0x1F#8)

/-- Whether the queue is delivered before the words that stand at the boundary (R111): words that spell no instruction raise an exception. -/
def Regs.delivered (r : Regs) (i : Option Instr) : Bool :=
  match i with
  | some i => r.deliveryDue i
  | none => !r.deliv && !r.fdq.isEmpty

/-- Deliver the queue at the boundary before the instruction that stands there, when no event of ranks 1 to 3 is due (R111, R112). -/
def deliverNow (c : CoreId) (word ext : BitVec 32) : M Unit := do
  let s ← get
  if (s.due c (s.heldAt c none)).isNone && (s.regs c).delivered (decodeInsn c word ext) then
    if ← windowReady c then
      modCore c (fun k => { k with tlbi := none, jwait := none })
      deliverFdq c

/-- FDQ_DELIVERY (R112). -/
def execFdqDelivery (i : NextInsn) := runBoundary i.c (deliverNow i.c i.word i.ext)

/-- Take the recorded drain fault at the boundary, when no event of ranks 1 to 4 is due (R161). -/
def drainFaultNow (c : CoreId) : M Unit := do
  let s ← get
  let r := s.regs c
  let deliver := !r.deliv && !r.fdq.isEmpty && decide (32 ≤ r.fdqCount)
  if (s.due c (s.heldAt c none)).isNone && !deliver && r.drainDue then
    if ← windowReady c then
      modCore c (fun k => { k with tlbi := none, jwait := none })
      drainFaultEntry c

/-- SPILL_DRAIN_FAULT_ENTRY (R161). -/
def execSpillDrainFaultEntry (c : CoreId) := runBoundary c (drainFaultNow c)

/-- Drain the oldest spill slot in the background, while no drain fault stands and no handler of one runs (R161). -/
def drainInBackground (c : CoreId) : M Unit := do
  let s ← get
  if (s.regs c).drainFault.isNone && !(s.regs c).drainHeld then
    if ← windowReady c then
      let _ ← (between c (drainSlot c)).run

/-- SPILL_BUFFER_DRAIN (R161). -/
def execSpillBufferDrain (c : CoreId) := runBoundary c (drainInBackground c)

/-- RESERVE_REFILL_MOVE (R161). -/
def execReserveRefillMove (c : CoreId) := runBoundary c (refillMove c)

/-! ### TLBI (R228) -/

/-- A receiver's accesses through removed entries have completed (R228): its buffered stores have drained, and a checked pair
holds no gated store. -/
def accessesDone (d : CoreId) : M Bool := do
  let s ← get
  if s.leads d then return (s.pair (pairOf d)).windows.all (fun w => w.gate.isEmpty)
  else drainAll d

/-- A receiver removes what the TLBI form names and acknowledges once its accesses have completed. -/
def tlbiReceived (receiver : Option CoreId) (issuer : CoreId) : M Unit := do
  match (← getCore issuer).tlbi with
  | none => pure ()
  | some w =>
    let id := (receiver.map (·.val)).getD 48
    if w.left.contains id then
      let done ← (match receiver with
        | some d => do
          tlbiRemove d w.form.toNat w.operand w.vmid
          accessesDone d
        | none => do
          ioTlbi w.form.toNat w.operand w.vmid
          return true : M Bool)
      if done then
        modCore issuer (fun k => { k with tlbi := k.tlbi.map (fun w => { w with left := w.left.filter (fun n => !decide (n = id)) }) })

/-- TLBI_RECEIVE (R228). -/
def execTlbiReceive (receiver : Option CoreId) (issuer : CoreId) := runEvent (tlbiReceived receiver issuer)

/-- Whether a receiver is dropped from the acknowledgement set: a core of a lost die (R228). -/
def State.dropped (s : State) (n : Nat) : Bool := decide (n < 48) && s.dieLost (if n < 24 then 0 else 1)

/-- TLBI retires when every acknowledgement has arrived. -/
def tlbiEnds (c : CoreId) : M Unit := do
  let s ← get
  match (s.core c).tlbi with
  | none => pure ()
  | some w =>
    if w.left.all s.dropped then
      modCore c (fun k => { k with tlbi := none })
      retire c s false ((s.ctx c).pc + 4#64)

/-- TLBI_COMPLETE (R228). -/
def execTlbiComplete (c : CoreId) := runBoundary c (tlbiEnds c)

/-! ### Journal waits and notices (R345, R352) -/

/-- JWAIT retires when its epoch is final (Table 14-5). -/
def jwaitEnds (c : CoreId) : M Unit := do
  let s ← get
  match (s.core c).jwait with
  | none => pure ()
  | some v =>
    match s.jwaitCc (v.setWidth 48) with
    | none => pure ()
    | some cc =>
      modCore c (fun k => { k with jwait := none })
      setCc c cc
      retire c s false ((s.ctx c).pc + 4#64)

/-- JWAIT_WAKE (R352). -/
def execJwaitWake (c : CoreId) := runBoundary c (jwaitEnds c)

/-- APPEND_NOTICE (R345): the core's earlier stores drain with the notice; a checked pair's notice leaves with its window. -/
def execAppendNotice (c : CoreId) := runEvent (do
  let _ ← drainAll c
  journalRun)

/-! ### Stores and reserved words -/

/-- A store drains; with `arrayErr` the L2's array word of its line was beyond correction, and the line becomes poison first (R237, R239). -/
def storeDrains (c : CoreId) (arrayErr : Bool) : M Unit := do
  let k := (← get).core c
  match k.stbuf.head?.bind (·.line) with
  | some n => if arrayErr && k.l2Use then arrayPoison c n
  | none => pure ()
  let _ ← drainOne c

/-- STORE_BUFFER_DRAIN (R239). -/
def execStoreBufferDrain (d : DrainOf) := runEvent (storeDrains d.c d.arrayErr)

/-! ### Commit points (R149, R153, R203) -/

/-- The cores of cluster `clu` that stand inside an instruction at the commit point: each is interrupted at its micro-op boundary as its
instruction's kind states, with no entry made, and goes on from there under the new bank (R203). -/
def cutCluster (clu : CluId) : List (CoreId × Within) → M Unit
  | [] => pure ()
  | (c, w) :: t => do
    let s ← get
    match (if clusterOf c = clu then s.inside c w else none) with
    | some i =>
      let _ ← cutInside c i w.points
    | none => pure ()
    cutCluster clu t

/-- A step of Table 7-7 completes; at the commit point the cores of the cluster stop where they stand first. -/
def stepCompletes (clu : CluId) (ok : Bool) (cut : List (CoreId × Within)) : M Unit := do
  if (← get).atCommit clu ok then cutCluster clu cut
  commitStepDone clu ok

/-- COMMIT_CLUSTER_STEP_DONE (R202). -/
def execCommitClusterStepDone (step : CluStep) (ok : Bool) := runEvent (stepCompletes step.clu ok step.cut)

/-- RESERVED_OPCODE (R48): decoding raises cause 0x01. Words that do spell an instruction are left to that instruction's row. -/
def execReservedOpcode (c : CoreId) (word ext : BitVec 32) (s : State) : Host.Outcome State Fault Refusal :=
  if (decodeInsn c word ext).isSome then .next s
  else
    let r := s.regs c
    let row : Issued :=
      { insn := { word := word, ext := ext, ok := false, priv := 0 }, setsSkip := false
        delivery := r.delivered none }
    .next (s.unlessDeferred ((issue c row (pcOf c)).run s).2)

end Sys2Proof.Machine
end

