-- ==== Sys2Proof/Machine/DcsRows.lean ====
section
/-! DEFINITION. DCS rows: 64-bit loads and stores of a core to Device Control Space, named by the register's offset (00, R9–R13; log entry 8). -/

namespace Sys2Proof.Machine

/-- The address of a DCS access: its PA, which is its VA while stage 1 is off (R207). -/
def dcsVa (off : Nat) : Word := dcsBase.setWidth 64 + BitVec.ofNat 64 off

/-- The checks of a DCS access (R9, R52, Table 8-7) and its translation. -/
def dcsAccess (c : CoreId) (off : Nat) (write : Bool) : Exec Xl := do
  let va := dcsVa off
  checkAlign va 8
  let r ← lift (getRegs c)
  let q : Req := { va := va, acc := if write then .write else .read, priv := r.ctx.csw.priv, key := 0#4, span := 0, ctxid := 0#16 }
  let pa : Pa := toPa va
  let _ ← checkPa c q pa .dcs .sideEffect 0 none (fun _ _ => false)
  return { pa := pa, kind := .dcs, mt := .sideEffect, span := none, gen := 0 }

/-- A store of `v` to the register at a DCS offset. -/
def dcsWrite (c : CoreId) (off : Nat) (v : Word) : Exec Unit := do
  let t ← dcsAccess c off true
  watch c true (dcsVa off) 8
  putWord c (dcsVa off) t 8 (TW.raw v)

/-- A load of the register at a DCS offset (R11): the value, raw. -/
def dcsRead (c : CoreId) (dst : Reg) (off : Nat) : Exec Unit := do
  let t ← dcsAccess c off false
  watch c false (dcsVa off) 8
  let w ← deviceLoad c (dcsVa off) t 8
  lift (writeReg c dst w)

/-- DCS_REGISTER_WRITE (R11). -/
def execDcsRegisterWrite (c : CoreId) (off : BitVec 28) (v : Word) := runSeq c (.dcsRegisterWrite c off v) (dcsWrite c off.toNat v)

/-- RC_REGISTER_READ (R11, Table 0-11). -/
def execRcRegisterRead (c : CoreId) (dst : Reg) (off : BitVec 28) := runSeq c (.rcRegisterRead c dst off) (dcsRead c dst off.toNat)

/-- LEVEL0_DOORBELL (R299): L0DB0 or L0DB1. -/
def execLevel0Doorbell (c : CoreId) (p : PairId) (odd : Bool) (v : Word) := runSeq c (.level0Doorbell c p odd v)
  (dcsWrite c (pairReg p (if odd then 0x30 else 0x28)) v)

/-- PAIR_START (R298): PAIRCTL. -/
def execPairStart (c : CoreId) (p : PairId) (v : Word) := runSeq c (.pairStart c p v) (dcsWrite c (pairReg p 0x08) v)

/-- DEBUG_HALT (R300): DBGCTL. -/
def execDebugHalt (c : CoreId) (p : PairId) (v : Word) := runSeq c (.debugHalt c p v) (dcsWrite c (pairReg p 0x100) v)

/-- DEBUG_STEP (R300): DBGCTL. -/
def execDebugStep (c : CoreId) (p : PairId) (v : Word) := runSeq c (.debugStep c p v) (dcsWrite c (pairReg p 0x100) v)

/-- DEBUG_HOLD_AT_MISMATCH (R301): DBGCTL. -/
def execDebugHoldAtMismatch (c : CoreId) (p : PairId) (v : Word) := runSeq c (.debugHoldAtMismatch c p v)
  (dcsWrite c (pairReg p 0x100) v)

/-- DEBUG_REPLAY (R301): DBGCTL. -/
def execDebugReplay (c : CoreId) (p : PairId) (v : Word) := runSeq c (.debugReplay c p v) (dcsWrite c (pairReg p 0x100) v)

/-- DEBUGGER_WRITE (R300): DBGDATA. -/
def execDebuggerWrite (c : CoreId) (p : PairId) (v : Word) := runSeq c (.debuggerWrite c p v) (dcsWrite c (pairReg p 0x118) v)

/-- SEALNOW (R351): JSEQCTL. -/
def execSealnow (c : CoreId) (v : Word) := runSeq c (.sealnow c v) (dcsWrite c 0x300080 v)

/-- IOMMU_INVALIDATE (R368): IOINV. -/
def execIommuInvalidate (c : CoreId) (v : Word) := runSeq c (.iommuInvalidate c v) (dcsWrite c 0x3001008 v)

/-- VOLLEY_PORT_RETRAIN (R380): VPORTCTL. -/
def execVolleyPortRetrain (c : CoreId) (q : VPortId) (v : Word) := runSeq c (.volleyPortRetrain c q v)
  (dcsWrite c (0x4000108 + 16 * q.val) v)

/-- FREQUENCY_REQUEST (R418): CLKCTL. -/
def execFrequencyRequest (c : CoreId) (clu : CluId) (v : Word) := runSeq c (.frequencyRequest c clu v)
  (dcsWrite c (0x401000 + 16 * clu.val) v)

/-- SEND_QUEUE_TAIL_WRITE (R383): VSQTAIL. -/
def execSendQueueTailWrite (c : CoreId) (v : Word) := runSeq c (.sendQueueTailWrite c v) (dcsWrite c 0x4001018 v)

end Sys2Proof.Machine
end

