-- ==== Sys2Proof/Machine/FabricRows.lean ====
section
/-! DEFINITION. Coherence, die bridge and hub bridge rows (09, 18 R415). -/

namespace Sys2Proof.Machine

/-- MISS_FILL_ARRIVAL (R243). -/
def execMissFillArrival (c : CoreId) (line : MissLine) (how : FillEnd) := runEvent (earlyLoad c line.pa line.va how.squashed how.arrayErr)

/-- HOME_SLICE_REQUEST (R242). -/
def execHomeSliceRequest (c : CoreId) (pa : Pa) (kind : ReqKind) (arrayErr : Bool) := runEvent (sliceRequest c pa kind arrayErr)

/-- FORWARDED_REQUEST (R242). -/
def execForwardedRequest (c : CoreId) (pa : Pa) (kind : FwdKind) (arrayErr : Bool) := runEvent (forwardArrives c pa kind arrayErr)

/-- L2_FLUSH_DISABLE_DONE (R250). -/
def execL2FlushDisableDone (c : CoreId) := runEvent (flushDone c)

/-- COHERENCE_TIMEOUT (R254). -/
def execCoherenceTimeout (c : CoreId) (pa : Pa) (viaHub : Bool) := runEvent (coherenceOver c pa viaHub)

/-- DIE_BRIDGE_CRC_ERROR (R253). -/
def execDieBridgeCrcError (g : GroupId) := runAtOnce (groupCrc g)

/-- DIE_BRIDGE_REPLAY_DONE (R253). -/
def execDieBridgeReplayDone (g : GroupId) := runAtOnce (groupReplayed g)

/-- DIE_BRIDGE_REPLAY_TIMEOUT (R254). -/
def execDieBridgeReplayTimeout (g : GroupId) := runAtOnce (groupReplayOver g)

/-- DIE_BRIDGE_RETRAIN_DONE (R253). -/
def execDieBridgeRetrainDone (g : GroupId) (ok : Bool) := runAtOnce (groupRetrained g ok)

/-- DETOUR_EXIT (R255). -/
def execDetourExit := runAtOnce detourLeaves

/-- HUB_BRIDGE_LOST (R415). -/
def execHubBridgeLost (d : DieId) := runAtOnce (hubLost d)

/-- UNCONTAINED_ERROR (R415). -/
def execUncontainedError (die : Option DieId) := runAtOnce (uncontained die)

/-- FABRIC_BRING_UP_DONE (R400). -/
def execFabricBringUpDone (fabW fabE : Bool) (groupsOk : BitVec 4) := runAtOnce (fabricReady fabW fabE groupsOk)

/-- HUB_BRIDGE_CRC_ERROR (R415). -/
def execHubBridgeCrcError (d : DieId) := runAtOnce (hubCrc d)

/-- HUB_BRIDGE_REPLAY_DONE (R415). -/
def execHubBridgeReplayDone (d : DieId) := runAtOnce (hubReplayed d)

/-- HUB_BRIDGE_REPLAY_TIMEOUT (R415). -/
def execHubBridgeReplayTimeout (d : DieId) := runAtOnce (hubReplayOver d)

/-- HUB_BRIDGE_RETRAIN_DONE (R415). -/
def execHubBridgeRetrainDone (d : DieId) := runAtOnce (hubRetrained d)

end Sys2Proof.Machine
end

