-- ==== Sys2Proof/Machine/FpCore.lean ====
section
/-! DEFINITION. IEEE 754 binary64 and binary32 arithmetic, exact until its one rounding (04, R100–R110). -/

namespace Sys2Proof.Machine

/-- A format: precision with the leading bit, exponent bits, and the exponents of its smallest and largest normal numbers. -/
structure Fmt where
  p : Nat
  ebits : Nat
  emin : Int
  emax : Int
  deriving DecidableEq, Repr

/-- binary64. -/
def fmtD : Fmt := { p := 53, ebits := 11, emin := -1022, emax := 1023 }
/-- binary32. -/
def fmtF : Fmt := { p := 24, ebits := 8, emin := -126, emax := 127 }
/-- The format that P selects (Table 4-2). -/
def fmtOf (p : Bool) : Fmt := if p then fmtF else fmtD

/-- Fraction bits. -/
def Fmt.frac (f : Fmt) : Nat := f.p - 1
/-- The all-ones exponent field. -/
def Fmt.eones (f : Fmt) : Nat := 2 ^ f.ebits - 1

/-- A number as an encoding holds it; `m × 2^e` for finite ones. -/
inductive FVal where
  | nan (sign : Bool) (frac : Nat)
  | inf (sign : Bool)
  | num (sign : Bool) (m : Nat) (e : Int)
  deriving DecidableEq, Repr

/-- Sign, exponent field and fraction of an encoding. -/
def Fmt.split (f : Fmt) (w : Nat) : Bool × Nat × Nat :=
  (w.testBit (f.frac + f.ebits), w / 2 ^ f.frac % 2 ^ f.ebits, w % 2 ^ f.frac)

/-- Whether an encoding is subnormal. -/
def Fmt.subnormal (f : Fmt) (w : Nat) : Bool :=
  let (_, e, m) := f.split w
  decide (e = 0) && !decide (m = 0)

/-- The number an encoding holds; with `flush`, a subnormal reads as a zero of its sign (R107). -/
def Fmt.decode (f : Fmt) (flush : Bool) (w : Nat) : FVal :=
  let (s, e, m) := f.split w
  if e = f.eones then (if m = 0 then .inf s else .nan s m)
  else if e = 0 then .num s (if flush then 0 else m) (f.emin - f.frac)
  else .num s (2 ^ f.frac + m) (f.emin - f.frac + (e - 1))

/-- An encoding from its parts. -/
def Fmt.join (f : Fmt) (s : Bool) (e m : Nat) : Nat := (if s then 2 ^ (f.frac + f.ebits) else 0) + e * 2 ^ f.frac + m
/-- A zero. -/
def Fmt.zero (f : Fmt) (s : Bool) : Nat := f.join s 0 0
/-- An infinity. -/
def Fmt.infinity (f : Fmt) (s : Bool) : Nat := f.join s f.eones 0
/-- The largest finite number. -/
def Fmt.largest (f : Fmt) (s : Bool) : Nat := f.join s (f.eones - 1) (2 ^ f.frac - 1)
/-- The default NaN (R108). -/
def Fmt.defaultNan (f : Fmt) : Nat := f.join false f.eones (2 ^ (f.frac - 1))
/-- A NaN, quieted (R108). -/
def Fmt.quiet (f : Fmt) (s : Bool) (m : Nat) : Nat := f.join s f.eones (m ||| 2 ^ (f.frac - 1))
/-- Whether a NaN fraction is signalling. -/
def Fmt.signalling (f : Fmt) (m : Nat) : Bool := !m.testBit (f.frac - 1)

/-- Flags, as FPSTAT numbers them (Table 4-8). -/
def fNV : BitVec 5 := 1#5
/-- Divide by zero. -/
def fDZ : BitVec 5 := 2#5
/-- Overflow. -/
def fOF : BitVec 5 := 4#5
/-- Underflow. -/
def fUF : BitVec 5 := 8#5
/-- Inexact. -/
def fNX : BitVec 5 := 16#5

/-- An operation's exact result, before rounding. -/
inductive Exact where
  | nan (sign : Bool) (frac : Nat) (flags : BitVec 5)
  | invalid
  | inf (sign : Bool) (flags : BitVec 5)
  | zero (sign : Bool)
  /-- `m × 2^e` and, when `sticky`, a little more. -/
  | num (sign : Bool) (m : Nat) (e : Int) (sticky : Bool)
  deriving DecidableEq, Repr

/-- The sign of an exact result (R106). -/
def Exact.sign : Exact → Bool
  | .nan s _ _ => s
  | .invalid => false
  | .inf s _ => s
  | .zero s => s
  | .num s _ _ _ => s

/-- The exact result with its sign changed; a NaN keeps its own (R108). -/
def Exact.neg : Exact → Exact
  | .inf s f => .inf (!s) f
  | .zero s => .zero (!s)
  | .num s m e k => .num (!s) m e k
  | x => x

/-- Bits of a number. -/
def bitLen (m : Nat) : Nat := if m = 0 then 0 else Nat.log2 m + 1

/-- Whether a magnitude between `q` and `q + 1` goes up: `half` is 0 below, 1 at and 2 above the middle (R103). -/
def goesUp (rm : Nat) (sign odd : Bool) (half : Nat) (inexact : Bool) : Bool :=
  match rm with
  | 0 => decide (half = 2) || (decide (half = 1) && odd)
  | 1 => false
  | 2 => inexact && !sign
  | _ => inexact && sign

/-- `m × 2^e` rounded to an integer multiple of `2^k`: the multiple and whether it is inexact. -/
def roundAt (rm : Nat) (sign : Bool) (m : Nat) (e : Int) (sticky : Bool) (k : Int) : Nat × Bool :=
  if k ≤ e then (m * 2 ^ (e - k).toNat, sticky)
  else
    let d := (k - e).toNat
    let q := m / 2 ^ d
    let r := m % 2 ^ d
    let inexact := !decide (r = 0) || sticky
    let half := if 2 * r = 2 ^ d then (if sticky then 2 else 1) else if 2 ^ d < 2 * r then 2 else 0
    (if goesUp rm sign (q % 2 = 1) half inexact then q + 1 else q, inexact)

/-- A rounded result: its encoding, its flags, and whether it is tiny (R104). -/
structure Rounded where
  bits : Nat
  flags : BitVec 5
  tiny : Bool
  deriving DecidableEq, Repr

/-- Round an exact result to a format (R104, R107). A tiny result is a zero of its sign with UF and NX. -/
def Fmt.round (f : Fmt) (rm : Nat) : Exact → Rounded
  | .nan s m fl => { bits := f.quiet s m, flags := fl, tiny := false }
  | .invalid => { bits := f.defaultNan, flags := fNV, tiny := false }
  | .inf s fl => { bits := f.infinity s, flags := fl, tiny := false }
  | .zero s => { bits := f.zero s, flags := 0#5, tiny := false }
  | .num s m e k =>
    let lead : Int := e + (bitLen m : Int) - 1
    let (q, inexact) := roundAt rm s m e k (lead - f.frac)
    -- a carry out of the top digit moves the exponent up
    let (q, lead) := if q = 2 ^ f.p then (2 ^ f.frac, lead + 1) else (q, lead)
    let nx := if inexact then fNX else 0#5
    if lead < f.emin then { bits := f.zero s, flags := fUF ||| fNX, tiny := true }
    else if f.emax < lead then
      { bits := if goesUp rm s true 2 true then f.infinity s else f.largest s, flags := fOF ||| fNX, tiny := false }
    else { bits := f.join s ((lead - f.emin).toNat + 1) (q % 2 ^ f.frac), flags := nx, tiny := false }

/-- A result that is a NaN operand (R108): the first NaN, quieted; NV when any operand signals. -/
def nanOf (f : Fmt) (xs : List FVal) : Option Exact :=
  let sig := xs.any (fun x => match x with
    | .nan _ m => f.signalling m
    | _ => false)
  xs.findSome? (fun x => match x with
    | .nan s m => some (.nan s m (if sig then fNV else 0#5))
    | _ => none)

/-- A signed sum of integers scaled by a power of two, as an exact result; an exact zero has sign `zs`. -/
def ofInt (v : Int) (e : Int) (zs : Bool) : Exact :=
  if v = 0 then .zero zs else .num (decide (v < 0)) v.natAbs e false

/-- A finite number as an integer. -/
def signedM (s : Bool) (m : Nat) : Int := if s then -(m : Int) else m

/-- The exact sum of two finite numbers (IEEE 754: a zero sum is +0, or −0 under RDN, unless both signs agree). -/
def sumFinite (rm : Nat) (s1 : Bool) (m1 : Nat) (e1 : Int) (s2 : Bool) (m2 : Nat) (e2 : Int) : Exact :=
  let zs := if m1 = 0 ∧ m2 = 0 ∧ s1 = s2 then s1 else decide (rm = 3)
  let e := min e1 e2
  if m1 = 0 then ofInt (signedM s2 m2) e2 zs
  else if m2 = 0 then ofInt (signedM s1 m1) e1 zs
  else ofInt (signedM s1 (m1 * 2 ^ (e1 - e).toNat) + signedM s2 (m2 * 2 ^ (e2 - e).toNat)) e zs

/-- A value with its sign changed. -/
def FVal.neg : FVal → FVal
  | .nan s m => .nan s m
  | .inf s => .inf (!s)
  | .num s m e => .num (!s) m e

/-- Addition. -/
def fpAdd (f : Fmt) (rm : Nat) (a b : FVal) : Exact :=
  match nanOf f [a, b] with
  | some x => x
  | none => match a, b with
    | .inf s, .inf t => if s = t then .inf s 0#5 else .invalid
    | .inf s, _ => .inf s 0#5
    | _, .inf t => .inf t 0#5
    | .num s1 m1 e1, .num s2 m2 e2 => sumFinite rm s1 m1 e1 s2 m2 e2
    | _, _ => .invalid

/-- Subtraction. -/
def fpSub (f : Fmt) (rm : Nat) (a b : FVal) : Exact := fpAdd f rm a b.neg

/-- Multiplication. -/
def fpMul (f : Fmt) (a b : FVal) : Exact :=
  match nanOf f [a, b] with
  | some x => x
  | none => match a, b with
    | .inf s, .inf t => .inf (s != t) 0#5
    | .inf s, .num t m _ => if m = 0 then .invalid else .inf (s != t) 0#5
    | .num s m _, .inf t => if m = 0 then .invalid else .inf (s != t) 0#5
    | .num s m1 e1, .num t m2 e2 => if m1 * m2 = 0 then .zero (s != t) else .num (s != t) (m1 * m2) (e1 + e2) false
    | _, _ => .invalid

/-- Division. -/
def fpDiv (f : Fmt) (a b : FVal) : Exact :=
  match nanOf f [a, b] with
  | some x => x
  | none => match a, b with
    | .inf _, .inf _ => .invalid
    | .inf s, .num t _ _ => .inf (s != t) 0#5
    | .num s _ _, .inf t => .zero (s != t)
    | .num s m1 e1, .num t m2 e2 =>
      if m2 = 0 then (if m1 = 0 then .invalid else .inf (s != t) fDZ)
      else if m1 = 0 then .zero (s != t)
      else
        let k := 2 * f.p + 4
        .num (s != t) (m1 * 2 ^ k / m2) (e1 - e2 - k) (!decide (m1 * 2 ^ k % m2 = 0))
    | _, _ => .invalid

/-- The integer square root of `n`, from bit `k` down, continuing from `r`. -/
def isqrtFrom (n : Nat) : Nat → Nat → Nat
  | 0, r => r
  | k + 1, r => let t := r + 2 ^ k; isqrtFrom n k (if t * t ≤ n then t else r)

/-- Square root. -/
def fpSqrt (f : Fmt) (a : FVal) : Exact :=
  match nanOf f [a] with
  | some x => x
  | none => match a with
    | .inf s => if s then .invalid else .inf false 0#5
    | .num s m e =>
      if m = 0 then .zero s
      else if s then .invalid
      else
        let k := 2 * f.p + 4
        let odd := decide (e % 2 ≠ 0)
        let n := m * 2 ^ k * (if odd then 2 else 1)
        let e' := ((if odd then e - 1 else e) - k) / 2
        let r := isqrtFrom n (2 * f.p + 4) 0
        .num false r e' (!decide (r * r = n))
    | _ => .invalid

/-- Fused multiply and add (R102): `sub` subtracts C, `neg` changes the sign of the exact value before the one rounding, as Table 4-3's
−(A × B ± C) is read (DEDUCED, log entry 36). A quiet NaN addend with 0 × ∞ raises no NV: IEEE 754 leaves that to the implementation
(DESIGN CHOICE, log entry 90). -/
def fpFma (f : Fmt) (rm : Nat) (sub neg : Bool) (a b cc : FVal) : Exact :=
  match nanOf f [a, b, cc] with
  | some x => x
  | none =>
    let cc := if sub then cc.neg else cc
    let r := match fpMul f a b with
      | .invalid => Exact.invalid
      | .inf s _ => match cc with
        | .inf t => if s = t then .inf s 0#5 else .invalid
        | _ => .inf s 0#5
      | .zero s => match cc with
        | .inf t => .inf t 0#5
        | .num t m e => sumFinite rm s 0 0 t m e
        | _ => .invalid
      | .num s m e _ => match cc with
        | .inf t => .inf t 0#5
        | .num t m2 e2 => sumFinite rm s m e t m2 e2
        | _ => .invalid
      | x => x
    if neg then r.neg else r

/-- Compare (R110): CC and flags. -/
def fpCompare (f : Fmt) (a b : FVal) : BitVec 2 × BitVec 5 :=
  match nanOf f [a, b] with
  | some (.nan _ _ fl) => (3#2, fl)
  | some _ => (3#2, 0#5)
  | none => match a, b with
    | .inf s, .inf t => (if s = t then 0#2 else if s then 1#2 else 2#2, 0#5)
    | .inf s, _ => (if s then 1#2 else 2#2, 0#5)
    | _, .inf t => (if t then 2#2 else 1#2, 0#5)
    | .num s1 m1 e1, .num s2 m2 e2 =>
      let e := min e1 e2
      let x := signedM s1 (m1 * 2 ^ (e1 - e).toNat)
      let y := signedM s2 (m2 * 2 ^ (e2 - e).toNat)
      (if x = y then 0#2 else if x < y then 1#2 else 2#2, 0#5)
    | _, _ => (3#2, 0#5)

/-- FCVT.S and FCVT.D (R108): NaN fractions keep their top bits. -/
def fpConvert (src dst : Fmt) (a : FVal) : Exact :=
  match a with
  | .nan s m =>
    let fl := if src.signalling m then fNV else 0#5
    .nan s (if dst.frac < src.frac then m / 2 ^ (src.frac - dst.frac) else m * 2 ^ (dst.frac - src.frac)) fl
  | .inf s => .inf s 0#5
  | .num s m e => if m = 0 then .zero s else .num s m e false

/-- FCVT.X (R108, R109): the integer and flags. -/
def fpToInt (rm : Nat) (a : FVal) : Word × BitVec 5 :=
  let top : Word := 0x7FFFFFFFFFFFFFFF#64
  let bottom : Word := 0x8000000000000000#64
  match a with
  | .nan _ _ => (0#64, fNV)
  | .inf s => (if s then bottom else top, fNV)
  | .num s m e =>
    let (q, inexact) := roundAt rm s m e false 0
    if s then (if 2 ^ 63 < q then (bottom, fNV) else (BitVec.ofInt 64 (-(q : Int)), if inexact then fNX else 0#5))
    else (if 2 ^ 63 ≤ q then (top, fNV) else (BitVec.ofNat 64 q, if inexact then fNX else 0#5))

/-- FCVT.F: a signed integer as an exact result. -/
def fpOfInt (v : Int) : Exact := ofInt v 0 false

end Sys2Proof.Machine
end

