-- ==== Sys2Proof/Machine/Fp.lean ====
section
/-! DEFINITION. Binary floating point: modes, flags, the deferred queue and the instructions (04). -/

namespace Sys2Proof.Machine

/-- The rounding mode that an RMS code selects (Table 4-2, R103). -/
def Ctx.rounding (x : Ctx) (rms : BitVec 3) : Nat := if rms = 0#3 then fieldN x.fpctl 0 2 else rms.toNat - 1

/-- Whether subnormals are flushed: SUB, or a delivered queue (R107, R113). -/
def Regs.flushes (r : Regs) : Bool := r.ctx.fpctl.getLsbD 2 || r.deliv

/-- The enables in force: none while a queue is delivered (R113). -/
def Regs.enables (r : Regs) : BitVec 5 := if r.deliv then 0#5 else r.ctx.fpctl.extractLsb' 3 5

/-- Queue an entry of the deferred queue (Table 4-9). -/
def queueFdq (c : CoreId) (word : BitVec 32) (rm : Nat) (flags : BitVec 5) (assist : Bool) (ops : List Word) (result : Word) : M Unit :=
  modRegs c (fun r =>
    let x := r.ctx
    { r with fdq := r.fdq ++ [{ iword := word, flags := flags, assist := assist, repl := false, priv := x.csw.priv
                                rm := BitVec.ofNat 2 rm, cw := x.wstat.cw, addr := addr56 x.pc, opa := ops.getD 0 0#64
                                opb := ops.getD 1 0#64, opc := ops.getD 2 0#64, result := result, bank := r.cur }] })

/-- Set FPSTAT flags, and queue a cause 0x17 entry when one of them is enabled (R105). -/
def raiseFlags (c : CoreId) (word : BitVec 32) (rm : Nat) (flags : BitVec 5) (ops : List Word) (result : Word) : M Unit := do
  modCtx c (fun x => { x with fpflags := x.fpflags ||| flags })
  if flags &&& (← getRegs c).enables ≠ 0#5 then queueFdq c word rm flags false ops result

/-- The result register's word: float64, or a raw word for binary32 (R101). -/
def fpWord (p : Bool) (bits : Nat) : TW := if p then TW.raw (BitVec.ofNat 64 bits) else { tag := 0x02#8, val := BitVec.ofNat 64 bits }

/-- An operand's encoding in its format: bits [63:32] of a binary32 operand are ignored (R101). -/
def fpBits (p : Bool) (w : Word) : Nat := if p then w.toNat % 2 ^ 32 else w.toNat

/-- The result of an operation on operands already read, in format `dst` (R104–R108): `op` gives the exact result from the
operands as numbers. What it writes is the answer; flags and the queue are changed. -/
def fpResult (c : CoreId) (word : BitVec 32) (rm : Nat) (src dst : Bool) (ops : List Word) (op : List FVal → Exact) : M TW := do
  let r ← getRegs c
  let sf := fmtOf src
  let bits := ops.map (fpBits src)
  let flush := r.flushes
  let exact := op (bits.map (sf.decode flush))
  let out := (fmtOf dst).round rm exact
  if !flush && (bits.any sf.subnormal || out.tiny) then
    let w := fpWord dst ((fmtOf dst).zero exact.sign)
    queueFdq c word rm 0#5 true ops w.val
    return w
  else
    let w := fpWord dst out.bits
    raiseFlags c word rm out.flags ops w.val
    return w

/-- The operand tags of a format (R101). -/
def fpTag (p : Bool) : Tag → Bool := if p then sglTag else dblTag

/-- A floating-point instruction on registers: checks, result, destination. -/
def fpOp (c : CoreId) (i : Instr) (rms : BitVec 3) (src dst : Bool) (d : Reg) (ops : List Reg)
    (op : Fmt → Nat → List FVal → Exact) : Exec Unit := do
  let r ← lift (getRegs c)
  let ws := ops.map r.read
  checkValues (fpTag src) ws
  let rm := r.ctx.rounding rms
  let w ← lift (fpResult c (wordOf i) rm src dst (ws.map (·.val)) (op (fmtOf src) rm))
  lift (writeReg c d w)

/-- An exact operation on two operands. -/
def on2 (f : FVal → FVal → Exact) : List FVal → Exact
  | [a, b] => f a b
  | _ => .invalid

/-- An exact operation on one operand. -/
def on1 (f : FVal → Exact) : List FVal → Exact
  | [a] => f a
  | _ => .invalid

/-- An exact operation on three operands. -/
def on3 (f : FVal → FVal → FVal → Exact) : List FVal → Exact
  | [a, b, e] => f a b e
  | _ => .invalid

/-- Compare two encodings (R106, R110): CC; a subnormal operand in trap mode queues an assist whose provisional CC is flush mode's. -/
def fpCmpResult (c : CoreId) (word : BitVec 32) (p : Bool) (a b : Word) : M (BitVec 2) := do
  let r ← getRegs c
  let f := fmtOf p
  let xa := fpBits p a
  let xb := fpBits p b
  let rm := r.ctx.rounding 0#3
  let (cc, fl) := fpCompare f (f.decode true xa) (f.decode true xb)
  if !r.flushes && (f.subnormal xa || f.subnormal xb) then
    queueFdq c word rm 0#5 true [a, b] (cc.setWidth 64)
  else raiseFlags c word rm fl [a, b] (cc.setWidth 64)
  return cc

/-- FADD. -/
def execFadd (c : CoreId) (dst a b : Reg) (m : FpMode) := runSeq c (.fadd c dst a b m)
  (fpOp c (.fadd c dst a b m) m.rms m.p m.p dst [a, b] (fun f rm => on2 (fpAdd f rm)))
/-- FSUB. -/
def execFsub (c : CoreId) (dst a b : Reg) (m : FpMode) := runSeq c (.fsub c dst a b m)
  (fpOp c (.fsub c dst a b m) m.rms m.p m.p dst [a, b] (fun f rm => on2 (fpSub f rm)))
/-- FMUL. -/
def execFmul (c : CoreId) (dst a b : Reg) (m : FpMode) := runSeq c (.fmul c dst a b m)
  (fpOp c (.fmul c dst a b m) m.rms m.p m.p dst [a, b] (fun f _ => on2 (fpMul f)))
/-- FDIV. -/
def execFdiv (c : CoreId) (dst a b : Reg) (m : FpMode) := runSeq c (.fdiv c dst a b m)
  (fpOp c (.fdiv c dst a b m) m.rms m.p m.p dst [a, b] (fun f _ => on2 (fpDiv f)))
/-- FSQRT. -/
def execFsqrt (c : CoreId) (dst a : Reg) (m : FpMode) := runSeq c (.fsqrt c dst a m)
  (fpOp c (.fsqrt c dst a m) m.rms m.p m.p dst [a] (fun f _ => on1 (fpSqrt f)))

/-- FCMP. -/
def execFcmp (c : CoreId) (a b : Reg) (p : Bool) := runSeq c (.fcmp c a b p) (do
  let (wa, wb) ← operands2 c (fpTag p) a b
  let cc ← lift (fpCmpResult c (wordOf (.fcmp c a b p)) p wa.val wb.val)
  lift (setCc c cc))

/-- A sign-bit operation (R103): no rounding, flushing, assist or flag. -/
def signOp (c : CoreId) (dst a : Reg) (p : Bool) (f : Word → Word → Word) : Exec Unit := do
  let wa ← operand1 c (fpTag p) a
  let v := BitVec.ofNat 64 (fpBits p wa.val)
  lift (writeReg c dst (fpWord p (f v (placed 1 (if p then 31 else 63))).toNat))

/-- FNEG. -/
def execFneg (c : CoreId) (dst a : Reg) (p : Bool) := runSeq c (.fneg c dst a p) (signOp c dst a p (· ^^^ ·))
/-- FABS. -/
def execFabs (c : CoreId) (dst a : Reg) (p : Bool) := runSeq c (.fabs c dst a p) (signOp c dst a p (fun v s => v &&& ~~~s))

/-- FCVT.S. -/
def execFcvtS (c : CoreId) (dst a : Reg) (rms : BitVec 3) := runSeq c (.fcvtS c dst a rms)
  (fpOp c (.fcvtS c dst a rms) rms false true dst [a] (fun _ _ => on1 (fpConvert fmtD fmtF)))
/-- FCVT.D. -/
def execFcvtD (c : CoreId) (dst a : Reg) (rms : BitVec 3) := runSeq c (.fcvtD c dst a rms)
  (fpOp c (.fcvtD c dst a rms) rms true false dst [a] (fun _ _ => on1 (fpConvert fmtF fmtD)))

/-- FCVT.X (R106, R109): a subnormal operand in trap mode queues an assist with provisional result 0. -/
def execFcvtX (c : CoreId) (dst a : Reg) (m : FpMode) := runSeq c (.fcvtX c dst a m) (do
  let wa ← operand1 c (fpTag m.p) a
  let r ← lift (getRegs c)
  let f := fmtOf m.p
  let bits := fpBits m.p wa.val
  let rm := r.ctx.rounding m.rms
  let word := wordOf (.fcvtX c dst a m)
  if !r.flushes && f.subnormal bits then
    lift (queueFdq c word rm 0#5 true [wa.val] 0#64)
    lift (writeReg c dst (TW.fix 0#64))
  else
    let (v, fl) := fpToInt rm (f.decode true bits)
    lift (raiseFlags c word rm fl [wa.val] v)
    lift (writeReg c dst (TW.fix v)))

/-- FCVT.F (R109): the fixnum or raw operand is a signed integer. -/
def execFcvtF (c : CoreId) (dst a : Reg) (m : FpMode) := runSeq c (.fcvtF c dst a m) (do
  let wa ← operand1 c rawTag a
  let r ← lift (getRegs c)
  let rm := r.ctx.rounding m.rms
  let out := (fmtOf m.p).round rm (fpOfInt wa.val.toInt)
  let w := fpWord m.p out.bits
  lift (raiseFlags c (wordOf (.fcvtF c dst a m)) rm out.flags [wa.val] w.val)
  lift (writeReg c dst w))

/-- FMADD. -/
def execFmadd (c : CoreId) (dst a b cc : Reg) (m : FpMode) := runSeq c (.fmadd c dst a b cc m)
  (fpOp c (.fmadd c dst a b cc m) m.rms m.p m.p dst [a, b, cc] (fun f rm => on3 (fpFma f rm false false)))
/-- FMSUB. -/
def execFmsub (c : CoreId) (dst a b cc : Reg) (m : FpMode) := runSeq c (.fmsub c dst a b cc m)
  (fpOp c (.fmsub c dst a b cc m) m.rms m.p m.p dst [a, b, cc] (fun f rm => on3 (fpFma f rm true false)))
/-- FNMADD. -/
def execFnmadd (c : CoreId) (dst a b cc : Reg) (m : FpMode) := runSeq c (.fnmadd c dst a b cc m)
  (fpOp c (.fnmadd c dst a b cc m) m.rms m.p m.p dst [a, b, cc] (fun f rm => on3 (fpFma f rm false true)))
/-- FNMSUB. -/
def execFnmsub (c : CoreId) (dst a b cc : Reg) (m : FpMode) := runSeq c (.fnmsub c dst a b cc m)
  (fpOp c (.fnmsub c dst a b cc m) m.rms m.p m.p dst [a, b, cc] (fun f rm => on3 (fpFma f rm true true)))

end Sys2Proof.Machine
end

