-- ==== Sys2Proof/Machine/Generic.lean ====
section
/-! DEFINITION. Generic arithmetic and list operations (03, R76–R96). -/

namespace Sys2Proof.Machine

/-- The binary generic operations. -/
inductive GOp where
  | add | sub | mul | div | cmp
  deriving DecidableEq, Repr

/-- The tag trap class of an unsupported pair (Table 3-1). -/
def GOp.cls : GOp → BitVec 5
  | .add => 0#5
  | .sub => 1#5
  | .mul => 2#5
  | .div => 3#5
  | .cmp => 4#5

/-- A tag trap of the instruction's own source registers. -/
def tagTrap (cls : BitVec 5) : Stop := .tag cls none none

/-- R77 items 1 to 3, with the poison rule of R35. -/
def genericCheck (ws : List TW) : Exec Unit := do
  match ws.find? (fun w => decide (w.tag = 0x82#8)) with
  | some w => throw (excI 0x06#8 w.val 0#64)
  | none =>
    require (!ws.any (fun w => decide (w.tag = 0x00#8))) (exc0 0x05#8)
    require (!ws.any (fun w => systemTag w.tag)) (exc0 0x03#8)
    require (!ws.any (fun w => decide (0x20 ≤ w.tag.toNat) && decide (w.tag.toNat ≤ 0x3F))) (tagTrap 13#5)

/-- CSW.CC of a float64 result: 3 for a NaN, else its sign (R81). -/
def ccFloat (v : Word) : BitVec 2 :=
  let e := fieldN v 52 11
  let m := fieldN v 0 52
  if e = 0x7FF ∧ m ≠ 0 then 3#2 else if e = 0 ∧ m = 0 then 0#2 else if v.getLsbD 63 then 1#2 else 2#2

/-- An integer result: a fixnum with its CC, or tag trap 6 (R82). -/
def putFixnum (c : CoreId) (dst : Reg) (v : Int) : Exec Unit := do
  require (fits64 v) (tagTrap 6#5)
  lift (writeReg c dst (TW.fix (BitVec.ofInt 64 v)))
  lift (setCc c (ccInt v))

/-- A timestamp result (R84). -/
def putTimestamp (c : CoreId) (dst : Reg) (v : Int) : Exec Unit := do
  require (decide (0 ≤ v) && decide (v < 2 ^ 64)) (tagTrap 6#5)
  lift (writeReg c dst { tag := 0x06#8, val := BitVec.ofInt 64 v })
  lift (setCc c (ccInt v))

/-- The integer path (R82, R80). -/
def intPath (c : CoreId) (g : GOp) (dst : Reg) (a b : Int) : Exec Unit := do
  match g with
  | .add => putFixnum c dst (a + b)
  | .sub => putFixnum c dst (a - b)
  | .mul => putFixnum c dst (a * b)
  | .div =>
    require (!decide (b = 0)) (exc0 0x19#8)
    require (decide (Int.tmod a b = 0)) (tagTrap 3#5)
    putFixnum c dst (Int.tdiv a b)
  | .cmp => lift (setCc c (ccCompare a b))

/-- The exact operation of the FP path (R83). -/
def GOp.exact (g : GOp) (rm : Nat) : List FVal → Exact :=
  match g with
  | .add => on2 (fpAdd fmtD rm)
  | .sub => on2 (fpSub fmtD rm)
  | .mul => on2 (fpMul fmtD)
  | .div => on2 (fpDiv fmtD)
  | .cmp => on2 (fpAdd fmtD rm)

/-- The FP path (R83, R80, R81). -/
def fpPath (c : CoreId) (i : Instr) (g : GOp) (dst : Reg) (a b : Word) : Exec Unit := do
  match g with
  | .cmp => do
    let cc ← lift (fpCmpResult c (wordOf i) false a b)
    lift (setCc c cc)
  | _ => do
    let r ← lift (getRegs c)
    let rm := r.ctx.rounding 0#3
    let w ← lift (fpResult c (wordOf i) rm false false [a, b] (g.exact rm))
    lift (writeReg c dst w)
    lift (setCc c (ccFloat w.val))

/-! ### The decimal path (R85–R89) -/

/-- Cause 0x14 of a boxed operand: `opnd` 0 srcA, 1 srcB (R86). -/
def boxFault (opnd : Nat) (a : Word) : Stop := excI 0x14#8 (placed opnd 0) a

/-- Read a box word at `va`: a microcode load follows the rules of LD (R86, R191). -/
def boxWord (c : CoreId) (va : Word) : Exec (Xl × TW) := do
  let t ← queueFault c va 8 (translate c .read va (sizeDeny 8))
  let w ← accessWord c va t 8
  require (!decide (w.tag = 0x82#8)) (excI 0x06#8 w.val va)
  return (t, w)

/-- What reading a decimal operand has found: the words read, in order, and its value or the cause 0x14 against it. -/
structure Box where
  words : List (Word × Xl)
  value : Except Stop Int

/-- Whether a header is a decimal box's (R86). -/
def boxHeaderOk (h : TW) : Bool :=
  let sub := fieldN h.val 32 8
  decide (h.tag = 0x80#8) && decide (fieldN h.val 48 8 = 0x43) && decide (1 ≤ sub) && decide (sub ≤ 32) &&
    decide ((sub + 7) / 8 ≤ fieldN h.val 0 32)

/-- The header of the box at `va`, a forwarding word followed once: the words read, the header's address and the header (R86). -/
def boxHeader (c : CoreId) (va : Word) : Exec (List (Word × Xl) × Word × TW) := do
  let (t, h) ← boxWord c va
  if h.tag = 0x81#8 then
    let dest := addr56 h.val
    checkAlign dest 8
    let (t', h') ← boxWord c dest
    return ([(va, t), (dest, t')], dest, h')
  else return ([(va, t)], va, h)

/-- The bytes of `n` body words from `va`, under the partial-load column of Table 1-10 (R86, R122), with the words read. -/
def boxBody (c : CoreId) (va : Word) : Nat → Exec (List (Word × Xl) × List Byte)
  | 0 => return ([], [])
  | n + 1 => do
    let (t, w) ← boxWord c va
    require (!decide (w.tag = 0x00#8)) (excA 0x05#8 va)
    require (!reservedTag w.tag) (excA 0x03#8 va)
    let (ws, rest) ← boxBody c (va + 8#64) n
    return ((va, t) :: ws, (List.range 8).map (byteOf w.val) ++ rest)

/-- A decimal-path operand: a fixnum promoted, or the box that a decimal pointer addresses (R85, R86). -/
def decOperand (c : CoreId) (opnd : Nat) (w : TW) : Exec Box := do
  if w.tag = 0x01#8 then return { words := [], value := .ok w.val.toInt }
  else
    let (hs, at_, h) ← boxHeader c (addr56 w.val)
    if !boxHeaderOk h then return { words := hs, value := .error (boxFault opnd at_) }
    else
      let n := fieldN h.val 32 8
      let (ws, bytes) ← boxBody c (at_ + 8#64) ((n + 7) / 8)
      let f := bytes.take n
      return { words := hs ++ ws
               value := match packedBad f with
                 | some i => .error (boxFault opnd (at_ + BitVec.ofNat 64 (8 + i)))
                 | none => .ok (packedValue f) }

/-- Watch the words of a box (R304). -/
def watchBox (c : CoreId) : List (Word × Xl) → Exec Unit
  | [] => pure ()
  | (va, _) :: t => do
    watch c false va 8
    watchBox c t

/-- The loads of a box retire. -/
def boxRetires (c : CoreId) : List (Word × Xl) → M Unit
  | [] => pure ()
  | (_, x) :: t => do
    loadRetires c x
    boxRetires c t

/-- The value of a box, or its cause 0x14. -/
def Box.judge (b : Box) : Exec Int :=
  match b.value with
  | .ok v => pure v
  | .error e => throw e

/-- The values of the decimal path's operands. The access faults of both boxes come before watchpoints, and those before cause 0x14 (Table
6-7); a box's words are read in order, srcA's box first (DEDUCED, log entry 33). -/
def decOperands (c : CoreId) (a b : TW) : Exec (Int × Int) := do
  let ba ← decOperand c 0 a
  let bb ← decOperand c 1 b
  watchBox c (ba.words ++ bb.words)
  let va ← ba.judge
  let vb ← bb.judge
  lift (boxRetires c (ba.words ++ bb.words))
  return (va, vb)

/-- The words of a body from its bytes. -/
def bodyWords (bs : List Byte) (n : Nat) : List TW :=
  (List.range n).map (fun i => TW.raw (BitVec.ofNat 64 (ofBytes ((bs.drop (8 * i)).take 8))))

/-- A body's stores at rising addresses. -/
def storesFrom (va : Word) : List TW → List (Word × TW)
  | [] => []
  | w :: t => (va, w) :: storesFrom (va + 8#64) t

/-- Allocate the box of a result and deliver its pointer (R87, R88). -/
def putDecimal (c : CoreId) (dst : Reg) (v : Int) : Exec Unit := do
  let d := digitCount v.natAbs
  require (decide (d ≤ 63)) (exc0 0x15#8)
  let len := max 1 ((d + 2) / 2)
  let words := (len + 7) / 8
  let x ← lift (getCtx c)
  let p := x.allocptr
  require (decide (p.toNat + 8 * (1 + words) ≤ x.alloclim.toNat)) (tagTrap 8#5)
  let header : TW := { tag := 0x80#8, val := placed words 0 ||| placed len 32 ||| placed 0x43 48 }
  initStores c (storesFrom p (header :: bodyWords (packedBytes len v) words))
  lift (modCtx c (fun x => { x with allocptr := p + BitVec.ofNat 64 (8 * (1 + words)) }))
  lift (foldSys c (p + BitVec.ofNat 64 (8 * (1 + words))))
  lift (writeReg c dst { tag := 0x43#8, val := p })
  lift (setCc c (ccInt v))

/-- The decimal path (R85–R88). -/
def decPath (c : CoreId) (g : GOp) (dst : Reg) (a b : TW) : Exec Unit := do
  require ((decide (a.tag = 0x01#8) || pointerOk a) && (decide (b.tag = 0x01#8) || pointerOk b)) (exc0 0x03#8)
  let (va, vb) ← decOperands c a b
  match g with
  | .add => putDecimal c dst (va + vb)
  | .sub => putDecimal c dst (va - vb)
  | .mul => putDecimal c dst (va * vb)
  | .div =>
    require (!decide (vb = 0)) (exc0 0x16#8)
    require (decide (Int.tmod va vb = 0)) (tagTrap 3#5)
    putDecimal c dst (Int.tdiv va vb)
  | .cmp => lift (setCc c (ccCompare va vb))

/-! ### Dispatch (R77–R79) -/

/-- Whether a tag is one of the decimal path's: fixnum or decimal. -/
def decTag (t : Tag) : Bool := decide (t = 0x01#8) || decide (t = 0x43#8)

/-- A binary generic instruction (Table 3-1). -/
def genericOp (c : CoreId) (i : Instr) (g : GOp) (dst a b : Reg) : Exec Unit := do
  let wa ← lift (readReg c a)
  let wb ← lift (readReg c b)
  genericCheck [wa, wb]
  let ta := wa.tag
  let tb := wb.tag
  if ta = 0x01#8 ∧ tb = 0x01#8 then intPath c g dst wa.val.toInt wb.val.toInt
  else if ta = 0x02#8 ∧ tb = 0x02#8 then fpPath c i g dst wa.val wb.val
  else if decTag ta && decTag tb then decPath c g dst wa wb
  else if ta = 0x06#8 ∧ tb = 0x01#8 then
    match g with
    | .add => putTimestamp c dst ((wa.val.toNat : Int) + wb.val.toInt)
    | .sub => putTimestamp c dst ((wa.val.toNat : Int) - wb.val.toInt)
    | g => throw (tagTrap g.cls)
  else if ta = 0x01#8 ∧ tb = 0x06#8 then
    match g with
    | .add => putTimestamp c dst (wa.val.toInt + (wb.val.toNat : Int))
    | g => throw (tagTrap g.cls)
  else if ta = 0x06#8 ∧ tb = 0x06#8 then
    match g with
    | .sub => putFixnum c dst ((wa.val.toNat : Int) - (wb.val.toNat : Int))
    | .cmp => lift (setCc c (ccCompare (wa.val.toNat : Int) (wb.val.toNat : Int)))
    | g => throw (tagTrap g.cls)
  else throw (tagTrap g.cls)

/-- GNEG (R79, R81, R82). -/
def gnegOp (c : CoreId) (dst a : Reg) : Exec Unit := do
  let w ← lift (readReg c a)
  genericCheck [w]
  if w.tag = 0x01#8 then putFixnum c dst (-w.val.toInt)
  else if w.tag = 0x02#8 then
    let v := w.val ^^^ placed 1 63
    lift (writeReg c dst { tag := 0x02#8, val := v })
    lift (setCc c (ccFloat v))
  else if w.tag = 0x43#8 then
    require (pointerOk w) (exc0 0x03#8)
    let (v, _) ← decOperands c w (TW.fix 0#64)
    putDecimal c dst (-v)
  else throw (tagTrap 5#5)

/-- GADD. -/
def execGadd (c : CoreId) (dst a b : Reg) := runSeq c (.gadd c dst a b) (genericOp c (.gadd c dst a b) .add dst a b)
/-- GSUB. -/
def execGsub (c : CoreId) (dst a b : Reg) := runSeq c (.gsub c dst a b) (genericOp c (.gsub c dst a b) .sub dst a b)
/-- GMUL. -/
def execGmul (c : CoreId) (dst a b : Reg) := runSeq c (.gmul c dst a b) (genericOp c (.gmul c dst a b) .mul dst a b)
/-- GDIV. -/
def execGdiv (c : CoreId) (dst a b : Reg) := runSeq c (.gdiv c dst a b) (genericOp c (.gdiv c dst a b) .div dst a b)
/-- GCMP. -/
def execGcmp (c : CoreId) (a b : Reg) := runSeq c (.gcmp c a b) (genericOp c (.gcmp c a b) .cmp 0#5 a b)
/-- GNEG. -/
def execGneg (c : CoreId) (dst a : Reg) := runSeq c (.gneg c dst a) (gnegOp c dst a)

/-! ### Lists (R94–R96) -/

/-- The cell address in a list instruction's srcA (R94). -/
def cellAddr (c : CoreId) (a : Reg) : Exec Word := do
  let w ← lift (readReg c a)
  checkAddr [(a, .cell, w)]
  return addr56 w.val

/-- HEAD (offset 0) and TAIL (offset 8). -/
def listLoad (c : CoreId) (dst a : Reg) (off : Word) : Exec Unit := do
  let p ← cellAddr c a
  let w ← loadWord c (p + off)
  lift (writeReg c dst w)

/-- SETH and SETT (R95). -/
def listStore (c : CoreId) (a b : Reg) (off : Word) : Exec Unit := do
  let p ← cellAddr c a
  let w ← lift (readReg c b)
  storeWord c (p + off) w

/-- CONS (R96). -/
def consBody (c : CoreId) (dst a b : Reg) : Exec Unit := do
  let wa ← lift (readReg c a)
  let wb ← lift (readReg c b)
  checkStored wa
  checkStored wb
  let x ← lift (getCtx c)
  let p := x.allocptr
  let cell : Word := BitVec.ofNat 64 ((p.toNat + 15) / 16 * 16)
  require (decide (cell.toNat + 16 ≤ x.alloclim.toNat)) (tagTrap 8#5)
  let filler : List (Word × TW) := if p = cell then [] else [(p, { tag := 0x80#8, val := 0x0041040000000000#64 })]
  initStores c (filler ++ [(cell, wa), (cell + 8#64, wb)])
  lift (modCtx c (fun x => { x with allocptr := cell + 16#64 }))
  lift (foldSys c (cell + 16#64))
  lift (writeReg c dst { tag := 0x40#8, val := cell })

/-- HEAD. -/
def execHead (c : CoreId) (dst a : Reg) := runSeq c (.head c dst a) (listLoad c dst a 0#64)
/-- TAIL. -/
def execTail (c : CoreId) (dst a : Reg) := runSeq c (.tail c dst a) (listLoad c dst a 8#64)
/-- SETH. -/
def execSeth (c : CoreId) (a b : Reg) := runSeq c (.seth c a b) (listStore c a b 0#64)
/-- SETT. -/
def execSett (c : CoreId) (a b : Reg) := runSeq c (.sett c a b) (listStore c a b 8#64)
/-- CONS. -/
def execCons (c : CoreId) (dst a b : Reg) := runSeq c (.cons c dst a b) (consBody c dst a b)

end Sys2Proof.Machine
end

