-- ==== Sys2Proof/Machine/JournalRows.lean ====
section
/-! DEFINITION. Journal, time and epoch rows (14, 16). -/

namespace Sys2Proof.Machine

/-- EPOCH_END (R344). -/
def execEpochEnd := runEvent epochEnds

/-- RING_DRAIN (R348). -/
def execRingDrain := runEvent journalRun

/-- JOURNAL_COMPLETION_WRITE (R371). -/
def execJournalCompletionWrite (rid : BitVec 16) (addr data : Word) := runEvent (completionArrive rid addr 8 data)

/-- JOURNAL_TARGET_TIMEOUT (R350). -/
def execJournalTargetTimeout := runEvent targetLate

/-- PPS_IN_EDGE (R342). -/
def execPpsInEdge := runEvent ppsEdge

/-- OPEN (R353). -/
def execOpenEpoch (e : EpochTo) (start : Word) :=
  runEvent (arrive { cls := 2, kind := 0, src := 0#5, dst := e.dst, msgid := 0, body := [TW.raw (e.n.setWidth 64), TW.raw start] } (openArrives e.n start))

/-- DURABLE (R353). -/
def execDurable (route : Route) (n : BitVec 48) :=
  runEvent (arrive { cls := 2, kind := 1, src := route.src, dst := route.dst, msgid := 0, body := [TW.raw (n.setWidth 64)] } (durableArrives route.src n))

/-- CLOSED (R353). -/
def execClosed (e : EpochTo) :=
  runEvent (arrive { cls := 2, kind := 2, src := 0#5, dst := e.dst, msgid := 0, body := [TW.raw (e.n.setWidth 64)] } (closedArrives e.n))

/-- HEARTBEAT (R388). -/
def execHeartbeat (route : Route) (d cl : BitVec 48) :=
  runEvent (arrive { cls := 2, kind := 3, src := route.src, dst := route.dst, msgid := 0, body := [TW.raw (d.setWidth 64), TW.raw (cl.setWidth 64)] }
    (heartbeatArrives route.src d cl))

/-- HEARTBEAT_DUE (R388). -/
def execHeartbeatDue := runEvent heartbeatSends

/-- REJOIN (R355). -/
def execRejoin (route : Route) (prov h : BitVec 48) :=
  runEvent (arrive { cls := 2, kind := 4, src := route.src, dst := route.dst, msgid := 0, body := [TW.raw (prov.setWidth 64), TW.raw (h.setWidth 64)] }
    (rejoinArrives route.src prov h))

/-- ADMIT (R355). -/
def execAdmit (e : EpochTo) (n : BitVec 48) (start : Word) :=
  runEvent (arrive { cls := 2, kind := 5, src := 0#5, dst := e.dst, msgid := 0, body := [TW.raw (e.n.setWidth 64), TW.raw (n.setWidth 64), TW.raw start] }
    (admitArrives e.n n start))

/-- SEAL (R351). -/
def execSealEpoch (route : Route) :=
  runEvent (arrive { cls := 2, kind := 6, src := route.src, dst := route.dst, msgid := 0, body := [] } (sealArrives route.src))

/-- ABSENCE_TIMEOUT (R354). -/
def execAbsenceTimeout (node : BitVec 5) := runEvent (declareAbsent node)

/-- DETACH_TIMEOUT (R354). -/
def execDetachTimeout := runEvent detachLate

/-- SYNC_PERIOD (R389). -/
def execSyncPeriod := runEvent syncSends

/-- SYNC (R389). -/
def execSync (t1 : Word) := runEvent (accepted 0 (syncArrives t1))

/-- DREQ (R389). -/
def execDreq (q : VPortId) := runEvent (accepted q (dreqArrives q))

/-- DRESP (R389). -/
def execDresp (t4 : Word) := runEvent (accepted 0 (drespArrives t4))

end Sys2Proof.Machine
end

