-- ==== Sys2Proof/Machine/MailboxRows.lean ====
section
/-! DEFINITION. Mailbox rows: Fisin executes the command of a mailbox channel or of the external channel (17, R403–R409, Table 17-10). -/

namespace Sys2Proof.Machine

/-- Fisin serves mailbox commands while the device is powered and out of reset; the external channel also in Halted (R409). A command that needs a
line that a pair defers, or a channel that has stopped issuing, is served once it can be (R287, R317). -/
def runMail (m : MSrc) (sp : Spec) (body : Cmd → M (Option Resp)) (s : State) : Host.Outcome State Fault Refusal :=
  .next (if s.standby.resetN && s.standby.pwrgood then s.unlessDeferred ((mailbox m sp body).run s).2 else s)

/-- GET_READINESS (R407). -/
def execGetReadiness (m : MSrc) := runMail m specGetReadiness getReadinessBody

/-- DECLARE_OPERATIONAL (R408). -/
def execDeclareOperational (m : MSrc) := runMail m specDeclareOperational declareOperationalBody

/-- GET_PAIRCFG (R272). -/
def execGetPaircfg (m : MSrc) := runMail m specGetPaircfg getPaircfgBody

/-- RETIRE_PAIR (R294). -/
def execRetirePair (m : MSrc) := runMail m specRetirePair retirePairBody

/-- MICROCODE_STAGE (R201). -/
def execMicrocodeStage (m : MSrc) := runMail m specMicrocodeStage microcodeStageBody

/-- MICROCODE_COMMIT (R202). -/
def execMicrocodeCommit (m : MSrc) := runMail m specMicrocodeCommit microcodeCommitBody

/-- MICROCODE_VERIFY (R200). -/
def execMicrocodeVerify (m : MSrc) := runMail m specMicrocodeVerify microcodeVerifyBody

/-- FIRMWARE_STAGE (R407). -/
def execFirmwareStage (m : MSrc) := runMail m specFirmwareStage firmwareStageBody

/-- FIRMWARE_SWAP (R427). -/
def execFirmwareSwap (m : MSrc) := runMail m specFirmwareSwap firmwareSwapBody

/-- INTEGRITY_REGION_SET (R330). -/
def execIntegrityRegionSet (m : MSrc) := runMail m specIntegrityRegionSet integrityRegionSetBody

/-- SCRUB_RATE_SET (R337). -/
def execScrubRateSet (m : MSrc) := runMail m specScrubRateSet scrubRateSetBody

/-- CHANNEL_RETRAIN (R319). -/
def execChannelRetrain (m : MSrc) := runMail m specChannelRetrain channelRetrainBody

/-- REMAP_QUERY (R332). -/
def execRemapQuery (m : MSrc) := runMail m specRemapQuery remapQueryBody

/-- ERROR_LOG_READ (R410). -/
def execErrorLogRead (m : MSrc) := runMail m specErrorLogRead errorLogReadBody

/-- COUNTER_RULE_SET (R339). -/
def execCounterRuleSet (m : MSrc) := runMail m specCounterRuleSet counterRuleSetBody

/-- AGEING_REPORT (R425). -/
def execAgeingReport (m : MSrc) := runMail m specAgeingReport ageingReportBody

/-- MARGIN_PLAN_GET (R426). -/
def execMarginPlanGet (m : MSrc) := runMail m specMarginPlanGet marginPlanGetBody

/-- MARGIN_PLAN_APPLY (R426). -/
def execMarginPlanApply (m : MSrc) := runMail m specMarginPlanApply marginPlanApplyBody

/-- VOLLEY_CONFIG (R375). -/
def execVolleyConfig (m : MSrc) := runMail m specVolleyConfig volleyConfigBody

/-- DOMAIN_STATUS (R407). -/
def execDomainStatus (m : MSrc) := runMail m specDomainStatus domainStatusBody

/-- JOURNAL_CONFIG (R407). -/
def execJournalConfig (m : MSrc) := runMail m specJournalConfig journalConfigBody

/-- DEBUG_ATTACH (R300). -/
def execDebugAttach (m : MSrc) := runMail m specDebugAttach debugAttachBody

/-- ENTER_DORMANT (R421). -/
def execEnterDormant (m : MSrc) := runMail m specEnterDormant enterDormantBody

/-- UNKNOWN_COMMAND (R405). -/
def execUnknownCommand (m : MSrc) (s : State) : Host.Outcome State Fault Refusal :=
  .next (if s.standby.resetN && s.standby.pwrgood then s.unlessDeferred ((unknownServe m knownCodes).run s).2 else s)

end Sys2Proof.Machine
end

