-- ==== Sys2Proof/Machine/MemoryRows.lean ====
section
/-! DEFINITION. Memory channel and integrity rows (12, 13). -/

namespace Sys2Proof.Machine

/-- Training passes or fails; the number that the log gives the phase is not stated: a free value. -/
def trainingOver (ch : ChanId) (pass selftest : Bool) : M Unit := do
  let phase ← (if pass && selftest then pure 0#64 else drawWord)
  trainingEnds ch pass (if selftest then 1#2 else 2#2) phase.toNat

/-- Training exceeds 500 ms: the channel fails. The self-test, which comes first and takes 2 ms, has passed: one that fails is a training
failure of its own (R310, R333). -/
def trainingLate (ch : ChanId) : M Unit := do
  let phase ← drawWord
  trainingEnds ch false 1#2 phase.toNat

/-- CHANNEL_TRAINING_DONE (R310). -/
def execChannelTrainingDone (ch : ChanId) (pass selftest : Bool) := runEvent (trainingOver ch pass selftest)

/-- CHANNEL_TRAINING_TIMEOUT (R310). -/
def execChannelTrainingTimeout (ch : ChanId) := runEvent (trainingLate ch)

/-- ZERO_FILL_DONE (R311). -/
def execZeroFillDone (ch : ChanId) := runEvent (zeroFill ch)

/-- MEMORY_READ (R334). -/
def execMemoryRead (pa : Pa) (flips stuck : List SymErr) := runEvent (controllerRead pa flips stuck)

/-- MEMORY_WRITE (R328). -/
def execMemoryWrite (pa : Pa) := runEvent (controllerWrite pa)

/-- ROW_REMAP_COPY_DONE (R332). -/
def execRowRemapCopyDone (ch : ChanId) (e : Fin 32) := runEvent (rowCopy ch e)

/-- AGATE_CONVERSION_DONE (R330). -/
def execAgateConversionDone := runEvent convertEnds

/-- CA_PARITY_ALERT (R317). -/
def execCaParityAlert (ch : ChanId) (wcrc : Bool) := runEvent (alertRetry ch wcrc)

/-- COMMAND_RETRY_DONE (R317). -/
def execCommandRetryDone (ch : ChanId) := runEvent (retryEnds ch)

/-- COMMAND_RETRY_BUDGET_EXPIRY (R317). -/
def execCommandRetryBudgetExpiry (ch : ChanId) := runEvent (retryOver ch)

/-- LLC_MISS_TIMEOUT (R318). -/
def execLlcMissTimeout (c : CoreId) (pa : Pa) := runEvent (missOver c pa)

/-- REFRESH_DUE (R315). -/
def execRefreshDue (r : Refresh) := runEvent (refreshIssues r.ch r.busy r.manage)

/-- DIMM_THERMAL_READ (R315). -/
def execDimmThermalRead (ch : ChanId) (temp : Int) := runEvent (thermalRead ch temp)

/-- DQS_MICRO_RETRAIN (R316). -/
def execDqsMicroRetrain (ch : ChanId) (rank : Fin 4) := runEvent (dqsRead ch rank)

/-- ZQ_CALIBRATION_DUE (R316). -/
def execZqCalibrationDue (r : RankOf) := runEvent (zqDone r.ch r.rank)

/-- SWEEPER_INTERVAL (R337). -/
def execSweeperInterval (ch : ChanId) (idle : Nat) := runEvent (sweep ch idle)

/-- CHANNEL_DRAIN_DONE (R319). -/
def execChannelDrainDone (ch : ChanId) := runEvent (drainEnds ch)

end Sys2Proof.Machine
end

