-- ==== Sys2Proof/Machine/PairRows.lean ====
section
/-! DEFINITION. Checked pair and microcode rows (07, 11). -/

namespace Sys2Proof.Machine

/-- WINDOW_IDLE_TIMEOUT (R280). -/
def execWindowIdleTimeout (p : PairId) := runEvent (idleEnds p)

/-- UMPIRE_VERDICT (R285). -/
def execUmpireVerdict (p : PairId) (sig : Word) (n : BitVec 48) (u : BitVec 8) (trail : Trailing) (umpireBad thirdBad : Bool) :=
  runEvent (verdict p sig n u.toNat trail.stores umpireBad thirdBad trail.events)

/-- RALLY_BUDGET_EXPIRY (R292). -/
def execRallyBudgetExpiry (p : PairId) := runEvent (budgetEnds p)

/-- CAS_DEFERRAL_TIMEOUT (R287). -/
def execCasDeferralTimeout (p : PairId) := runEvent (deferralEnds p)

/-- PAIR_WATCHDOG_EXPIRY (R292). -/
def execPairWatchdogExpiry (p : PairId) := runEvent (watchdogEnds p)

/-- RESCUE_AREA_WRITTEN (R294). -/
def execRescueAreaWritten (p : PairId) (agree : Bool) := runEvent (retirementEnds p agree)

/-- MICROWORD_REPAIR_DONE (R193). -/
def execMicrowordRepairDone (clu : CluId) (bank : Bool) (addr : BitVec 14) (c : CoreId) (ok : Bool) := runEvent (parityRepair c clu bank addr.toNat ok)

/-- MICROCODE_LOAD_DONE (R196). -/
def execMicrocodeLoadDone (boot alternate : SigOutcome) (bankOk : BitVec 24) := runEvent (loadDone boot alternate bankOk)

/-- PERIODIC_VERIFY_DUE (R200). -/
def execPeriodicVerifyDue := runEvent verifyDueNow

/-- MICROCODE_STAGE_DONE (R201). -/
def execMicrocodeStageDone (sig : SigOutcome) := runEvent (stageDone sig)

/-- MICROCODE_VERIFY_DONE (R200). -/
def execMicrocodeVerifyDone (ssig xsig : Bool) (mismatch : BitVec 24) := runEvent (verifyEnds (ssig && xsig) mismatch)

/-- FIRMWARE_STAGE_DONE (R407). -/
def execFirmwareStageDone (ok : Bool) := runEvent (firmwareStageEnds ok)

/-- SWAP_HANDOVER_READY (R427). -/
def execSwapHandoverReady := runEvent (swapOver true)

/-- SWAP_HANDOVER_TIMEOUT (R427). -/
def execSwapHandoverTimeout := runEvent (swapOver false)

end Sys2Proof.Machine
end

