-- ==== Sys2Proof/Machine/PcieRows.lean ====
section
/-! DEFINITION. PCIe, IOMMU and interrupt routing rows (15). -/

namespace Sys2Proof.Machine

/-- A request arrives at a root port that is in L0 (R360). -/
def atPort (port : PortId) (m : M Unit) : M Unit := do
  if ((← get).pcie.ports.get port).l0 then m

/-- A completion of a core's oldest outstanding request (R363): SC carries data, any other status fails it. -/
def completed (c : CoreId) (status : CplStatus) (data : Word) : M Unit :=
  match status with
  | .sc => requestDone c data
  | .ur => requestFails c 1
  | .ca => requestFails c 2
  | .ep => requestFails c 4

/-- INBOUND_MEMORY_READ (R366). -/
def execInboundMemoryRead (port : PortId) (rid : BitVec 16) (addr : Word) (len : Nat) := runEvent (atPort port (inboundRead rid addr len))

/-- INBOUND_MEMORY_WRITE (R366). -/
def execInboundMemoryWrite (port : PortId) (rid : BitVec 16) (addr : Word) (bytes : List Byte) (ep : Bool) := runEvent (atPort port (inboundWrite port rid addr bytes ep))

/-- MSI_WRITE (R370). -/
def execMsiWrite (port : PortId) (rid : BitVec 16) (addr : Word) (data : BitVec 32) := runEvent (atPort port (msiArrive rid addr 4 data.toNat))

/-- IRT_DELIVERY (R373). -/
def execIrtDelivery (i : Fin 2048) := runEvent (irtDeliver i.val)

/-- OUTBOUND_COMPLETION (R363). -/
def execOutboundCompletion (c : CoreId) (status : CplStatus) (data : Word) := runEvent (completed c status data)

/-- COMPLETION_TIMEOUT (R363). -/
def execCompletionTimeout (c : CoreId) := runEvent (requestFails c 3)

/-- PCIE_LINK_UP (R360). -/
def execPcieLinkUp (port : PortId) (rate : BitVec 3) (width : BitVec 5) := runEvent (linkUp port rate width)

/-- PCIE_LINK_DOWN (R363). -/
def execPcieLinkDown (port : PortId) := runEvent (linkDown port)

/-- ROOT_PORT_L0_TIMEOUT (R400). -/
def execRootPortL0Timeout (port : PortId) := runEvent (linkLate port)

/-- AER_ERROR (R372). -/
def execAerError (port : PortId) (status : AerReport) (journalWrite : Bool) := runEvent (aerReport port status journalWrite)

/-- IOMMU_INVALIDATION_DONE (R368). -/
def execIommuInvalidationDone := runEvent ioInvalidate

end Sys2Proof.Machine
end

