-- ==== Sys2Proof/Machine/PowerRows.lean ====
section
/-! DEFINITION. Reset, Staging, Dormant, clock, heat and ageing rows (17, 18, 19). -/

namespace Sys2Proof.Machine

/-- An event of the reset inputs and the standby domain, in every mode. -/
def runAlways (m : M Unit) (s : State) : Host.Outcome State Fault Refusal := .next (m.run s).2

/-- An event of a pin or sensor while the device is powered and out of reset, Halted included. -/
def runPowered (m : M Unit) (s : State) : Host.Outcome State Fault Refusal :=
  .next (if s.standby.resetN && s.standby.pwrgood then (m.run s).2 else s)

/-- RESET_N_RISE (R396). -/
def execResetNRise (straps : Straps) (record selfTest : Bool) :=
  runAlways (bootRises straps.role straps.bootsrc straps.pairsafe record selfTest)

/-- RESET_ASSERT (R434). -/
def execResetAssert (pwrgoodFell : Bool) := runAlways (assertReset pwrgoodFell)

/-- WAKE_N_EDGE (R422). -/
def execWakeNEdge := runAlways wakeEdge

/-- PWRGOOD_RISE_IN_DORMANT (R422). -/
def execPwrgoodRiseInDormant := runAlways powerReturns

/-- VSTBY_APPLIED (R422). -/
def execVstbyApplied := runAlways standbyOn

/-- VSTBY_REMOVED (R434). -/
def execVstbyRemoved := runAlways standbyOff

/-- PFAIL_EDGE (R174). -/
def execPfailEdge (d : DieId) := runPowered (pfailFalls d)

/-- PFAIL_RELEASE (R428). -/
def execPfailRelease (d : DieId) := runPowered (pfailRises d)

/-- HOT_ASSERT (R420). -/
def execHotAssert (d : DieId) (temp : Byte) := runEvent (hotStarts d temp)

/-- HOT_RELEASE (R420). -/
def execHotRelease (d : DieId) (temp : Byte) := runEvent (hotEnds d temp)

/-- THERMCAP_STEP (R420). -/
def execThermcapStep (d : DieId) := runEvent (thermalStep d)

/-- THERMTRIP (R420). -/
def execThermtrip (_d : DieId) := runPowered trip

/-- FISIN_FIRMWARE_READY (R396). -/
def execFisinFirmwareReady (sigs : TwoSigs) (cfgSig : Bool) (uart : List Byte) (dimms : Vector (Option Dimm) 12) :=
  runEvent (fisinStarts sigs.primary sigs.alternate cfgSig uart dimms)

/-- BOOT_FIRMWARE_RELEASE (R398). -/
def execBootFirmwareRelease (primarySig alternateSig : Bool) := runEvent (bootStarts primarySig alternateSig)

/-- LOGICALMAP_WRITE (R401). -/
def execLogicalmapWrite := runEvent logicalMap

/-- HUB_UNITS_READY (R400). -/
def execHubUnitsReady := runEvent hubStarts

/-- FISIN_WATCHDOG_EXPIRY (R393). -/
def execFisinWatchdogExpiry := runEvent enterHalted

/-- FISIN_SRAM_ERROR (R393). -/
def execFisinSramError := runEvent enterHalted

/-- ERROR_LOG_FLUSH (R410). -/
def execErrorLogFlush := runEvent (modFisin (·.flushLog))

/-- DORMANT_ENTRY_COMPLETE (R421). -/
def execDormantEntryComplete := runEvent dormantDone

/-- FREQUENCY_CHANGE_DONE (R418). -/
def execFrequencyChangeDone (clu : CluId) := runEvent (modClock clu (fun k => k.finish clu.val))

/-- AGEING_MONITOR_READ (R424). -/
def execAgeingMonitorRead (slacks : Vector (BitVec 16) 64) := runEvent (ageingRead slacks)

/-- MARGIN_PLAN_COMPUTE (R425). -/
def execMarginPlanCompute := runEvent planAll

end Sys2Proof.Machine
end

