-- ==== Sys2Proof/Machine/VolleyRows.lean ====
section
/-! DEFINITION. Volley port and message rows (16). -/

namespace Sys2Proof.Machine

/-- ACK (R379). -/
def execAck (q : VPortId) (seqno : Nat) := runEvent (ackArrives q seqno)

/-- FLIT_CRC_ERROR (R379). -/
def execFlitCrcError (f : RxFlit) := runEvent (flitFails f.q f.seqno)

/-- NAK_RECEIVED (R379). -/
def execNakReceived (q : VPortId) := runEvent (nakArrives q)

/-- HOLD (R381). -/
def execHold (q : VPortId) (link : Nat) := runEvent (holdArrives q link)

/-- HOLD_REPEAT_DUE (R381). -/
def execHoldRepeatDue (q : VPortId) := runEvent (holdAgain q)

/-- HOLD_FREEZE_EXPIRY (R381). -/
def execHoldFreezeExpiry (link : Nat) := runEvent (holdExpires link)

/-- RESUME (R381). -/
def execResume (q : VPortId) (link : Nat) := runEvent (resumeArrives q link)

/-- HELLO (R376). -/
def execHello (q : VPortId) (node : BitVec 5) (port : BitVec 2) (manager : Bool) := runEvent (helloArrives q node port manager)

/-- VOLLEY_TRAINING_ATTEMPT (R380). -/
def execVolleyTrainingAttempt (q : VPortId) := runEvent (portTrains q)

/-- VOLLEY_TRAINING_DONE (R380). -/
def execVolleyTrainingDone (q : VPortId) (pass : Bool) := runEvent (portTrained q pass)

/-- VOLLEY_REPLAY_DONE (R380). -/
def execVolleyReplayDone (q : VPortId) := runEvent (portReplayed q)

/-- VOLLEY_REPLAY_TIMEOUT (R380). -/
def execVolleyReplayTimeout (q : VPortId) := runEvent (portReplayOver q)

/-- VOLLEY_RETRAIN_DONE (R380). -/
def execVolleyRetrainDone (q : VPortId) := runEvent (portRetrained q)

/-- VOLLEY_RETRY_BUDGET_EXPIRY (R380). -/
def execVolleyRetryBudgetExpiry (q : VPortId) := runEvent (portBudgetOver q)

/-- MESSAGE_TIMEOUT (R381). -/
def execMessageTimeout (msgid : Nat) := runEvent (messageOver msgid)

/-- BULK_DESCRIPTOR_SEND (R383). -/
def execBulkDescriptorSend := runEvent descSend

/-- BULK_WRITE (R385). -/
def execBulkWrite (route : Route) (win off : Nat) (words : List TW) (msgid : Nat) :=
  runEvent (arrive { cls := 5, kind := 0, src := route.src, dst := route.dst, msgid := msgid, body := writeHead win words.length off :: words }
    (bulkLand route.src win off words msgid))

/-- BULK_ACKNOWLEDGEMENT (R384). -/
def execBulkAcknowledgement (msg : MsgId) (code : BitVec 8) :=
  runEvent (arrive { cls := 5, kind := 1, src := msg.src, dst := msg.dst, msgid := msg.id, body := [TW.raw (code.setWidth 64)] } (bulkAck msg.id code.toNat))

/-- RAISE (R386). -/
def execRaise (route : Route) (irt count msgid : Nat) :=
  runEvent (arrive { cls := 3, kind := 0, src := route.src, dst := route.dst, msgid := msgid, body := [TW.raw (BitVec.ofNat 64 irt), TW.raw (BitVec.ofNat 64 count)] }
    (raiseArrives route.src irt count msgid))

/-- ACKI (R386). -/
def execAcki (msg : MsgId) :=
  runEvent (arrive { cls := 3, kind := 1, src := msg.src, dst := msg.dst, msgid := msg.id, body := [] } (bulkAck msg.id 0))

/-- MAILBOX_REQUEST (R387). -/
def execMailboxRequest (route : Route) (cmd : Vector Word 8) :=
  runEvent (arrive { cls := 4, kind := 0, src := route.src, dst := route.dst, msgid := fieldN (cmd.get 0) 24 8, body := cmd.toList.map TW.raw }
    (requestArrives route.src cmd))

/-- MAILBOX_RESPONSE (R387). -/
def execMailboxResponse (tag : TagTo) (node : BitVec 5) (result : Byte) (rsp : Vector Word 8) :=
  runEvent (arrive { cls := 4, kind := 1, src := node, dst := tag.dst, msgid := tag.ctag.toNat, body := TW.raw (result.setWidth 64) :: rsp.toList.map TW.raw }
    (responseArrives tag.ctag node result rsp))

end Sys2Proof.Machine
end

