-- ==== Sys2Proof/Machine/Dispatch.lean ====
section
/-! DEFINITION. One arm per command, each a direct call of its meaning. -/

namespace Sys2Proof.Machine

def exec (i : Instr) (s : State) : Host.Outcome State Fault Refusal :=
  match i with
  | .add c dst a b => Sys2Proof.Machine.execAdd c dst a b s
  | .sub c dst a b => Sys2Proof.Machine.execSub c dst a b s
  | .and c dst a b => Sys2Proof.Machine.execAnd c dst a b s
  | .or c dst a b => Sys2Proof.Machine.execOr c dst a b s
  | .xor c dst a b => Sys2Proof.Machine.execXor c dst a b s
  | .shl c dst a b => Sys2Proof.Machine.execShl c dst a b s
  | .shr c dst a b => Sys2Proof.Machine.execShr c dst a b s
  | .sar c dst a b => Sys2Proof.Machine.execSar c dst a b s
  | .mul c dst a b => Sys2Proof.Machine.execMul c dst a b s
  | .mulw c a b => Sys2Proof.Machine.execMulw c a b s
  | .mulwu c a b => Sys2Proof.Machine.execMulwu c a b s
  | .div c dst a b => Sys2Proof.Machine.execDiv c dst a b s
  | .divu c dst a b => Sys2Proof.Machine.execDivu c dst a b s
  | .rem c dst a b => Sys2Proof.Machine.execRem c dst a b s
  | .remu c dst a b => Sys2Proof.Machine.execRemu c dst a b s
  | .cmp c a b => Sys2Proof.Machine.execCmp c a b s
  | .cmpu c a b => Sys2Proof.Machine.execCmpu c a b s
  | .cmpw c a b => Sys2Proof.Machine.execCmpw c a b s
  | .mov c dst a => Sys2Proof.Machine.execMov c dst a s
  | .addi c dst a imm => Sys2Proof.Machine.execAddi c dst a imm s
  | .andi c dst a imm => Sys2Proof.Machine.execAndi c dst a imm s
  | .ori c dst a imm => Sys2Proof.Machine.execOri c dst a imm s
  | .xori c dst a imm => Sys2Proof.Machine.execXori c dst a imm s
  | .shi c dst a kind count => Sys2Proof.Machine.execShi c dst a kind count s
  | .muli c dst a imm => Sys2Proof.Machine.execMuli c dst a imm s
  | .cmpi c a imm => Sys2Proof.Machine.execCmpi c a imm s
  | .cmpui c a imm => Sys2Proof.Machine.execCmpui c a imm s
  | .ldi c dst imm => Sys2Proof.Machine.execLdi c dst imm s
  | .ldih c dst k imm => Sys2Proof.Machine.execLdih c dst k imm s
  | .fadd c dst a b m => Sys2Proof.Machine.execFadd c dst a b m s
  | .fsub c dst a b m => Sys2Proof.Machine.execFsub c dst a b m s
  | .fmul c dst a b m => Sys2Proof.Machine.execFmul c dst a b m s
  | .fdiv c dst a b m => Sys2Proof.Machine.execFdiv c dst a b m s
  | .fsqrt c dst a m => Sys2Proof.Machine.execFsqrt c dst a m s
  | .fcmp c a b p => Sys2Proof.Machine.execFcmp c a b p s
  | .fneg c dst a p => Sys2Proof.Machine.execFneg c dst a p s
  | .fabs c dst a p => Sys2Proof.Machine.execFabs c dst a p s
  | .fcvtS c dst a rms => Sys2Proof.Machine.execFcvtS c dst a rms s
  | .fcvtD c dst a rms => Sys2Proof.Machine.execFcvtD c dst a rms s
  | .fcvtX c dst a m => Sys2Proof.Machine.execFcvtX c dst a m s
  | .fcvtF c dst a m => Sys2Proof.Machine.execFcvtF c dst a m s
  | .fmadd c dst a b cc m => Sys2Proof.Machine.execFmadd c dst a b cc m s
  | .fmsub c dst a b cc m => Sys2Proof.Machine.execFmsub c dst a b cc m s
  | .fnmadd c dst a b cc m => Sys2Proof.Machine.execFnmadd c dst a b cc m s
  | .fnmsub c dst a b cc m => Sys2Proof.Machine.execFnmsub c dst a b cc m s
  | .gadd c dst a b => Sys2Proof.Machine.execGadd c dst a b s
  | .gsub c dst a b => Sys2Proof.Machine.execGsub c dst a b s
  | .gmul c dst a b => Sys2Proof.Machine.execGmul c dst a b s
  | .gdiv c dst a b => Sys2Proof.Machine.execGdiv c dst a b s
  | .gcmp c a b => Sys2Proof.Machine.execGcmp c a b s
  | .gneg c dst a => Sys2Proof.Machine.execGneg c dst a s
  | .head c dst a => Sys2Proof.Machine.execHead c dst a s
  | .tail c dst a => Sys2Proof.Machine.execTail c dst a s
  | .cons c dst a b => Sys2Proof.Machine.execCons c dst a b s
  | .seth c a b => Sys2Proof.Machine.execSeth c a b s
  | .sett c a b => Sys2Proof.Machine.execSett c a b s
  | .tagof c dst a => Sys2Proof.Machine.execTagof c dst a s
  | .tagset c dst a tag => Sys2Proof.Machine.execTagset c dst a tag s
  | .ld c rt sz m => Sys2Proof.Machine.execLd c rt sz m s
  | .lds c rt sz m => Sys2Proof.Machine.execLds c rt sz m s
  | .st c rt sz m => Sys2Proof.Machine.execSt c rt sz m s
  | .ldt c rt m => Sys2Proof.Machine.execLdt c rt m s
  | .cas c dst a b => Sys2Proof.Machine.execCas c dst a b s
  | .dzl c m => Sys2Proof.Machine.execDzl c m s
  | .cpre c m => Sys2Proof.Machine.execCpre c m s
  | .cflush c m => Sys2Proof.Machine.execCflush c m s
  | .cinvLine c m => Sys2Proof.Machine.execCinvLine c m s
  | .cinvAll c => Sys2Proof.Machine.execCinvAll c s
  | .wlock c icache mask => Sys2Proof.Machine.execWlock c icache mask s
  | .wunlock c icache mask => Sys2Proof.Machine.execWunlock c icache mask s
  | .rep c follow => Sys2Proof.Machine.execRep c follow s
  | .repn c follow => Sys2Proof.Machine.execRepn c follow s
  | .b c off => Sys2Proof.Machine.execB c off s
  | .call c off => Sys2Proof.Machine.execCall c off s
  | .bc c mask off => Sys2Proof.Machine.execBc c mask off s
  | .jmpr c a => Sys2Proof.Machine.execJmpr c a s
  | .callr c a => Sys2Proof.Machine.execCallr c a s
  | .ret c => Sys2Proof.Machine.execRet c s
  | .save c => Sys2Proof.Machine.execSave c s
  | .restore c => Sys2Proof.Machine.execRestore c s
  | .ctxsw c a b => Sys2Proof.Machine.execCtxsw c a b s
  | .trap c n => Sys2Proof.Machine.execTrap c n s
  | .rtt c => Sys2Proof.Machine.execRtt c s
  | .rttTd c => Sys2Proof.Machine.execRttTd c s
  | .rttTs c => Sys2Proof.Machine.execRttTs c s
  | .rttTr c => Sys2Proof.Machine.execRttTr c s
  | .fbar c => Sys2Proof.Machine.execFbar c s
  | .mbar c => Sys2Proof.Machine.execMbar c s
  | .tlbi c a form => Sys2Proof.Machine.execTlbi c a form s
  | .mfs c dst n => Sys2Proof.Machine.execMfs c dst n s
  | .mts c a n => Sys2Proof.Machine.execMts c a n s
  | .mfp c dst high => Sys2Proof.Machine.execMfp c dst high s
  | .jappend c a b => Sys2Proof.Machine.execJappend c a b s
  | .jwait c a => Sys2Proof.Machine.execJwait c a s
  | .jstamp c dst => Sys2Proof.Machine.execJstamp c dst s
  | .dadd c x => Sys2Proof.Machine.execDadd c x s
  | .dsub c x => Sys2Proof.Machine.execDsub c x s
  | .dmul c x => Sys2Proof.Machine.execDmul c x s
  | .ddiv c x => Sys2Proof.Machine.execDdiv c x s
  | .dcmp c x => Sys2Proof.Machine.execDcmp c x s
  | .dshr c x => Sys2Proof.Machine.execDshr c x s
  | .dzad c x => Sys2Proof.Machine.execDzad c x s
  | .dcvb c x => Sys2Proof.Machine.execDcvb c x s
  | .dcvd c x => Sys2Proof.Machine.execDcvd c x s
  | .fmt c x => Sys2Proof.Machine.execFmt c x s
  | .fmtf c x => Sys2Proof.Machine.execFmtf c x s
  | .mvst c x => Sys2Proof.Machine.execMvst c x s
  | .mvtr c x => Sys2Proof.Machine.execMvtr c x s
  | .cmps c x => Sys2Proof.Machine.execCmps c x s
  | .srch c x => Sys2Proof.Machine.execSrch c x s
  | .customerExtensionFunction c dst a b fn => Sys2Proof.Machine.execCustomerExtensionFunction c dst a b fn s
  | .hdtbWrite c a => Sys2Proof.Machine.execHdtbWrite c a s
  | .spanRegisterWrite c span which a => Sys2Proof.Machine.execSpanRegisterWrite c span which a s
  | .s2rootWrite c a => Sys2Proof.Machine.execS2rootWrite c a s
  | .ttinfoWrite c a => Sys2Proof.Machine.execTtinfoWrite c a s
  | .productRegisterWrite c high a => Sys2Proof.Machine.execProductRegisterWrite c high a s
  | .cswWrite c a => Sys2Proof.Machine.execCswWrite c a s
  | .gcctlWrite c a => Sys2Proof.Machine.execGcctlWrite c a s
  | .ctxctlSpill c a => Sys2Proof.Machine.execCtxctlSpill c a s
  | .ctxctlDiscard c a => Sys2Proof.Machine.execCtxctlDiscard c a s
  | .tlbctlFlush c a => Sys2Proof.Machine.execTlbctlFlush c a s
  | .l2Disable c a => Sys2Proof.Machine.execL2Disable c a s
  | .l2Enable c a => Sys2Proof.Machine.execL2Enable c a s
  | .l2FlushAndDisable c a => Sys2Proof.Machine.execL2FlushAndDisable c a s
  | .victimCacheDisable c a => Sys2Proof.Machine.execVictimCacheDisable c a s
  | .windowEndRequest c a => Sys2Proof.Machine.execWindowEndRequest c a s
  | .debugSkip c a => Sys2Proof.Machine.execDebugSkip c a s
  | .dcsRegisterWrite c off v => Sys2Proof.Machine.execDcsRegisterWrite c off v s
  | .rcRegisterRead c dst off => Sys2Proof.Machine.execRcRegisterRead c dst off s
  | .level0Doorbell c p odd v => Sys2Proof.Machine.execLevel0Doorbell c p odd v s
  | .pairStart c p v => Sys2Proof.Machine.execPairStart c p v s
  | .debugHalt c p v => Sys2Proof.Machine.execDebugHalt c p v s
  | .debugStep c p v => Sys2Proof.Machine.execDebugStep c p v s
  | .debugHoldAtMismatch c p v => Sys2Proof.Machine.execDebugHoldAtMismatch c p v s
  | .debugReplay c p v => Sys2Proof.Machine.execDebugReplay c p v s
  | .debuggerWrite c p v => Sys2Proof.Machine.execDebuggerWrite c p v s
  | .sealnow c v => Sys2Proof.Machine.execSealnow c v s
  | .iommuInvalidate c v => Sys2Proof.Machine.execIommuInvalidate c v s
  | .volleyPortRetrain c q v => Sys2Proof.Machine.execVolleyPortRetrain c q v s
  | .frequencyRequest c clu v => Sys2Proof.Machine.execFrequencyRequest c clu v s
  | .sendQueueTailWrite c v => Sys2Proof.Machine.execSendQueueTailWrite c v s
  | .getReadiness m => Sys2Proof.Machine.execGetReadiness m s
  | .declareOperational m => Sys2Proof.Machine.execDeclareOperational m s
  | .getPaircfg m => Sys2Proof.Machine.execGetPaircfg m s
  | .retirePair m => Sys2Proof.Machine.execRetirePair m s
  | .microcodeStage m => Sys2Proof.Machine.execMicrocodeStage m s
  | .microcodeCommit m => Sys2Proof.Machine.execMicrocodeCommit m s
  | .microcodeVerify m => Sys2Proof.Machine.execMicrocodeVerify m s
  | .firmwareStage m => Sys2Proof.Machine.execFirmwareStage m s
  | .firmwareSwap m => Sys2Proof.Machine.execFirmwareSwap m s
  | .integrityRegionSet m => Sys2Proof.Machine.execIntegrityRegionSet m s
  | .scrubRateSet m => Sys2Proof.Machine.execScrubRateSet m s
  | .channelRetrain m => Sys2Proof.Machine.execChannelRetrain m s
  | .remapQuery m => Sys2Proof.Machine.execRemapQuery m s
  | .errorLogRead m => Sys2Proof.Machine.execErrorLogRead m s
  | .counterRuleSet m => Sys2Proof.Machine.execCounterRuleSet m s
  | .ageingReport m => Sys2Proof.Machine.execAgeingReport m s
  | .marginPlanGet m => Sys2Proof.Machine.execMarginPlanGet m s
  | .marginPlanApply m => Sys2Proof.Machine.execMarginPlanApply m s
  | .volleyConfig m => Sys2Proof.Machine.execVolleyConfig m s
  | .domainStatus m => Sys2Proof.Machine.execDomainStatus m s
  | .journalConfig m => Sys2Proof.Machine.execJournalConfig m s
  | .debugAttach m => Sys2Proof.Machine.execDebugAttach m s
  | .enterDormant m => Sys2Proof.Machine.execEnterDormant m s
  | .interruptEntry c within => Sys2Proof.Machine.execInterruptEntry c within s
  | .fdqDelivery n => Sys2Proof.Machine.execFdqDelivery n s
  | .spillBufferDrain c => Sys2Proof.Machine.execSpillBufferDrain c s
  | .spillDrainFaultEntry c => Sys2Proof.Machine.execSpillDrainFaultEntry c s
  | .reserveRefillMove c => Sys2Proof.Machine.execReserveRefillMove c s
  | .machineCheckEntry c => Sys2Proof.Machine.execMachineCheckEntry c s
  | .pfailEdge d => Sys2Proof.Machine.execPfailEdge d s
  | .missFillArrival c line how => Sys2Proof.Machine.execMissFillArrival c line how s
  | .homeSliceRequest c pa kind arrayErr => Sys2Proof.Machine.execHomeSliceRequest c pa kind arrayErr s
  | .forwardedRequest c pa kind arrayErr => Sys2Proof.Machine.execForwardedRequest c pa kind arrayErr s
  | .l2FlushDisableDone c => Sys2Proof.Machine.execL2FlushDisableDone c s
  | .tlbiReceive receiver issuer => Sys2Proof.Machine.execTlbiReceive receiver issuer s
  | .tlbiComplete c => Sys2Proof.Machine.execTlbiComplete c s
  | .coherenceTimeout c pa viaHub => Sys2Proof.Machine.execCoherenceTimeout c pa viaHub s
  | .dieBridgeCrcError g => Sys2Proof.Machine.execDieBridgeCrcError g s
  | .dieBridgeReplayDone g => Sys2Proof.Machine.execDieBridgeReplayDone g s
  | .dieBridgeReplayTimeout g => Sys2Proof.Machine.execDieBridgeReplayTimeout g s
  | .dieBridgeRetrainDone g ok => Sys2Proof.Machine.execDieBridgeRetrainDone g ok s
  | .detourExit => Sys2Proof.Machine.execDetourExit s
  | .hubBridgeLost d => Sys2Proof.Machine.execHubBridgeLost d s
  | .uncontainedError die => Sys2Proof.Machine.execUncontainedError die s
  | .windowIdleTimeout p => Sys2Proof.Machine.execWindowIdleTimeout p s
  | .umpireVerdict p sig n u trail umpireBad thirdBad => Sys2Proof.Machine.execUmpireVerdict p sig n u trail umpireBad thirdBad s
  | .rallyBudgetExpiry p => Sys2Proof.Machine.execRallyBudgetExpiry p s
  | .casDeferralTimeout p => Sys2Proof.Machine.execCasDeferralTimeout p s
  | .pairWatchdogExpiry p => Sys2Proof.Machine.execPairWatchdogExpiry p s
  | .pairRetiredTrap c => Sys2Proof.Machine.execPairRetiredTrap c s
  | .microwordRepairDone clu bank addr c ok => Sys2Proof.Machine.execMicrowordRepairDone clu bank addr c ok s
  | .commitClusterStepDone step ok => Sys2Proof.Machine.execCommitClusterStepDone step ok s
  | .microcodeLoadDone boot alternate bankOk => Sys2Proof.Machine.execMicrocodeLoadDone boot alternate bankOk s
  | .periodicVerifyDue => Sys2Proof.Machine.execPeriodicVerifyDue s
  | .channelTrainingDone ch pass selftest => Sys2Proof.Machine.execChannelTrainingDone ch pass selftest s
  | .channelTrainingTimeout ch => Sys2Proof.Machine.execChannelTrainingTimeout ch s
  | .zeroFillDone ch => Sys2Proof.Machine.execZeroFillDone ch s
  | .memoryRead pa flips stuck => Sys2Proof.Machine.execMemoryRead pa flips stuck s
  | .memoryWrite pa => Sys2Proof.Machine.execMemoryWrite pa s
  | .rowRemapCopyDone ch e => Sys2Proof.Machine.execRowRemapCopyDone ch e s
  | .agateConversionDone => Sys2Proof.Machine.execAgateConversionDone s
  | .caParityAlert ch wcrc => Sys2Proof.Machine.execCaParityAlert ch wcrc s
  | .commandRetryDone ch => Sys2Proof.Machine.execCommandRetryDone ch s
  | .commandRetryBudgetExpiry ch => Sys2Proof.Machine.execCommandRetryBudgetExpiry ch s
  | .llcMissTimeout c pa => Sys2Proof.Machine.execLlcMissTimeout c pa s
  | .refreshDue r => Sys2Proof.Machine.execRefreshDue r s
  | .dimmThermalRead ch temp => Sys2Proof.Machine.execDimmThermalRead ch temp s
  | .dqsMicroRetrain ch rank => Sys2Proof.Machine.execDqsMicroRetrain ch rank s
  | .zqCalibrationDue r => Sys2Proof.Machine.execZqCalibrationDue r s
  | .sweeperInterval ch idle => Sys2Proof.Machine.execSweeperInterval ch idle s
  | .epochEnd => Sys2Proof.Machine.execEpochEnd s
  | .appendNotice c => Sys2Proof.Machine.execAppendNotice c s
  | .ringDrain => Sys2Proof.Machine.execRingDrain s
  | .journalCompletionWrite rid addr data => Sys2Proof.Machine.execJournalCompletionWrite rid addr data s
  | .journalTargetTimeout => Sys2Proof.Machine.execJournalTargetTimeout s
  | .jwaitWake c => Sys2Proof.Machine.execJwaitWake c s
  | .ppsInEdge => Sys2Proof.Machine.execPpsInEdge s
  | .openEpoch e start => Sys2Proof.Machine.execOpenEpoch e start s
  | .durable route n => Sys2Proof.Machine.execDurable route n s
  | .closed e => Sys2Proof.Machine.execClosed e s
  | .heartbeat route d cl => Sys2Proof.Machine.execHeartbeat route d cl s
  | .heartbeatDue => Sys2Proof.Machine.execHeartbeatDue s
  | .rejoin route prov h => Sys2Proof.Machine.execRejoin route prov h s
  | .admission e firstFree start => Sys2Proof.Machine.execAdmit e firstFree start s
  | .sealEpoch route => Sys2Proof.Machine.execSealEpoch route s
  | .absenceTimeout node => Sys2Proof.Machine.execAbsenceTimeout node s
  | .detachTimeout => Sys2Proof.Machine.execDetachTimeout s
  | .syncPeriod => Sys2Proof.Machine.execSyncPeriod s
  | .sync t1 => Sys2Proof.Machine.execSync t1 s
  | .dreq q => Sys2Proof.Machine.execDreq q s
  | .dresp t4 => Sys2Proof.Machine.execDresp t4 s
  | .ack q seqno => Sys2Proof.Machine.execAck q seqno s
  | .flitCrcError f => Sys2Proof.Machine.execFlitCrcError f s
  | .nakReceived q => Sys2Proof.Machine.execNakReceived q s
  | .hold q link => Sys2Proof.Machine.execHold q link s
  | .holdRepeatDue q => Sys2Proof.Machine.execHoldRepeatDue q s
  | .holdFreezeExpiry link => Sys2Proof.Machine.execHoldFreezeExpiry link s
  | .resume q link => Sys2Proof.Machine.execResume q link s
  | .hello q node port manager => Sys2Proof.Machine.execHello q node port manager s
  | .volleyTrainingAttempt q => Sys2Proof.Machine.execVolleyTrainingAttempt q s
  | .volleyTrainingDone q pass => Sys2Proof.Machine.execVolleyTrainingDone q pass s
  | .volleyReplayDone q => Sys2Proof.Machine.execVolleyReplayDone q s
  | .volleyReplayTimeout q => Sys2Proof.Machine.execVolleyReplayTimeout q s
  | .volleyRetrainDone q => Sys2Proof.Machine.execVolleyRetrainDone q s
  | .volleyRetryBudgetExpiry q => Sys2Proof.Machine.execVolleyRetryBudgetExpiry q s
  | .messageTimeout msgid => Sys2Proof.Machine.execMessageTimeout msgid s
  | .bulkDescriptorSend => Sys2Proof.Machine.execBulkDescriptorSend s
  | .bulkWrite route win off words msgid => Sys2Proof.Machine.execBulkWrite route win off words msgid s
  | .bulkAcknowledgement msg code => Sys2Proof.Machine.execBulkAcknowledgement msg code s
  | .raise route irt count msgid => Sys2Proof.Machine.execRaise route irt count msgid s
  | .acki msg => Sys2Proof.Machine.execAcki msg s
  | .mailboxRequest route cmd => Sys2Proof.Machine.execMailboxRequest route cmd s
  | .mailboxResponse tag node result rsp => Sys2Proof.Machine.execMailboxResponse tag node result rsp s
  | .inboundMemoryRead port rid addr len => Sys2Proof.Machine.execInboundMemoryRead port rid addr len s
  | .inboundMemoryWrite port rid addr bytes ep => Sys2Proof.Machine.execInboundMemoryWrite port rid addr bytes ep s
  | .msiWrite port rid addr data => Sys2Proof.Machine.execMsiWrite port rid addr data s
  | .irtDelivery n => Sys2Proof.Machine.execIrtDelivery n s
  | .outboundCompletion c status data => Sys2Proof.Machine.execOutboundCompletion c status data s
  | .completionTimeout c => Sys2Proof.Machine.execCompletionTimeout c s
  | .pcieLinkUp port rate width => Sys2Proof.Machine.execPcieLinkUp port rate width s
  | .pcieLinkDown port => Sys2Proof.Machine.execPcieLinkDown port s
  | .rootPortL0Timeout port => Sys2Proof.Machine.execRootPortL0Timeout port s
  | .aerError port status journalWrite => Sys2Proof.Machine.execAerError port status journalWrite s
  | .resetNRise straps record selfTest => Sys2Proof.Machine.execResetNRise straps record selfTest s
  | .resetAssert pwrgoodFell => Sys2Proof.Machine.execResetAssert pwrgoodFell s
  | .wakeNEdge => Sys2Proof.Machine.execWakeNEdge s
  | .pwrgoodRiseInDormant => Sys2Proof.Machine.execPwrgoodRiseInDormant s
  | .fisinFirmwareReady sigs cfgSig uart dimms => Sys2Proof.Machine.execFisinFirmwareReady sigs cfgSig uart dimms s
  | .bootFirmwareRelease primarySig alternateSig => Sys2Proof.Machine.execBootFirmwareRelease primarySig alternateSig s
  | .logicalmapWrite => Sys2Proof.Machine.execLogicalmapWrite s
  | .fisinWatchdogExpiry => Sys2Proof.Machine.execFisinWatchdogExpiry s
  | .fisinSramError => Sys2Proof.Machine.execFisinSramError s
  | .errorLogFlush => Sys2Proof.Machine.execErrorLogFlush s
  | .swapHandoverReady => Sys2Proof.Machine.execSwapHandoverReady s
  | .swapHandoverTimeout => Sys2Proof.Machine.execSwapHandoverTimeout s
  | .dormantEntryComplete => Sys2Proof.Machine.execDormantEntryComplete s
  | .frequencyChangeDone clu => Sys2Proof.Machine.execFrequencyChangeDone clu s
  | .hotAssert d temp => Sys2Proof.Machine.execHotAssert d temp s
  | .hotRelease d temp => Sys2Proof.Machine.execHotRelease d temp s
  | .thermcapStep d => Sys2Proof.Machine.execThermcapStep d s
  | .thermtrip d => Sys2Proof.Machine.execThermtrip d s
  | .ageingMonitorRead slacks => Sys2Proof.Machine.execAgeingMonitorRead slacks s
  | .marginPlanCompute => Sys2Proof.Machine.execMarginPlanCompute s
  | .reservedOpcode c word ext => Sys2Proof.Machine.execReservedOpcode c word ext s
  | .unknownCommand m => Sys2Proof.Machine.execUnknownCommand m s
  | .storeBufferDrain d => Sys2Proof.Machine.execStoreBufferDrain d s
  | .microcodeStageDone sig => Sys2Proof.Machine.execMicrocodeStageDone sig s
  | .microcodeVerifyDone ssig xsig mismatch => Sys2Proof.Machine.execMicrocodeVerifyDone ssig xsig mismatch s
  | .firmwareStageDone ok => Sys2Proof.Machine.execFirmwareStageDone ok s
  | .rescueAreaWritten p agree => Sys2Proof.Machine.execRescueAreaWritten p agree s
  | .channelDrainDone ch => Sys2Proof.Machine.execChannelDrainDone ch s
  | .hubUnitsReady => Sys2Proof.Machine.execHubUnitsReady s
  | .fabricBringUpDone fabW fabE groupsOk => Sys2Proof.Machine.execFabricBringUpDone fabW fabE groupsOk s
  | .iommuInvalidationDone => Sys2Proof.Machine.execIommuInvalidationDone s
  | .vstbyApplied => Sys2Proof.Machine.execVstbyApplied s
  | .vstbyRemoved => Sys2Proof.Machine.execVstbyRemoved s
  | .hubBridgeCrcError d => Sys2Proof.Machine.execHubBridgeCrcError d s
  | .hubBridgeReplayDone d => Sys2Proof.Machine.execHubBridgeReplayDone d s
  | .hubBridgeReplayTimeout d => Sys2Proof.Machine.execHubBridgeReplayTimeout d s
  | .hubBridgeRetrainDone d => Sys2Proof.Machine.execHubBridgeRetrainDone d s
  | .pfailRelease d => Sys2Proof.Machine.execPfailRelease d s

end Sys2Proof.Machine
end

