-- ==== Sys2Proof/Machine/Step.lean ====
section
/-! DEFINITION. The step: the command at the front of the queue, or one idle tick of the domain clock (log entry 1). -/

namespace Sys2Proof.Machine

/-- One nanosecond passes with no command: JTIME advances once the journal sequencer is ready (R342), and the memory controllers fill and
convert on (log entries 1, 56). -/
def idle (s : State) : State :=
  let s := { s with now := s.now + 1, jrnl := if s.ready0 50 then s.jrnl.tick (s.now + 1) else s.jrnl }
  (((List.finRange 12).forM channelTick).run s).2

/-- Take the command at the front of the queue and execute it on the state with the queue's rest; on an empty queue, idle. -/
def step (s : State) : Host.Outcome State Fault Refusal :=
  match s.pending with
  | [] => .next (idle s)
  | c :: rest => exec c { s with pending := rest }

/-- The state with the command that a table word spells at the front of its queue: the table gives no row any bits, so no word
spells a command. -/
def State.withFetchWord (s : State) (nbits w : Nat) : State :=
  match decodeTableWord nbits w with
  | some c => { s with pending := c :: s.pending }
  | none => s

end Sys2Proof.Machine
end

