-- ==== Sys2Proof/Safety.lean ====
section
/-! DEFINITION. What counts as a safe run, and the terms in which claims about every step and every instruction are stated. -/

namespace Sys2Proof.Machine

/-- A step that goes on: it neither faults nor refuses. -/
def State.StepsOn (s : State) : Prop := ∃ t, step s = .next t

/-- A state from which every finite run goes on. -/
def State.RunsOn (s : State) : Prop := ∀ n, ∃ t, Sys2Proof.core.run n s = .next t

/-- Core `c` of a split pair issues row `i` in state `s`: the core runs and waits for nothing, no event of ranks 1 to 6 of Table 6-7 is
due at its boundary, no queued result has to be delivered first, the words of the row are fetched (which leaves `s1`), and they are a
well-formed instruction that the core's privilege and FAULTDEPTH permit. The queue holds at most its four entries (Table 4-9). No checked
pair holds a line until its verdict (R287), and the fetch has not met a channel that has stopped issuing (R317). -/
structure Issues (s : State) (c : CoreId) (i : Instr) (s1 : State) : Prop where
  may : s.mayIssue c = true
  split : s.leads c = false
  split' : s1.leads c = false
  still : (s.pair (pairOf c)).stepping = false
  due : s.due c ((s.regs c).holdsLevels (insnOf i (s.ctx c)).word) = none
  queue : (s.regs c).deliveryDue i = false
  drain : (s.regs c).drainDue = false
  debug : s.debugDue c = none
  lines : ∀ p, ∀ w ∈ (s.pair p).windows, w.line = none
  fetch : (fetchInsn c (lenOf (insnOf i (s.ctx c)).word)).run s = (.ok (), s1)
  chans : s1.chans.any (·.waits) = false
  room : (s1.regs c).fdq.length ≤ 4
  form : i.wellFormed = true
  depth : deepReserved i = true → (s.ctx c).csw.fd ≠ 2#2
  priv : privNeeded i (s.ctx c) ≤ (s1.ctx c).csw.priv.toNat

/-- Registers with CSW.CC replaced. -/
def Regs.withCc (r : Regs) (cc : BitVec 2) : Regs := r.setCtx { r.ctx with csw := { r.ctx.csw with cc := cc } }

/-- A state with the performance counters of core `c` and the free-value counter as given. -/
def State.counted (s : State) (c : CoreId) (pm : Vector PmCounter 8) (free : Nat) : State :=
  { (s.setCore c { s.core c with pm := pm }) with free := free }

/-- A state in which core `c` has retired an instruction with registers `r`: what attempts of the instruction had taken is forgotten. -/
def State.over (s : State) (c : CoreId) (r : Regs) : State := s.setCore c { s.core c with regs := r, kept := [], used := 0 }

/-- State `t` is `s` with the registers of core `c` replaced; performance counters and the free-value counter may have advanced. -/
def State.Leaves (s t : State) (c : CoreId) (r : Regs) : Prop := ∃ pm free, t = (s.over c r).counted c pm free

/-- Row `i`, issued by core `c` in state `s`, retires at `to`: state `t` is `u`, which its body left, with the registers of a
retirement (R62, R111, R277, R304), performance counters apart. -/
def Retires (i : Instr) (s : State) (c : CoreId) (u : State) (dest : Word) (t : State) : Prop :=
  exec i s = .next t ∧ u.Leaves t c ((u.regs c).retired dest (s.regs c) (skips i))

/-- Row `i`, issued by core `c` in state `s`, retires at the next word: the registers of `c` become `r`, nothing else changes. -/
def Yields (i : Instr) (s s1 : State) (c : CoreId) (r : Regs) : Prop :=
  ∃ t, Retires i s c (s1.setRegs c r) ((s1.ctx c).pc + 4#64) t

/-- Registers with exception flags added to FPSTAT. -/
def Regs.withFlags (r : Regs) (f : BitVec 5) : Regs := r.setCtx { r.ctx with fpflags := r.ctx.fpflags ||| f }

/-- Registers with another current context. -/
def Regs.inCtx (r : Regs) (f : Ctx → Ctx) : Regs := r.setCtx (f r.ctx)

/-- An access of core `c` at `va` translates to `t`; the walk leaves `s'`, in which the registers of the core are as before, and has met no
channel that has stopped issuing (R317). -/
def Translates (s : State) (c : CoreId) (acc : Acc) (va : Word) (deny : PaKind → MemType → Bool) (t : Xl) (s' : State) : Prop :=
  (translate c acc va deny).run s = (.ok t, s') ∧ s'.regs c = s.regs c ∧ s'.leads c = s.leads c ∧ (s'.core c).stbuf = (s.core c).stbuf ∧
  s'.chans.any (·.waits) = false

/-- The L2 of core `c`, in use, holds the line of `pa` as `l`; no miss buffer holds a fill of it, and no checked pair defers it. -/
structure Holds (s : State) (c : CoreId) (pa : Pa) (l : L2Line) : Prop where
  use : (s.core c).l2Use = true
  held : (s.core c).l2.look (lineOf pa) = some l
  fill : ∀ m ∈ (s.core c).miss, m.line ≠ lineOf pa
  open' : s.deferredFor (lineOf pa) c = false

/-- The L2 of core `c` holds the line of a cacheable access `t` as `l`. -/
structure Hits (s : State) (c : CoreId) (t : Xl) (l : L2Line) : Prop extends Holds s c t.pa l where
  mt : t.mt = .cacheable

/-- Core `c` reaches memory plainly: it leads no checked pair, its stage 1 is off, so that its addresses are physical (R207), and none of
its watchpoints is set. -/
structure Bare (s : State) (c : CoreId) : Prop where
  split : s.leads c = false
  stage1 : (s.regs c).s1en = false
  watch : ∀ j, ((s.regs c).dw.get j).ctl.getLsbD 0 = false

/-- Address `va`, physical, is one of main memory that is ready and that core `c` reaches (Table 8-7, orders 11 to 13). -/
structure InMemory (s : State) (c : CoreId) (va : Word) : Prop where
  low : va >>> 52 = 0#64
  kind : ∃ ch, s.paKind (toPa va) = .memory ch
  ready : s.memReady (toPa va) = true
  reach : s.homeReach c (toPa va) = true

/-- Core `c` finds the word `w` at the physical address `va`: in a line that its L2 holds, seen past its own waiting stores (R239). -/
def Reads (s : State) (c : CoreId) (va : Word) (w : TW) : Prop :=
  InMemory s c va ∧ ∃ l, Holds s c (toPa va) l ∧ w = s.forward c (toPa va) (l.data.get (wordIx (toPa va)))

/-- A register that serves as a base (R43, Table 1-3): a raw word, or a well-formed pointer. -/
def baseReg (w : TW) : Prop := w.tag = 0x05#8 ∨ (0x40 ≤ w.tag.toNat ∧ w.tag.toNat ≤ 0x47 ∧ pointerOk w = true)

/-- The effective address of a memory operand, and its index register's new value, from registers that pass their checks (R51, R57). -/
def Addresses (r : Regs) (m : MemOp) (scale adv : Nat) (e : Ea) : Prop :=
  let b := r.read m.rb
  let i := r.read (m.field.extractLsb' 7 5)
  (m.am = 0#2 ∧ baseReg b ∧ e = ⟨baseAddr b + m.field.signExtend 64 * BitVec.ofNat 64 scale, none⟩) ∨
  (m.am = 1#2 ∧ baseReg b ∧ rawTag i.tag = true ∧ e = ⟨baseAddr b + (i.val <<< (m.field.extractLsb' 5 2).toNat), none⟩) ∨
  (2#2 ≤ m.am ∧ rawTag b.tag = true ∧ ∃ d : Fin 4, d.val = (m.field.extractLsb' 10 2).toNat ∧
    let size := (r.ctx.modsize.get d).toNat
    0 < size ∧ size ≤ 2 ^ 32 ∧ e = ⟨r.ctx.modbase.get d + BitVec.ofNat 64 (b.val.toNat % size),
      if m.am = 3#2 then some (m.rb, { b with val := BitVec.ofNat 64 ((b.val.toNat + adv) % size) }) else none⟩)

/-- The word that a load of core `c` through `t` finds in line `l`: its own waiting stores over the line (R239). -/
def State.found (s : State) (c : CoreId) (t : Xl) (l : L2Line) : TW := s.forward c t.pa (l.data.get (wordIx t.pa))

/-- State `u` is `s` with the registers of core `c` as given: which lines its L1D, victim cache, string buffer and miss buffers hold and
in which order they were used, the performance counters and the free-value counter may differ too, and nothing else. -/
def State.Cached (s u : State) (c : CoreId) (r : Regs) : Prop :=
  ∃ l1d l1dlru l2lru victim strbuf miss pm free, u = { (s.setCore c { s.core c with
    regs := r, l1d := l1d, l1dlru := l1dlru, l2lru := l2lru, victim := victim, strbuf := strbuf, miss := miss, pm := pm }) with free := free }

/-- Registers after the auto-increment of an effective address (R57). -/
def Regs.advanced (r : Regs) (e : Ea) : Regs :=
  match e.upd with
  | some (f, w) => r.write f w
  | none => r

/-- A state with one more store in the store buffer of core `c`. -/
def State.buffered (s : State) (c : CoreId) (op : StoreOp) : State := s.setCore c { s.core c with stbuf := (s.core c).stbuf ++ [op] }

/-- State `u` after an instruction of core `c` that has read memory and put `ops` in the store buffer: its registers are `r`, and no byte of
memory, no line of its L2 and no other core has changed. -/
structure State.After (s u : State) (c : CoreId) (r : Regs) (ops : List StoreOp) : Prop where
  regs : u.regs c = r
  stores : (u.core c).stbuf = (s.core c).stbuf ++ ops
  mem : u.mem = s.mem
  l2 : ∀ n, ((u.core c).l2.look n).map (fun l => (l.st, l.data)) = ((s.core c).l2.look n).map (fun l => (l.st, l.data))
  others : ∀ o, o ≠ c → u.core o = s.core o

/-- The source bytes of a decimal or string instruction (R121, R122): core `c` finds each byte of `bs` at its place from `va` on, in words
that hold data. -/
def Bytes (s : State) (c : CoreId) (va : Word) (bs : List Byte) : Prop :=
  ∀ i, i < bs.length → ∃ w, Reads s c (va + BitVec.ofNat 64 i) w ∧ w.tag ≠ 0x82#8 ∧ w.tag ≠ 0x00#8 ∧ reservedTag w.tag = false ∧
    bs[i]? = some (byteOf w.val ((va.toNat + i) % 8))

/-- The bytes that a decimal or string instruction stores from `va` on may be stored (R121, R125): each lies in memory whose line the L2 of
core `c` holds, and in a word that is not poison or is replaced whole. -/
def Writable (s : State) (c : CoreId) (va : Word) (n : Nat) : Prop :=
  ∀ i, i < n → ∃ w, Reads s c (va + BitVec.ofNat 64 i) w ∧
    (w.tag ≠ 0x82#8 ∨ (va.toNat ≤ (va.toNat + i) / 8 * 8 ∧ (va.toNat + i) / 8 * 8 + 8 ≤ va.toNat + n))

/-- The stores of `bs` from `va` on: one for each word that they touch (R122, R125). -/
def byteStores (va : Word) (bs : List Byte) : List StoreOp :=
  (wordSegs (va.toNat % 8) 0 bs.length bs.length).map (fun g =>
    let a := toPa (va + BitVec.ofNat 64 g.1)
    let v : Word := BitVec.ofNat 64 (ofBytes ((bs.drop g.1).take g.2))
    if g.2 = 8 then .word a (TW.raw v) false else .part a g.2 v false)

/-- A state in which core `c` has changed to `data` the line of `pa`, which its L2 holds as `l`: the line is M, and most recently used (R239,
R242). -/
def State.wrote (s : State) (c : CoreId) (pa : Pa) (l : L2Line) (data : Line) : State :=
  let n := lineOf pa
  s.setCore c { s.core c with
    miss := (s.core c).miss.filter (fun m => !decide (m.line = n)), l2 := (s.core c).l2.put n ⟨.m, data, l.way⟩
    l2lru := lruUsed (s.core c).l2lru (n % 1024) l.way 4 }

/-- Registers after a decimal, string or edit instruction retires (R152). -/
def Regs.progEnded (r : Regs) : Regs := r.inCtx (fun x => { x with proga := x.proga &&& ~~~0x10#64, progb := 0#64, progc := 0#64 })

/-- Registers after a string or edit instruction retires that recorded progress `proga` and completed `n` positions (R151, R152, R277). -/
def Regs.progLeft (r : Regs) (proga : Word) (n : Nat) : Regs :=
  { r.inCtx (fun x => { x with proga := proga, progb := 0#64, progc := 0#64 }) with posU := r.posU + n }

/-- A decimal field that a source operand names (R117–R119, R131): its base register passes, core `c` finds its bytes, they are valid, and `v`
is their value. -/
def Field (s : State) (c : CoreId) (f : DecField) (v : Int) : Prop :=
  baseReg ((s.regs c).read f.reg) ∧ ∃ bs, bs.length = f.len ∧ Bytes s c (baseAddr ((s.regs c).read f.reg)) bs ∧
    if f.zoned then zonedBad bs = none ∧ v = zonedValue bs else packedBad bs = none ∧ v = packedValue bs

/-- What editing one field has produced (Table 5-9): the bytes stored with their offsets, in order, how many positions of the output they fill,
whether significance is on, the place of the last FILL and the float character, and the digits that are left. -/
structure Edited where
  stores : List (Nat × Byte)
  n : Nat
  sig : Bool
  float : Option Nat
  fchar : Byte
  digits : List Nat

/-- A byte goes out. -/
def Edited.out (e : Edited) (b : Byte) : Edited := { e with stores := e.stores ++ [(e.n, b)], n := e.n + 1 }

/-- The FILL byte goes out; FMTF remembers where (R143). -/
def Edited.fill (e : Edited) (isF : Bool) (b : Byte) : Edited := { e.out b with float := if isF then some e.n else e.float }

/-- The next digit goes out, and significance is on: the float character first replaces the last FILL (R143). -/
def Edited.digit (e : Edited) : Edited :=
  let e' : Edited := match e.float with
    | some j => if e.sig then e else { e with stores := e.stores ++ [(j, e.fchar)] }
    | none => e
  { e'.out (BitVec.ofNat 8 (0x30 + e.digits.headD 0)) with sig := true, digits := e.digits.tail }

/-- Table 5-9: what an item of a field of the sign `neg` adds. -/
def Edited.item (x : XOp) (isF neg : Bool) (e : Edited) : PicItem → Edited
  | .lit b => e.out b
  | .digit => e.digit
  | .maybe => if e.sig || e.digits.headD 0 != 0 then e.digit else { e.fill isF x.fill with digits := e.digits.tail }
  | .sign => if neg then e.out x.minus else if x.plus = 0#8 then e.fill isF x.fill else e.out x.plus
  | .cond b => if e.sig then e.out b else e.fill isF x.fill
  | .force => { e with sig := true }
  | .next => e
  | .float b => { e with fchar := b }

/-- An access of core `c` to the DCS register at `off` is admitted (R9, R12, Table 8-7): aligned, above User privilege, not watched, with
no store of the core waiting, and no attempt of it has been made; the delivery log has room for a debugger write (R300). -/
structure Reaches (s : State) (c : CoreId) (off : Nat) (write : Bool) : Prop where
  inside : off < 2 ^ 28
  aligned : off % 8 = 0
  priv : (s.ctx c).csw.priv ≠ 0#2
  watch : (s.regs c).watchHit write (dcsVa off) 8 = none
  empty : (s.core c).stbuf = []
  first : (s.core c).kept = [] ∧ (s.core c).used = 0
  room : write = true → s.debugFull off = false

/-- Fisin serves the mailbox channel `i` next (R404–R406): its doorbell is the oldest, its command has code `code`, names this device, and
is allowed in the present mode, and comes from a Monitor where Table 17-10 marks it M (`m`). No command has left a memory channel waiting
(R317). -/
structure Rings (s : State) (i : Fin 64) (code : Nat) (m : Bool) (modes : List Nat) : Prop where
  resetN : s.standby.resetN = true
  pwrgood : s.standby.pwrgood = true
  ready : s.ready0 48 = true
  swap : s.fisin.swapOp = none
  active : (s.mbox i).active = true
  first : s.fisin.bells.head? = some i
  code : fieldN ((s.mbox i).cmd.get 0) 0 16 = code
  form : badWord0 ((s.mbox i).cmd.get 0) = false
  own : ((s.mbox i).cmd.get 0).extractLsb' 16 5 = 0#5
  monitor : m = true → (s.mbox i).monitor = true
  mode : s.dev.mode ∈ modes
  on : s.dev.mode ≠ 0 ∧ s.dev.mode ≠ 5
  chans : s.chans.any (·.waits) = false

/-- Word `n` of the command in mailbox channel `i`. -/
def State.cmdWord (s : State) (i : Fin 64) (n : Nat) : Word := (s.mbox i).cmd.toList.getD n 0#64

/-- A mailbox channel with its command answered (R405 step 3). -/
def Mbox.replied (b : Mbox) (r : Resp) : Mbox :=
  { b with rsp := r.words (b.cmd.get 0), result := r.status.code, done := true, active := false }

/-- A mailbox channel whose command goes on (R405 step 4). -/
def Mbox.goesOn (b : Mbox) : Mbox := { b with result := Status.inProgress.code, active := true }

/-- State `s` with the doorbell of channel `i` served and its registers become `b`. -/
def State.served (s : State) (i : Fin 64) (b : Mbox) : State :=
  { s with fisin := { s.fisin with bells := s.fisin.bells.drop 1, chans := setUnit s.fisin.chans i b } }

/-- State `s` with channel `i` answered by `r`: "mailbox-done" fires when IRQEN was set (R405). -/
def State.replied (s : State) (i : Fin 64) (r : Resp) : State :=
  let t := s.served i ((s.mbox i).replied r)
  if (s.mbox i).irqen then { t with pcie := { t.pcie with irt := Tab.setD t.pcie.irt 0x7DB (Tab.getD t.pcie.irt 0x7DB t.pcie.irtRest ||| 0x8#64) t.pcie.irtRest } } else t

/-- Core `c`, of a split pair, takes an entry at its boundary at once: it makes progress, FAULTDEPTH is 0, no frame waits to be spilled, the
new window leaves the reserve in place, and the monitor bank is not in use. -/
structure Enters (s : State) (c : CoreId) : Prop where
  may : s.mayRun c = true
  split : s.leads c = false
  fd : (s.ctx c).csw.fd = 0#2
  spill : (s.regs c).spill = []
  owed : (s.ctx c).wstat.owed = false
  room : ((s.ctx c).wstat.cw + 1#5 - (s.ctx c).wstat.ow).toNat < 30
  bank : (s.regs c).mbank = false

/-- The descriptor of entry `e` of core `c` reads as the valid `d` (R168); reading it leaves `u`, the core's registers as they were. -/
def Describes (s : State) (c : CoreId) (e : Nat) (d : Desc) (u : State) : Prop :=
  readDesc c (toPa (s.regs c).hdtb + BitVec.ofNat 52 (32 * e)) s = (.ok d, u) ∧ d.invalid = false ∧ u.regs c = s.regs c ∧ u.leads c = false ∧
  u.chans.any (·.waits) = false

/-- A state in which core `c` has given up a wait (R229, R348). -/
def State.unwaited (s : State) (c : CoreId) : State := s.setCore c { s.core c with tlbi := none, jwait := none }

/-- A state in which core `c` takes an event of ranks 1 to 3: it has given up a wait, and what an instruction at its boundary had taken is
forgotten (R229, R286, R348). -/
def State.yields (s : State) (c : CoreId) : State :=
  let t := s.setPair (pairOf c) { s.pair (pairOf c) with cleared := none }
  t.setCore c { t.core c with tlbi := none, jwait := none, kept := [], used := 0 }

/-- The device runs, no command has left a channel waiting, and no checked pair holds a line until its verdict (R287, R317). -/
structure State.Steady (s : State) : Prop where
  alive : s.alive = true
  chans : s.chans.any (·.waits) = false
  lines : ∀ p, ∀ w ∈ (s.pair p).windows, w.line = none

/-- The hub finds line `n` as `l` in the line's home slice: no core owns the line, and the LLC holds it (R242). -/
structure HubLine (s : State) (n : Nat) (l : Line) : Prop where
  on : unit s.fabric.llcen (homeDie s n) = true ∧ inBoot n = false
  owner : ∀ e ∈ s.dir, e.1 = n → ∀ o, e.2 ≠ .owned o
  held : (s.llc.look n).map (·.data) = some l

/-- A device of the hub reads the word `w` of memory at `pa`. -/
def HubReads (s : State) (pa : Pa) (w : TW) : Prop := s.hubReach pa = true ∧ ∃ l, HubLine s (lineOf pa) l ∧ w = l.get (wordIx pa)

/-- A device of the hub reads the bytes `bs` of memory from `pa` on, and no poison in their lines. -/
def HubBytes (s : State) (pa : Pa) (bs : List Byte) : Prop :=
  pa.toNat + bs.length ≤ 2 ^ 52 ∧ ∀ i, i < bs.length →
    let a : Pa := BitVec.ofNat 52 (pa.toNat + i)
    s.hubReach a = true ∧ ∃ l, HubLine s (lineOf a) l ∧ (∀ j, (l.get j).tag ≠ 0x82#8) ∧
      bs[i]? = some (byteOf (l.get (wordIx a)).val ((pa.toNat + i) % 8))

/-- In state `t` the home slice of memory at `pa` holds the word `w` there, to be written back. -/
def State.homeHolds (t : State) (pa : Pa) (w : TW) : Prop :=
  ∃ v, t.llc.look (lineOf pa) = some v ∧ v.dirty = true ∧ v.data.get (wordIx pa) = w

/-- The newest entry of the error log: unit, instance and event (R410, Table 17-12). -/
def State.lastLog (s : State) : Option (Nat × Nat × Nat) := s.fisin.sram.getLast?.map (fun e => (e.unit, e.inst, e.event))

/-- Interrupt routing entry `n` with PEND set (R373). -/
def State.pended (s : State) (n : Nat) : State :=
  { s with pcie := { s.pcie with irt := Tab.setD s.pcie.irt n (Tab.getD s.pcie.irt n s.pcie.irtRest ||| 0x8#64) s.pcie.irtRest } }

/-- A port that is Up and well wired, and takes a flit of any class at once (Tables 16-2, 16-6, R382). -/
def VPort.open (p : VPort) : Prop := p.st = 2 ∧ p.miswire = 0#3 ∧ p.waitq = [] ∧ p.replay.length ≤ 126 ∧ ∀ k, p.credit k = true

/-- A state in which port `q` has received one flit more in sequence (R379). -/
def State.arrived (s : State) (q : VPortId) : State :=
  { s with volley := { s.volley with ports := setUnit s.volley.ports q { s.vport q with rxseq := ((s.vport q).rxseq + 1) % 1024 } } }

/-- A state after a sequenced flit has left on the Up port `q` (R379): it waits in the replay buffer for its acknowledgement. -/
def State.sends (s : State) (q : VPortId) (f : Flit) : State :=
  let p := s.vport q
  { s with volley := { s.volley with
    ports := setUnit s.volley.ports q { p with replay := p.replay ++ [(p.txseq, f)], txseq := (p.txseq + 1) % 1024 }
    sent := s.volley.sent ++ [(q, f)] } }

/-- DEVMODE as Tables 0-4 and 0-10 and R14 have it: a code up to 5, and Service exactly while a service flag is set outside Fenced and
Halted. -/
structure Dev.Legal (d : Dev) : Prop where
  code : d.mode ≤ 5
  service : d.mode = 3 ↔ d.flags = true ∧ d.mode ≠ 4 ∧ d.mode ≠ 5

/-- A count in 16 bits that stays at its maximum. -/
def saturate16 (n : BitVec 16) : BitVec 16 := if n = 0xFFFF#16 then n else n + 1#16

/-- The journal sequencer has nothing to do by itself: no epoch is Sealing or Draining, and no record waits that it could write. -/
structure Journal.Calm (j : Journal) : Prop where
  epochs : ∀ e ∈ j.epochs, e.st ≠ .sealing ∧ e.st ≠ .draining
  queue : j.err = true ∨ j.tgtsize = 0 ∨ (j.queue = [] ∧ j.marks = [])

end Sys2Proof.Machine
end

