-- ==== Sys2Proof/Certificates/Slice0/Obligations.lean ====
section
/-! DEFINITION. The statements about the model: one `def Obligations.<Name> : Prop` each. -/

open Sys2Proof Sys2Proof.Machine

/-! ### Integer instructions (02) -/

/-- Sums, differences, products, logic and shifts of two registers (R58, R59): the result and its tag go to `dst`, CSW.CC to the code of
the exact result or of the result's sign, execution continues at the next word, and nothing else changes. -/
def Obligations.IntegerArithmetic : Prop :=
  ∀ (s s1 : State) (c : CoreId) (dst a b : Reg),
    let r := s1.regs c
    let x := (r.read a).val
    let y := (r.read b).val
    rawTag (r.read a).tag = true → rawTag (r.read b).tag = true →
    ∀ p ∈ [(Instr.add c dst a b, x + y, ccExact (x.toInt + y.toInt)), (.sub c dst a b, x - y, ccExact (x.toInt - y.toInt)),
        (.mul c dst a b, x * y, ccExact (x.toInt * y.toInt)), (.and c dst a b, x &&& y, ccSign (x &&& y)),
        (.or c dst a b, x ||| y, ccSign (x ||| y)), (.xor c dst a b, x ^^^ y, ccSign (x ^^^ y)),
        (.shl c dst a b, x <<< (y % 64#64), ccSign (x <<< (y % 64#64))), (.shr c dst a b, x >>> (y % 64#64), ccSign (x >>> (y % 64#64))),
        (.sar c dst a b, x.sshiftRight' (y % 64#64), ccSign (x.sshiftRight' (y % 64#64)))],
      Issues s c p.1 s1 →
      ∃ t, Retires p.1 s c
        (s1.setRegs c ((r.write dst ⟨if (r.read a).tag = 0x01#8 ∧ (r.read b).tag = 0x01#8 then 0x01#8 else 0x05#8, p.2.1⟩).withCc p.2.2))
        (r.ctx.pc + 4#64) t

/-- The immediate forms (R58, R59, R63): ADDI, MULI and the compares sign-extend, ANDI, ORI, XORI and CMPUI do not; SHI's kind selects the
shift. -/
def Obligations.IntegerImmediate : Prop :=
  ∀ (s s1 : State) (c : CoreId) (dst a : Reg) (imm : BitVec 16) (n : BitVec 6),
    let r := s1.regs c
    let x := (r.read a).val
    let y : Word := imm.signExtend 64
    let z : Word := imm.setWidth 64
    rawTag (r.read a).tag = true →
    (∀ p ∈ [(Instr.addi c dst a imm, x + y, ccExact (x.toInt + y.toInt)), (.muli c dst a imm, x * y, ccExact (x.toInt * y.toInt)),
        (.andi c dst a imm, x &&& z, ccSign (x &&& z)), (.ori c dst a imm, x ||| z, ccSign (x ||| z)),
        (.xori c dst a imm, x ^^^ z, ccSign (x ^^^ z)), (.shi c dst a 0#2 n, x <<< n, ccSign (x <<< n)),
        (.shi c dst a 1#2 n, x >>> n, ccSign (x >>> n)), (.shi c dst a 2#2 n, x.sshiftRight' n, ccSign (x.sshiftRight' n))],
      Issues s c p.1 s1 →
      ∃ t, Retires p.1 s c (s1.setRegs c ((r.write dst ⟨(r.read a).tag, p.2.1⟩).withCc p.2.2)) (r.ctx.pc + 4#64) t) ∧
    (Issues s c (.cmpi c a imm) s1 →
      ∃ t, Retires (.cmpi c a imm) s c (s1.setRegs c (r.withCc (ccCompare x.toInt y.toInt))) (r.ctx.pc + 4#64) t) ∧
    (Issues s c (.cmpui c a imm) s1 →
      ∃ t, Retires (.cmpui c a imm) s c (s1.setRegs c (r.withCc (ccCompare x.toNat z.toNat))) (r.ctx.pc + 4#64) t)

/-- Quotients and remainders by a divisor that is not zero (R60): signed ones truncate toward zero, −2^63 by −1 returns −2^63 with CC 3. -/
def Obligations.IntegerDivision : Prop :=
  ∀ (s s1 : State) (c : CoreId) (dst a b : Reg),
    let r := s1.regs c
    let x := (r.read a).val
    let y := (r.read b).val
    rawTag (r.read a).tag = true → rawTag (r.read b).tag = true → y ≠ 0#64 →
    ∀ p ∈ [(Instr.div c dst a b, x.sdiv y, if x = 0x8000000000000000#64 ∧ y = 0xFFFFFFFFFFFFFFFF#64 then 3#2 else ccSign (x.sdiv y)),
        (.divu c dst a b, x / y, ccSign (x / y)), (.rem c dst a b, x.srem y, ccSign (x.srem y)), (.remu c dst a b, x % y, ccSign (x % y))],
      Issues s c p.1 s1 →
      ∃ t, Retires p.1 s c
        (s1.setRegs c ((r.write dst ⟨if (r.read a).tag = 0x01#8 ∧ (r.read b).tag = 0x01#8 then 0x01#8 else 0x05#8, p.2.1⟩).withCc p.2.2))
        (r.ctx.pc + 4#64) t

/-- The compares (R64): CSW.CC is 0 for equal, 1 for lower, 2 for higher; CMPW compares whole tagged words; nothing else changes. -/
def Obligations.Compares : Prop :=
  ∀ (s s1 : State) (c : CoreId) (a b : Reg),
    let r := s1.regs c
    let x := r.read a
    let y := r.read b
    (∀ p ∈ [(Instr.cmp c a b, if x.val.slt y.val then 1#2 else 2#2), (.cmpu c a b, if x.val < y.val then 1#2 else 2#2)],
      rawTag x.tag = true → rawTag y.tag = true → Issues s c p.1 s1 →
      ∃ t, Retires p.1 s c (s1.setRegs c (r.withCc (if x.val = y.val then 0#2 else p.2))) (r.ctx.pc + 4#64) t) ∧
    (valueTag x.tag = true → valueTag y.tag = true → Issues s c (.cmpw c a b) s1 →
      ∃ t, Retires (.cmpw c a b) s c (s1.setRegs c (r.withCc (if x.tag = y.tag ∧ x.val = y.val then 0#2 else 2#2))) (r.ctx.pc + 4#64) t)

/-- Moves and constants (R63, R69, R70) write `dst` alone: MOV the whole word, LDI a fixnum, LDIH 16 bits of a raw operand, TAGOF the tag
as a fixnum, TAGSET the payload under an assignable tag. -/
def Obligations.MovesAndConstants : Prop :=
  ∀ (s s1 : State) (c : CoreId) (dst a : Reg) (imm : BitVec 16) (k : BitVec 2) (tag : Tag),
    let r := s1.regs c
    let w := r.read a
    let put (v : TW) := s1.setRegs c (r.write dst v)
    (valueTag w.tag = true → Issues s c (.mov c dst a) s1 → ∃ t, Retires (.mov c dst a) s c (put w) (r.ctx.pc + 4#64) t) ∧
    (Issues s c (.ldi c dst imm) s1 → ∃ t, Retires (.ldi c dst imm) s c (put ⟨0x01#8, imm.signExtend 64⟩) (r.ctx.pc + 4#64) t) ∧
    (rawTag (r.read dst).tag = true → Issues s c (.ldih c dst k imm) s1 →
      ∃ v : Word, (∀ i, i < 64 → v.getLsbD i = if 16 * k.toNat ≤ i ∧ i < 16 * k.toNat + 16 then imm.getLsbD (i - 16 * k.toNat)
          else (r.read dst).val.getLsbD i) ∧
        ∃ t, Retires (.ldih c dst k imm) s c (put ⟨(r.read dst).tag, v⟩) (r.ctx.pc + 4#64) t) ∧
    (Issues s c (.tagof c dst a) s1 → ∃ t, Retires (.tagof c dst a) s c (put ⟨0x01#8, w.tag.setWidth 64⟩) (r.ctx.pc + 4#64) t) ∧
    (valueTag w.tag = true → reservedTag tag = false → tag ≠ 0x83#8 → tag ≠ 0x82#8 → payloadOk tag w.val = true →
      Issues s c (.tagset c dst a tag) s1 → ∃ t, Retires (.tagset c dst a tag) s c (put ⟨tag, w.val⟩) (r.ctx.pc + 4#64) t)

/-- MULW and MULWU (R61, R62): the 128-bit product becomes the pending one, PH over PL, and no register changes yet. -/
def Obligations.WideProducts : Prop :=
  ∀ (s s1 : State) (c : CoreId) (a b : Reg),
    let r := s1.regs c
    let x := (r.read a).val
    let y := (r.read b).val
    rawTag (r.read a).tag = true → rawTag (r.read b).tag = true →
    ∀ p ∈ [(Instr.mulw c a b, x.signExtend 128 * y.signExtend 128), (.mulwu c a b, x.setWidth 128 * y.setWidth 128)],
      Issues s c p.1 s1 →
      ∃ t, Retires p.1 s c (s1.setRegs c { r with prodNew := some (p.2.extractLsb' 64 64, p.2.extractLsb' 0 64) }) (r.ctx.pc + 4#64) t

/-! ### Floating point (04) -/

/-- The arithmetic, square root, fused and format conversions (R101–R108), when nothing is queued: the exact result rounded once, in the
destination's format and tag, goes to `dst`; its flags are added to FPSTAT. -/
def Obligations.FloatArithmetic : Prop :=
  ∀ (s s1 : State) (c : CoreId) (dst a b e : Reg) (m : FpMode),
    let r := s1.regs c
    let f := fmtOf m.p
    let rm := r.ctx.rounding m.rms
    ∀ p ∈ [(Instr.fadd c dst a b m, m.p, m.p, [a, b], on2 (fpAdd f rm)), (.fsub c dst a b m, m.p, m.p, [a, b], on2 (fpSub f rm)),
        (.fmul c dst a b m, m.p, m.p, [a, b], on2 (fpMul f)), (.fdiv c dst a b m, m.p, m.p, [a, b], on2 (fpDiv f)),
        (.fsqrt c dst a m, m.p, m.p, [a], on1 (fpSqrt f)), (.fmadd c dst a b e m, m.p, m.p, [a, b, e], on3 (fpFma f rm false false)),
        (.fmsub c dst a b e m, m.p, m.p, [a, b, e], on3 (fpFma f rm true false)),
        (.fnmadd c dst a b e m, m.p, m.p, [a, b, e], on3 (fpFma f rm false true)),
        (.fnmsub c dst a b e m, m.p, m.p, [a, b, e], on3 (fpFma f rm true true)),
        (.fcvtS c dst a m.rms, false, true, [a], on1 (fpConvert fmtD fmtF)), (.fcvtD c dst a m.rms, true, false, [a], on1 (fpConvert fmtF fmtD))],
      let src := p.2.1
      let enc := p.2.2.2.1.map (fun q => fpBits src (r.read q).val)
      let out := (fmtOf p.2.2.1).round rm (p.2.2.2.2 (enc.map ((fmtOf src).decode r.flushes)))
      (∀ q ∈ p.2.2.2.1, fpTag src (r.read q).tag = true) →
      (r.flushes = true ∨ (out.tiny = false ∧ ∀ q ∈ enc, (fmtOf src).subnormal q = false)) →
      out.flags &&& r.enables = 0#5 → Issues s c p.1 s1 →
      Yields p.1 s s1 c ((r.withFlags out.flags).write dst (fpWord p.2.2.1 out.bits))

/-- A result that an enable catches is queued (R105, Table 4-9): FADD writes its result all the same, and the entry records the
instruction, its flags, address, operands and result. -/
def Obligations.FloatDeferral : Prop :=
  ∀ (s s1 : State) (c : CoreId) (dst a b : Reg) (m : FpMode),
    let r := s1.regs c
    let f := fmtOf m.p
    let rm := r.ctx.rounding m.rms
    let x := fpBits m.p (r.read a).val
    let y := fpBits m.p (r.read b).val
    let out := f.round rm (fpAdd f rm (f.decode r.flushes x) (f.decode r.flushes y))
    let w := fpWord m.p out.bits
    fpTag m.p (r.read a).tag = true → fpTag m.p (r.read b).tag = true →
    (r.flushes = true ∨ (f.subnormal x = false ∧ f.subnormal y = false ∧ out.tiny = false)) →
    out.flags &&& r.enables ≠ 0#5 → r.fdq.length < 4 → Issues s c (.fadd c dst a b m) s1 →
    ∃ e : FdqEntry, e.flags = out.flags ∧ e.assist = false ∧ e.repl = false ∧ e.addr = addr56 r.ctx.pc ∧ e.opa = (r.read a).val ∧
      e.opb = (r.read b).val ∧ e.result = w.val ∧ e.bank = r.cur ∧ e.cw = r.ctx.wstat.cw ∧
      e.iword = (insnOf (.fadd c dst a b m) r.ctx).word ∧
      Yields (.fadd c dst a b m) s s1 c ({ (r.withFlags out.flags) with fdq := r.fdq ++ [e] }.write dst w)

/-- FCMP, FNEG, FABS, FCVT.X and FCVT.F (R101, R103, R106, R109, R110): FCMP writes CSW.CC, 3 for unordered; FNEG and FABS change the
sign bit alone and set no flag; the conversions to and from integers round once. -/
def Obligations.FloatMoves : Prop :=
  ∀ (s s1 : State) (c : CoreId) (dst a b : Reg) (m : FpMode),
    let r := s1.regs c
    let f := fmtOf m.p
    let rm := r.ctx.rounding m.rms
    let x := r.read a
    let y := r.read b
    let bits := fpBits m.p x.val
    let sign : Nat := if m.p then 31 else 63
    (fpTag m.p x.tag = true → fpTag m.p y.tag = true → r.flushes = true ∨ (f.subnormal bits = false ∧ f.subnormal (fpBits m.p y.val) = false) →
      ∀ out, out = fpCompare f (f.decode true bits) (f.decode true (fpBits m.p y.val)) → out.2 &&& r.enables = 0#5 →
      Issues s c (.fcmp c a b m.p) s1 → Yields (.fcmp c a b m.p) s s1 c ((r.withFlags out.2).withCc out.1)) ∧
    (fpTag m.p x.tag = true → Issues s c (.fneg c dst a m.p) s1 →
      ∃ v, (∀ i, i ≠ sign → v.testBit i = bits.testBit i) ∧ v.testBit sign = !bits.testBit sign ∧
        Yields (.fneg c dst a m.p) s s1 c (r.write dst (fpWord m.p v))) ∧
    (fpTag m.p x.tag = true → Issues s c (.fabs c dst a m.p) s1 →
      ∃ v, (∀ i, i ≠ sign → v.testBit i = bits.testBit i) ∧ v.testBit sign = false ∧
        Yields (.fabs c dst a m.p) s s1 c (r.write dst (fpWord m.p v))) ∧
    (fpTag m.p x.tag = true → r.flushes = true ∨ f.subnormal bits = false →
      ∀ out, out = fpToInt rm (f.decode true bits) → out.2 &&& r.enables = 0#5 →
      Issues s c (.fcvtX c dst a m) s1 → Yields (.fcvtX c dst a m) s s1 c ((r.withFlags out.2).write dst ⟨0x01#8, out.1⟩)) ∧
    (rawTag x.tag = true → ∀ out, out = f.round rm (fpOfInt x.val.toInt) → out.flags &&& r.enables = 0#5 →
      Issues s c (.fcvtF c dst a m) s1 → Yields (.fcvtF c dst a m) s s1 c ((r.withFlags out.flags).write dst (fpWord m.p out.bits)))

/-- Special and exact results (R104, R106, R108): ∞ − ∞, 0 × ∞, 0 ÷ 0 and the root of a negative number are invalid and give the default NaN
with NV; a finite number over zero is an infinity with DZ; the first NaN operand is delivered, quieted. A number that the format holds is
rounded to itself without flags: every normal number, in every rounding mode. -/
def Obligations.FloatRounding : Prop :=
  (∀ (p : Bool) (rm : Nat) (s t : Bool) (m k : Nat) (e g : Int),
     let f := fmtOf p
     let nan := (f.round rm .invalid).bits
     nan = (if p then 0x7FC00000 else 0x7FF8000000000000) ∧ (f.round rm .invalid).flags = 1#5 ∧
     fpAdd f rm (.inf s) (.inf !s) = .invalid ∧ fpMul f (.num s 0 e) (.inf t) = .invalid ∧ fpDiv f (.num s 0 e) (.num t 0 g) = .invalid ∧
     (0 < m → fpSqrt f (.num true m e) = .invalid) ∧ (0 < m → fpDiv f (.num s m e) (.num t 0 g) = .inf (s != t) 2#5) ∧
     (∀ x : FVal, 0 < k → f.signalling k = false → (∀ i j, x ≠ .nan i j) →
       fpAdd f rm (.nan s k) x = .nan s k 0#5 ∧ fpMul f x (.nan s k) = .nan s k 0#5 ∧ fpDiv f x (.nan s k) = .nan s k 0#5) ∧
     (∀ x : FVal, f.signalling k = true → fpAdd f rm (.nan s k) x = .nan s k 1#5) ∧
     (fpCompare f (.nan s k) (.num t m e)).1 = 3#2) ∧
  ∀ (p : Bool) (rm : Nat) (sign : Bool) (ef frac : Nat),
    let f := fmtOf p
    0 < ef → ef < f.eones → frac < 2 ^ f.frac →
    let w := f.join sign ef frac
    ∃ m e, f.decode false w = .num sign m e ∧ f.decode true w = .num sign m e ∧
      f.round rm (.num sign m e false) = { bits := w, flags := 0#5, tiny := false }

/-! ### Generic arithmetic and lists (03) -/

/-- Generic arithmetic on two fixnums whose exact result is a fixnum (R80–R82): the fixnum goes to `dst` and CSW.CC to its sign; GDIV needs
an exact quotient; GCMP compares. -/
def Obligations.GenericFixnums : Prop :=
  ∀ (s s1 : State) (c : CoreId) (dst a b : Reg),
    let r := s1.regs c
    let x := (r.read a).val.toInt
    let y := (r.read b).val.toInt
    let sign (v : Int) : BitVec 2 := if v = 0 then 0#2 else if v < 0 then 1#2 else 2#2
    (r.read a).tag = 0x01#8 →
    ((r.read b).tag = 0x01#8 →
      (∀ p ∈ [(Instr.gadd c dst a b, x + y), (.gsub c dst a b, x - y), (.gmul c dst a b, x * y)], -(2 ^ 63) ≤ p.2 → p.2 < 2 ^ 63 →
        Issues s c p.1 s1 → Yields p.1 s s1 c ((r.write dst ⟨0x01#8, BitVec.ofInt 64 p.2⟩).withCc (sign p.2))) ∧
      (∀ q : Int, y ≠ 0 → x = q * y → q < 2 ^ 63 → Issues s c (.gdiv c dst a b) s1 →
        Yields (.gdiv c dst a b) s s1 c ((r.write dst ⟨0x01#8, BitVec.ofInt 64 q⟩).withCc (sign q))) ∧
      (Issues s c (.gcmp c a b) s1 → Yields (.gcmp c a b) s s1 c (r.withCc (sign (x - y))))) ∧
    (x ≠ -(2 ^ 63) → Issues s c (.gneg c dst a) s1 →
      Yields (.gneg c dst a) s s1 c ((r.write dst ⟨0x01#8, BitVec.ofInt 64 (-x)⟩).withCc (sign (-x))))

/-! ### Control flow (02, 06) -/

/-- Branches and jumps (R65): B and CALL go to pc + 4 × offset, BC when its mask selects CSW.CC and to the next word otherwise, JMPR and
CALLR to a register; the calls leave pc + 4 in p7; nothing else changes. -/
def Obligations.Branches : Prop :=
  ∀ (s s1 : State) (c : CoreId) (a : Reg) (off : BitVec 26) (mask : BitVec 4) (near : BitVec 22),
    let r := s1.regs c
    let pc := r.ctx.pc
    let w := r.read a
    let linked := r.write 31#5 ⟨0x05#8, pc + 4#64⟩
    (Issues s c (.b c off) s1 → ∃ t, Retires (.b c off) s c (s1.setRegs c r) (pc + (off ++ 0#2).signExtend 64) t) ∧
    (Issues s c (.call c off) s1 → ∃ t, Retires (.call c off) s c (s1.setRegs c linked) (pc + (off ++ 0#2).signExtend 64) t) ∧
    (Issues s c (.bc c mask near) s1 → ∃ t, Retires (.bc c mask near) s c (s1.setRegs c r)
      (if mask.getLsbD r.ctx.csw.cc.toNat then pc + (near ++ 0#2).signExtend 64 else pc + 4#64) t) ∧
    (rawTag w.tag = true → w.val.extractLsb' 0 2 = 0#2 → Issues s c (.jmpr c a) s1 →
      ∃ t, Retires (.jmpr c a) s c (s1.setRegs c r) w.val t) ∧
    (rawTag w.tag = true → w.val.extractLsb' 0 2 = 0#2 → Issues s c (.callr c a) s1 →
      ∃ t, Retires (.callr c a) s c (s1.setRegs c linked) w.val t)

/-- SAVE, RESTORE and RET within the resident windows, stage 1 disabled (R156–R159): CW moves by one, a SAVE gives a window of unset
registers, RET continues at the a7 of the window it leaves. Windows share registers (R155): the parameters p0–p7 of a caller are the
arguments a0–a7 of the window that SAVE makes, the globals are the same in both, and the kept registers differ. -/
def Obligations.Windows : Prop :=
  (∀ (s s1 : State) (c : CoreId),
    let r := s1.regs c
    let x := r.ctx
    r.s1en = false →
    ((s1.ctx c).csw.fd ≠ 1#2 → (x.wstat.cw - x.wstat.ow).toNat + 1 < 30 → Issues s c (.save c) s1 →
      Yields (.save c) s s1 c (r.inCtx (fun x => { (x.clearWindow (x.wstat.cw + 1#5)) with wstat := { x.wstat with cw := x.wstat.cw + 1#5 } }))) ∧
    (x.wstat.cw ≠ x.wstat.ow → Issues s c (.restore c) s1 →
      Yields (.restore c) s s1 c (r.inCtx (fun x => { x with wstat := { x.wstat with cw := x.wstat.cw - 1#5, owed := false } }))) ∧
    (x.wstat.cw ≠ x.wstat.ow → rawTag (r.read 15#5).tag = true → (r.read 15#5).val.extractLsb' 0 2 = 0#2 → Issues s c (.ret c) s1 →
      ∃ t, Retires (.ret c) s c
        (s1.setRegs c (r.inCtx (fun x => { x with wstat := { x.wstat with cw := x.wstat.cw - 1#5, owed := false } }))) (r.read 15#5).val t)) ∧
  ∀ (x : Ctx) (i : BitVec 5) (v : TW),
    let inner := { x with wstat := { x.wstat with cw := x.wstat.cw + 1#5 } }
    (i < 8#5 → inner.readIn inner.wstat.cw i = x.readIn x.wstat.cw i) ∧
    (8#5 ≤ i → i < 16#5 → inner.readIn inner.wstat.cw i = x.readIn x.wstat.cw (i + 16#5)) ∧
    (16#5 ≤ i → i < 24#5 → (x.writeIn (x.wstat.cw + 1#5) i v).readIn x.wstat.cw i = x.readIn x.wstat.cw i)

/-- FBAR with no queue, MBAR with an empty store buffer, and the way locks (R73, R240, R247): FBAR and MBAR change nothing; WUNLOCK clears
its ways in the lock map and WLOCK sets its ways when at most six come to be locked, both with CC 0. -/
def Obligations.Barriers : Prop :=
  ∀ (s s1 : State) (c : CoreId) (ic : Bool) (mask : Byte),
    let r := s1.regs c
    let k := s1.core c
    let locked (f : Byte → Byte) : Core := if ic then { k with lockI := f k.lockI } else { k with lockD := f k.lockD }
    (Issues s c (.fbar c) s1 → Yields (.fbar c) s s1 c r) ∧
    (k.stbuf = [] → Issues s c (.mbar c) s1 → Yields (.mbar c) s s1 c r) ∧
    (Issues s c (.wunlock c ic mask) s1 →
      Yields (.wunlock c ic mask) s (s1.setCore c (locked (fun m => m &&& ~~~mask))) c (r.withCc 0#2)) ∧
    (((List.range 8).filter (fun i => ((if ic then k.lockI else k.lockD) ||| mask).getLsbD i)).length ≤ 6 → Issues s c (.wlock c ic mask) s1 →
      Yields (.wlock c ic mask) s (s1.setCore c (locked (fun m => m ||| mask))) c (r.withCc 0#2))

/-! ### System registers (02, 06) -/

/-- MFS and MFP (R61, R62, R73, Tables 2-10 to 11-17): MFS delivers the register named, raw, but PROGA–PROGC with tag 0x84 and a GVIEW register
with the guest register's own tag; PL and PH, and MFP, what is visible, and reading them while a product is pending sets CSW.EARLYPROD. -/
def Obligations.SystemReads : Prop :=
  ∀ (s s1 : State) (c : CoreId) (dst : Reg) (i : Fin 16) (b : Fin 4) (j : Fin 8) (f : Reg) (e : FdqEntry),
    let k := s1.core c
    let r := s1.regs c
    let x := r.ctx
    let q := s1.pair (pairOf c)
    let sp := x.spans.get i
    let guest := r.bank r.guestBank
    let num (base step i : Nat) : BitVec 12 := BitVec.ofNat 12 (base + step * i)
    let early (r : Regs) : Regs := if r.prod.isSome then r.inCtx (fun x => { x with csw := { x.csw with earlyprod := true } }) else r
    let delivers (n : BitVec 12) (w : TW) : Prop := Issues s c (.mfs c dst n) s1 → Yields (.mfs c dst n) s s1 c (r.write dst w)
    (∀ p ∈ [(0x000#12, x.csw.pack), (0x001#12, r.hdtb), (0x002#12, r.trapcause.setWidth 64), (0x003#12, r.trapaddr), (0x004#12, r.trapinfo),
        (0x009#12, ipendWord k.ipend 0x80), (0x00A#12, ipendWord k.ipend 0xC0), (0x00C#12, r.uctl), (0x018#12, x.tttb), (0x019#12, x.ttra),
        (0x01A#12, x.ttinfo), (0x030#12, x.loopcnt), (num 0x100 4 i.val, sp.base), (num 0x101 4 i.val, sp.limit), (num 0x102 4 i.val, sp.xlat),
        (num 0x103 4 i.val, sp.attr), (0x140#12, r.s2root), (0x141#12, r.fstat), (0x142#12, r.faddr),
        (0x143#12, bitAt r.s1en 0 ||| bitAt r.keyen 1 ||| bitAt r.wcen 2 ||| placed k.tlb.length 8), (0x144#12, r.keybase), (0x145#12, r.keylim),
        (0x200#12, x.fpctl), (0x201#12, x.fpflags.setWidth 64 ||| placed r.fdq.length 8 ||| bitAt r.deliv 11), (0x202#12, r.fdqra),
        (0x300#12, x.wsp), (0x301#12, x.wstat.pack r.spill.length), (0x302#12, x.id.setWidth 64 ||| placed r.cur.val 16),
        (0x303#12, placed (r.bank 0).id.toNat 0 ||| placed (r.bank 1).id.toNat 16 ||| placed (r.bank 2).id.toNat 32 ||| placed (r.bank 3).id.toNat 48),
        (0x304#12, x.shadowsp), (0x305#12, r.ctxctlBank.setWidth 64 ||| bitAt r.mbank 4), (num 0x308 1 b.val, (r.bank b).csa.setWidth 64),
        (0x400#12, x.allocptr), (0x401#12, x.alloclim), (0x402#12, x.remlog), (0x403#12, x.satblog), (0x404#12, x.gcctl), (0x408#12, x.jstat),
        (num 0x420 2 b.val, x.modbase.get b), (num 0x421 2 b.val, x.modsize.get b), (0x500#12, bitAt k.l2en 0 ||| bitAt k.vcen 2),
        (0x501#12, bitAt k.l2Use 0 ||| bitAt k.fdbusy 1 ||| bitAt k.fddone 2 ||| bitAt k.held 3 ||| placed k.dirtyheld 4),
        (0x502#12, k.lockD.setWidth 64 ||| placed k.lockI.toNat 8),
        (0x600#12, bitAt q.checked 0 ||| bitAt (!q.checked && isOdd c) 1 ||| placed (pairOf c).val 2),
        (0x601#12, placed (rallyWin s1 q % 256) 0 ||| placed q.rallies.toNat 8 ||| bitAt q.suspect 24),
        (0x602#12, if q.checked then q.slipNext.setWidth 64 else 128#64), (0x603#12, if q.checked then q.winlenNext.setWidth 64 else 256#64),
        (num 0x700 2 b.val, (r.ib.get b).addr), (num 0x701 2 b.val, (r.ib.get b).ctl), (num 0x708 2 b.val, (r.dw.get b).addr),
        (num 0x709 2 b.val, (r.dw.get b).ctl), (0x710#12, bitAt r.skip 0 ||| bitAt r.sstep 1), (num 0x740 2 j.val, (k.pm.get j).ctl),
        (num 0x741 2 j.val, (k.pm.get j).cnt.setWidth 64)],
      delivers p.1 ⟨0x05#8, p.2⟩) ∧
    (∀ p ∈ [(0x040#12, x.proga), (0x041#12, x.progb), (0x042#12, x.progc)], delivers p.1 ⟨0x84#8, p.2⟩) ∧
    delivers (num 0x340 1 f.toNat) (guest.readIn guest.wstat.cw f) ∧
    (bestPending k.ipend = none → delivers 0x008#12 ⟨0x05#8, 0#64⟩) ∧
    (∀ v l, bestPending k.ipend = some (v, l) → delivers 0x008#12 ⟨0x05#8, l.setWidth 64 ||| 0x10#64 ||| placed v 8⟩) ∧
    (r.fdq[b.val]? = some e → ∀ p ∈ [(0, e.info), (1, e.addr), (2, e.opa), (3, e.opb), (4, e.opc), (5, e.result)],
      delivers (num 0x220 8 b.val + BitVec.ofNat 12 p.1) ⟨0x05#8, p.2⟩) ∧
    (∀ high : Bool, Issues s c (.mfs c dst (if high then 0x211#12 else 0x210#12)) s1 →
      Yields (.mfs c dst (if high then 0x211#12 else 0x210#12)) s s1 c ((early r).write dst ⟨0x05#8, if high then x.ph else x.pl⟩)) ∧
    (∀ high : Bool, Issues s c (.mfp c dst high) s1 →
      Yields (.mfp c dst high) s s1 c ((early r).write dst ⟨0x05#8, if high then x.ph else x.pl⟩))

/-- MTS of a raw or fixnum word to the registers of a context and of the core (R73, Tables 6-11, 6-12): the register takes the bits its
table gives it, and nothing else changes. -/
def Obligations.SystemWrites : Prop :=
  ∀ (s s1 : State) (c : CoreId) (a : Reg) (i : Fin 4),
    let r := s1.regs c
    let v := (r.read a).val
    rawTag (r.read a).tag = true →
    (∀ p ∈ [(0x018#12, fun x : Ctx => { x with tttb := v &&& 0x00FFFFFFFFFFFF00#64 }), (0x019#12, fun x => { x with ttra := v &&& 0x00FFFFFFFFFFFFFC#64 }),
        (0x030#12, fun x => { x with loopcnt := v }), (0x200#12, fun x => { x with fpctl := v &&& 0xFF#64 }),
        (0x201#12, fun x => { x with fpflags := v.setWidth 5 }), (0x300#12, fun x => { x with wsp := v &&& 0x00FFFFFFFFFFFF80#64 }),
        (0x301#12, fun x => { x with wstat := { x.wstat with sspan := v.extractLsb' 13 4 } }),
        (0x304#12, fun x => { x with shadowsp := v &&& 0x00FFFFFFFFFFFFF8#64 }), (0x400#12, fun x => { x with allocptr := v &&& 0x00FFFFFFFFFFFFF8#64 }),
        (0x401#12, fun x => { x with alloclim := v &&& 0x00FFFFFFFFFFFFF8#64 }), (0x402#12, fun x => { x with remlog := v &&& 0x3FFFFFFFFFFFFFF8#64 }),
        (0x403#12, fun x => { x with satblog := v &&& 0x3FFFFFFFFFFFFFF8#64 }),
        (0x420#12 + BitVec.ofNat 12 (2 * i.val), fun x => { x with modbase := x.modbase.set i.val (v &&& 0x00FFFFFFFFFFFFF8#64) i.isLt }),
        (0x421#12 + BitVec.ofNat 12 (2 * i.val), fun x => { x with modsize := x.modsize.set i.val (v &&& 0x00000001FFFFFFF8#64) i.isLt })],
      Issues s c (.mts c a p.1) s1 → Yields (.mts c a p.1) s s1 c (r.inCtx p.2)) ∧
    (∀ p ∈ [(0x002#12, { r with trapcause := v.setWidth 8 }), (0x003#12, { r with trapaddr := v &&& 0x00FFFFFFFFFFFFFF#64 }),
        (0x004#12, { r with trapinfo := v }), (0x00C#12, { r with uctl := v &&& 0xF1#64 }), (0x142#12, { r with faddr := v }),
        (0x144#12, { r with keybase := v &&& 0x000FFFFFFFFFF000#64 }), (0x145#12, { r with keylim := v &&& 0x000000FFFFFFFFFF#64 })],
      Issues s c (.mts c a p.1) s1 → Yields (.mts c a p.1) s s1 c p.2)

/-- The writes with an effect beyond their register, 1 (R62, R167, R225, R226, R270, R280, R304, R444): CSW, GCCTL, S2ROOT, TTINFO, PL and
PH, a span register, DBGCORE, and WINEND, which a split pair ignores. -/
def Obligations.SpecialWrites : Prop :=
  ∀ (s s1 : State) (c : CoreId) (a : Reg) (high : Bool) (n : Fin 16) (which : BitVec 2),
    let r := s1.regs c
    let x := r.ctx
    let v := (r.read a).val
    rawTag (r.read a).tag = true →
    (Issues s c (.cswWrite c a) s1 → Yields (.cswWrite c a) s s1 c (r.inCtx (fun x => { x with csw := { x.csw with
      cc := v.extractLsb' 2 2, earlyprod := v.getLsbD 4, quiet := v.getLsbD 5,
      ilm := if x.csw.priv = 0#2 then x.csw.ilm else v.extractLsb' 8 4, key := if x.csw.priv = 0#2 then x.csw.key else v.extractLsb' 12 4 } }))) ∧
    (Issues s c (.gcctlWrite c a) s1 → Yields (.gcctlWrite c a) s s1 c (r.inCtx (fun x => { x with gcctl :=
      if x.csw.priv = 0#2 then (v &&& 0x37#64) ||| (x.gcctl &&& 0x08#64) else v &&& 0x3F#64 }))) ∧
    (v.getLsbD 52 = false ∨ v.extractLsb' 0 16 ≠ 0#16 → Issues s c (.s2rootWrite c a) s1 →
      Yields (.s2rootWrite c a) s s1 c { r with s2root := v &&& 0x001FFFFFFFFFFFFF#64 }) ∧
    (Issues s c (.ttinfoWrite c a) s1 → Yields (.ttinfoWrite c a) s s1 c (r.inCtx (fun x => { x with
      ttinfo := v &&& 0xFFFF03FFFFFF3F9F#64,
      wstat := { x.wstat with ttw := if v.getLsbD 7 then x.wstat.cw else x.wstat.ttw, ttv := v.getLsbD 7 } }))) ∧
    (r.prod = none → Issues s c (.productRegisterWrite c high a) s1 → Yields (.productRegisterWrite c high a) s s1 c
      (r.inCtx (fun x => if high then { x with ph := v } else { x with pl := v }))) ∧
    (Issues s c (.debugSkip c a) s1 → Yields (.debugSkip c a) s s1 c { r with skip := v.getLsbD 0, sstep := v.getLsbD 1 }) ∧
    ((s1.pair (pairOf c)).checked = false → Issues s c (.windowEndRequest c a) s1 → Yields (.windowEndRequest c a) s s1 c r) ∧
    (Issues s c (.spanRegisterWrite c n which a) s1 → ∃ (p : Span) (u : State) (t : State),
      Retires (.spanRegisterWrite c n which a) s c u (x.pc + 4#64) t ∧ u.regs c = r.inCtx (fun x => { x with spans := x.spans.set n.val p n.isLt }) ∧
      (let o := x.spans.get n
       p = if which = 0#2 then { o with base := v &&& 0x00FFFFFFFFFFF000#64 }
         else if which = 1#2 then { o with limit := (v &&& 0x00FFFFFFFFFFF000#64) ||| 0xFFF#64 }
         else if which = 2#2 then { o with xlat := v &&& 0x000FFFFFFFFFF000#64 } else { o with attr := v &&& 0x3FFF#64 }) ∧
      (∀ e ∈ (u.core c).tlb, e ∈ (s1.core c).tlb ∧ (e.ctxid = x.id → e.span ≠ n)) ∧
      (∀ e ∈ (s1.core c).tlb, e.ctxid ≠ x.id → e ∈ (u.core c).tlb) ∧ u.mem = s1.mem)

/-- The writes with an effect beyond their register, 2 (R164, R169, R248–R250, Tables 6-11, 8-12, 9-7): TLBCTL with FLUSH, CACHECTL turning
the L2 off, on, into its flush and the victim cache off, CTXCTL spilling or discarding a bank, HDTB with its pinned descriptors. -/
def Obligations.SpecialWrites2 : Prop :=
  ∀ (s s1 : State) (c : CoreId) (a : Reg),
    let r := s1.regs c
    let v := (r.read a).val
    let k := s1.core c
    let mb := if r.ctx.csw.priv = 3#2 then v.getLsbD 4 else r.mbank
    let base := v &&& 0x000FFFFFFFFFE000#64
    rawTag (r.read a).tag = true →
    (v.getLsbD 3 = true → Issues s c (.tlbctlFlush c a) s1 → Yields (.tlbctlFlush c a) s (s1.setCore c { k with tlb := [], walk := [] }) c
      { r with s1en := v.getLsbD 0, keyen := v.getLsbD 1, wcen := v.getLsbD 2 }) ∧
    (v.getLsbD 0 = false → v.getLsbD 1 = false → v.getLsbD 2 = true → k.l2en = true → k.fdbusy = false → Issues s c (.l2Disable c a) s1 →
      ∃ u t, Retires (.l2Disable c a) s c u (r.ctx.pc + 4#64) t ∧ u.regs c = r ∧ (u.core c).l2en = false ∧ (u.core c).held = true ∧
        (u.core c).l2 = k.l2 ∧ (u.core c).dirtyheld = (k.l2.filter (fun e => e.2.st = .m)).length ∧ (u.core c).vcen = true ∧
        u.mem = s1.mem ∧ u.llc = s1.llc ∧ ∀ n d, (n, d) ∈ u.dir → ∀ o, d = .owned o → o ≠ c) ∧
    (v.getLsbD 0 = true → v.getLsbD 1 = false → v.getLsbD 2 = true → k.fdbusy = false → Issues s c (.l2Enable c a) s1 →
      Yields (.l2Enable c a) s (s1.setCore c { k with l2en := true, vcen := true }) c r) ∧
    (v.getLsbD 1 = true → v.getLsbD 2 = true → k.fdbusy = false → Issues s c (.l2FlushAndDisable c a) s1 →
      Yields (.l2FlushAndDisable c a) s (s1.setCore c { k with fdbusy := true, vcen := true }) c r) ∧
    (v.getLsbD 0 = true → v.getLsbD 1 = false → v.getLsbD 2 = false → k.l2en = true → Issues s c (.victimCacheDisable c a) s1 →
      Yields (.victimCacheDisable c a) s (s1.setCore c { k with vcen := false, victim := [] }) c r) ∧
    (∀ b : Fin 4, b.val = v.toNat % 4 → b ≠ r.cur → (b = 3 → mb = false) →
      (v.getLsbD 2 = false → v.getLsbD 3 = true → Issues s c (.ctxctlDiscard c a) s1 →
        Yields (.ctxctlDiscard c a) s s1 c { (r.setBank b Reset.ctx) with ctxctlBank := v.extractLsb' 0 2, mbank := mb }) ∧
      (let x := r.bank b
       let n := if x.wstat.ow = x.wstat.cw + 1#5 then 0 else x.resident
       v.getLsbD 2 = true → v.getLsbD 3 = false → x.id ≠ 0#16 → r.s1en = false → (∀ ch, (s1.chan ch).retryact = false) →
        (∀ i, i < 2 * n → InMemory s1 c (x.wsp + BitVec.ofNat 64 (64 * i))) →
        (∀ i, i < 32 → InMemory s1 c (x.csa.setWidth 64 + BitVec.ofNat 64 (64 * i))) → Issues s c (.ctxctlSpill c a) s1 →
        ∃ u t, Retires (.ctxctlSpill c a) s c u (r.ctx.pc + 4#64) t ∧
          u.regs c = { (r.setBank b Reset.ctx) with ctxctlBank := v.extractLsb' 0 2, mbank := mb, posU := r.posU + n } ∧
          (n = 0 → k.stbuf = [] → (u.core c).stbuf =
            (List.range 32).map (fun i => .wholeLine (x.csa + BitVec.ofNat 52 (64 * i)) (lineAt x.csaWords i)) ∧ u.mem = s1.mem))) ∧
    (∀ ds : Vector Desc 16, (∀ i : Fin 16, ∃ w : Vector TW 4, ds.get i = ⟨(w.get 0).val, (w.get 1).val, (w.get 2).val, (w.get 3).val⟩ ∧
        ∀ j : Fin 4, (w.get j).tag ≠ 0x82#8 ∧ Reads s1 c (base + BitVec.ofNat 64 (32 * (0x80 + i.val) + 8 * j.val)) (w.get j)) →
      Issues s c (.hdtbWrite c a) s1 → ∃ u t, Retires (.hdtbWrite c a) s c u (r.ctx.pc + 4#64) t ∧
        s1.Cached u c { r with hdtb := base, pinned := ds })

/-! ### Traps and returns (06) -/

/-- What an entry through a descriptor records (R170), without a switch to the monitor bank: TRAPADDR and k7 the return address, TRAPCAUSE
and k5 the entry number, k6 the old CSW, a new window, the descriptor's IP, privilege never lowered, and for an exception TRAPINFO, FADDR
and FSTAT. -/
def Obligations.EntryRegisters : Prop :=
  ∀ (r : Regs) (d : Desc) (e : Nat) (k : EntryKind) (ret : Word), r.mbank = false → r.prod = none → e < 256 →
    let q := r.enterThrough d e k ret
    let x := q.ctx
    q.trapaddr = ret &&& 0x00FFFFFFFFFFFFFF#64 ∧ q.trapcause = BitVec.ofNat 8 e ∧ x.pc = d.w0 ∧ x.wstat.cw = r.ctx.wstat.cw + 1#5 ∧
    x.readIn x.wstat.cw 23#5 = ⟨0x05#8, ret &&& 0x00FFFFFFFFFFFFFF#64⟩ ∧ x.readIn x.wstat.cw 22#5 = ⟨0x05#8, r.ctx.csw.pack⟩ ∧
    x.readIn x.wstat.cw 21#5 = ⟨0x01#8, BitVec.ofNat 64 e⟩ ∧ r.ctx.csw.priv ≤ x.csw.priv ∧ d.w2.extractLsb' 0 2 ≤ x.csw.priv ∧
    x.globals = r.ctx.globals ∧ q.hdtb = r.hdtb ∧ x.spans = r.ctx.spans ∧
    (d.w2.getLsbD 21 = true → x.csw.fd = 1#2) ∧
    (∀ y, k = .exception y → q.trapinfo = y.info ∧ q.faddr = y.faddr ∧ (y.fstat = none → q.fstat = 0#64)) ∧
    ((∀ y, k ≠ .exception y) → q.trapinfo = r.trapinfo ∧ q.faddr = r.faddr ∧ q.fstat = r.fstat)

/-- TRAP n (R73, R170): an entry through descriptor 0x40 + n that returns to the next instruction; at User privilege the descriptor's UOK
permits it. -/
def Obligations.TrapEnters : Prop :=
  ∀ (s s1 : State) (c : CoreId) (n : BitVec 6) (d : Desc),
    let r := s1.regs c
    let x := r.ctx
    let e := 0x40 + n.toNat
    readDesc c (toPa r.hdtb + BitVec.ofNat 52 (32 * e)) s1 = (.ok d, s1) → d.invalid = false →
    (x.csw.priv = 0#2 → d.w2.getLsbD 17 = true) → x.csw.fd = 0#2 → r.spill = [] → x.wstat.owed = false →
    (x.wstat.cw + 1#5 - x.wstat.ow).toNat < 30 → r.mbank = false → s1.goesOn c = true → Issues s c (.trap c n) s1 →
    ∃ t, Retires (.trap c n) s c (s1.setRegs c (r.enterThrough d e .trapN (x.pc + 4#64))) d.w0 t

/-- An exception is taken precisely (R170, R60): a division by zero leaves every register of the program as it was and enters through
descriptor 0x19, returning to the instruction itself. -/
def Obligations.DivideByZero : Prop :=
  ∀ (s s1 : State) (c : CoreId) (dst a b : Reg) (d : Desc),
    let r := s1.regs c
    let x := r.ctx
    readDesc c (toPa r.hdtb + BitVec.ofNat 52 (32 * 0x19)) s1 = (.ok d, s1) → d.invalid = false → r = s.regs c → (s1.core c).miss = (s.core c).miss →
    rawTag (r.read a).tag = true → rawTag (r.read b).tag = true → (r.read b).val = 0#64 → (r.deliv = true ∨ r.fdq = []) →
    x.csw.fd = 0#2 → r.spill = [] → x.wstat.owed = false → (x.wstat.cw + 1#5 - x.wstat.ow).toNat < 30 → r.mbank = false →
    ∀ i ∈ [Instr.div c dst a b, .divu c dst a b, .rem c dst a b, .remu c dst a b], Issues s c i s1 →
      exec i s = .next (s1.over c (r.enterThrough d 0x19 (.exception ⟨0x19#8, 0#64, 0#64, none⟩) x.pc))

/-- RTT (R172) within the resident windows and without a delivered queue: it continues at k7, gives the window back and restores CSW from
k6, never raising the privilege or FAULTDEPTH, and keeping ILM and KEY at User privilege; at FAULTDEPTH 0 a faulted drain retries (R161). -/
def Obligations.ReturnFromTrap : Prop :=
  ∀ (s s1 : State) (c : CoreId),
    let r := s1.regs c
    let x := r.ctx
    let k7 := r.read 23#5
    let k6 := r.read 22#5
    let old := x.csw
    rawTag k7.tag = true → rawTag k6.tag = true → k7.val.extractLsb' 0 2 = 0#2 → k6.val.extractLsb' 0 2 ≠ 2#2 → x.csw.fd ≠ 2#2 →
    r.mbank = false → r.deliv = false → r.prod = none → x.wstat.cw ≠ x.wstat.ow → Issues s c (.rtt c) s1 →
    ∃ w : Csw, w.cc = k6.val.extractLsb' 2 2 ∧ w.earlyprod = k6.val.getLsbD 4 ∧ w.quiet = k6.val.getLsbD 5 ∧
      w.priv = (if k6.val.extractLsb' 0 2 < old.priv then k6.val.extractLsb' 0 2 else old.priv) ∧
      w.fd = (if k6.val.extractLsb' 6 2 < old.fd then k6.val.extractLsb' 6 2 else old.fd) ∧
      w.ublk = (k6.val.getLsbD 16 && old.ublk) ∧ w.ilm = (if old.priv = 0#2 then old.ilm else k6.val.extractLsb' 8 4) ∧
      w.key = (if old.priv = 0#2 then old.key else k6.val.extractLsb' 12 4) ∧
      ∃ t, Retires (.rtt c) s c
        (s1.setRegs c ((r.inCtx (fun x => { x with
          csw := w, wstat := { x.wstat with cw := x.wstat.cw - 1#5, owed := false } })).returnedTo w.fd)) k7.val t

/-- The tag trap returns (R93, Table 3-5), stage 1 disabled: from the handler's window, TTINFO.BUSY clears; RTT.TD writes k0 to the recorded
destination and continues after the instruction, RTT.TS writes k0 and k1 to its sources and RTT.TR nothing, and both repeat it. -/
def Obligations.TagTrapReturns : Prop :=
  ∀ (s s1 : State) (c : CoreId),
    let r := s1.regs c
    let x := r.ctx
    let k0 := r.read 16#5
    let k1 := r.read 17#5
    let back := r.inCtx (fun x => { x with
      ttinfo := x.ttinfo &&& ~~~0x80#64, wstat := { x.wstat with cw := x.wstat.cw - 1#5, owed := false, ttv := false } })
    let fn := x.ttinfo.extractLsb' 16 11
    r.s1en = false → x.ttinfo.getLsbD 7 = true → x.wstat.ttv = true → x.wstat.cw = x.wstat.ttw → x.wstat.cw ≠ x.wstat.ow →
    (¬ (x.ttinfo.extractLsb' 8 6 = 0x0E#6 ∧ fn = 4#11) → Issues s c (.rttTd c) s1 →
      ∃ t, Retires (.rttTd c) s c (s1.setRegs c (back.write (x.ttinfo.extractLsb' 27 5) k0)) (x.ttra + 4#64) t) ∧
    (¬ (x.ttinfo.extractLsb' 8 6 = 0x0E#6 ∧ fn = 5#11) → x.ttinfo.extractLsb' 0 5 ≠ 12#5 → Issues s c (.rttTs c) s1 →
      ∃ t, Retires (.rttTs c) s c
        (s1.setRegs c ((back.write (x.ttinfo.extractLsb' 32 5) k0).write (x.ttinfo.extractLsb' 37 5) k1)) x.ttra t) ∧
    (Issues s c (.rttTr c) s1 → ∃ t, Retires (.rttTr c) s c (s1.setRegs c back) x.ttra t)

/-! ### Memory (01, 02, 09, 10) -/

/-- Effective addresses (R51, R57): from registers that pass the checks of R43, base plus scaled displacement, base plus shifted index, and
the circular forms, in which the index lies in a modulo buffer and advances by the access's bytes in form 3; the base is a raw word or a
pointer's address. Nothing changes while an address is formed. -/
def Obligations.EffectiveAddress : Prop :=
  ∀ (s : State) (c : CoreId) (m : MemOp) (scale adv : Nat) (e : Ea), Addresses (s.regs c) m scale adv e →
    (effAddr c m scale adv).run s = (.ok e, s)

/-- Loads that the L2 holds (R53, R54, R40): LD of 8 bytes delivers the tagged word when the read barrier is off, LD and LDS of fewer bytes
the bytes at the address, zero- or sign-extended and raw; LDT delivers the tag as a fixnum. No byte of memory changes. -/
def Obligations.Loads : Prop :=
  ∀ (s s1 s2 : State) (c : CoreId) (rt : Reg) (sz : BitVec 2) (m : MemOp) (e : Ea) (t : Xl) (l : L2Line),
    let r := s1.regs c
    let w := s2.found c t l
    let n := 2 ^ sz.toNat
    let bytes := (w.val >>> (8 * (e.va.toNat % 8)))
    Hits s2 c t l → t.device = false →
    ((effAddr c m n n).run s1 = (.ok e, s1) → Translates s1 c .read e.va (sizeDeny n) t s2 → e.va.toNat % n = 0 →
      r.watchHit false e.va n = none → w.tag ≠ 0x82#8 → reservedTag w.tag = false →
      (sz = 3#2 → w.tag ≠ 0x83#8 → r.ctx.gcctl.getLsbD 2 = false → Issues s c (.ld c rt sz m) s1 →
        ∃ u v, Retires (.ld c rt sz m) s c u (r.ctx.pc + 4#64) v ∧ s2.Cached u c ((r.write rt w).advanced e)) ∧
      (sz ≠ 3#2 → w.tag ≠ 0x00#8 →
        (Issues s c (.ld c rt sz m) s1 → ∃ u v, Retires (.ld c rt sz m) s c u (r.ctx.pc + 4#64) v ∧
          s2.Cached u c ((r.write rt ⟨0x05#8, (bytes.setWidth (8 * n)).setWidth 64⟩).advanced e)) ∧
        (Issues s c (.lds c rt sz m) s1 → ∃ u v, Retires (.lds c rt sz m) s c u (r.ctx.pc + 4#64) v ∧
          s2.Cached u c ((r.write rt ⟨0x05#8, (bytes.setWidth (8 * n)).signExtend 64⟩).advanced e)))) ∧
    ((effAddr c m 8 8).run s1 = (.ok e, s1) → Translates s1 c .read e.va (sizeDeny 8) t s2 → e.va.toNat % 8 = 0 →
      r.watchHit false e.va 8 = none → Issues s c (.ldt c rt m) s1 →
      ∃ u v, Retires (.ldt c rt m) s c u (r.ctx.pc + 4#64) v ∧ s2.Cached u c ((r.write rt ⟨0x01#8, w.tag.setWidth 64⟩).advanced e))

/-- Stores with the write barriers off (R53, R36, R40, R239): the tagged word, or the low bytes of the payload, go to the store buffer at
the address translated; no byte of memory changes before they drain. -/
def Obligations.Stores : Prop :=
  ∀ (s s1 s2 : State) (c : CoreId) (rt : Reg) (sz : BitVec 2) (m : MemOp) (e : Ea) (t : Xl) (l : L2Line),
    let r := s1.regs c
    let w := r.read rt
    let n := 2 ^ sz.toNat
    (effAddr c m n n).run s1 = (.ok e, s1) → Translates s1 c .write e.va (sizeDeny n) t s2 → e.va.toNat % n = 0 → t.mt = .cacheable →
    r.watchHit true e.va n = none → (s2.core c).stbuf.length < 32 → w.tag ≠ 0x83#8 → Issues s c (.st c rt sz m) s1 →
    (sz = 3#2 → r.ctx.gcctl.getLsbD 0 = false → r.ctx.gcctl.getLsbD 1 = false →
      ∃ v, Retires (.st c rt sz m) s c ((s2.buffered c (.word t.pa w false)).setRegs c (r.advanced e)) (r.ctx.pc + 4#64) v) ∧
    (sz ≠ 3#2 → t.device = false → Hits s2 c t l → (s2.found c t l).tag ≠ 0x82#8 → w.tag ≠ 0x82#8 →
      ∃ v, Retires (.st c rt sz m) s c ((s2.buffered c (.part t.pa n w.val false)).setRegs c (r.advanced e)) (r.ctx.pc + 4#64) v)

/-- Buffered stores (R36, R40, R160, R239, R242, R246): STORE_BUFFER_DRAIN takes the oldest store, its word is in the core's own line in state M
afterwards, and no memory changes. A word store replaces the word it names, a partial store its bytes and makes the word raw unless the word is
poison, which it leaves, DZL a whole line by unset words and a frame's line store a whole line; every other word, and every other byte, reads
as before. -/
def Obligations.StoreDrains : Prop :=
  (∀ (s : State) (c : CoreId) (pa : Pa) (w : TW) (rest : List StoreOp) (l : L2Line),
    s.Steady → (s.core c).stbuf = .word pa w false :: rest → Holds s c pa l → l.st ≠ .s → inBoot (lineOf pa) = false →
    exec (.storeBufferDrain ⟨c, false⟩) s = .next ((s.setCore c { s.core c with stbuf := rest }).wrote c pa l
      (l.data.set (wordIx pa).val w (wordIx pa).isLt))) ∧
  ∀ (a pa : Pa) (n : Nat) (v : Word) (x w : TW) (d : Line) (u : Bool) (i : Nat),
    ((StoreOp.word a x u).apply pa w = if a.toNat / 8 = pa.toNat / 8 then x else w) ∧
    (a.toNat / 8 ≠ pa.toNat / 8 → (StoreOp.part a n v u).apply pa w = w) ∧
    (w.tag = 0x82#8 → (StoreOp.part a n v u).apply pa w = w) ∧
    (lineOf a ≠ lineOf pa → (StoreOp.zline a).apply pa w = w) ∧ (lineOf a = lineOf pa → (StoreOp.zline a).apply pa w = ⟨0#8, 0#64⟩) ∧
    (lineOf a ≠ lineOf pa → (StoreOp.wholeLine a d).apply pa w = w) ∧
    (lineOf a = lineOf pa → (StoreOp.wholeLine a d).apply pa w = d.get (wordIx pa)) ∧
    (a.toNat / 8 = pa.toNat / 8 → a.toNat % 8 + n ≤ 8 → i < 8 → w.tag ≠ 0x82#8 →
      let y := (StoreOp.part a n v u).apply pa w
      y.tag = 0x05#8 ∧ byteOf y.val i = if a.toNat % 8 ≤ i ∧ i < a.toNat % 8 + n then byteOf v (i - a.toNat % 8) else byteOf w.val i)

/-- CAS on a line that the core owns, with an empty store buffer and the write barriers off (R55, R240): when the word equals `dst` it is
replaced in the line, which is then M, and CSW.CC is 0, otherwise it stays and CSW.CC is 1; `dst` receives the old word. -/
def Obligations.CompareAndSwap : Prop :=
  ∀ (s s1 s2 : State) (c : CoreId) (dst a b : Reg) (t : Xl) (l : L2Line),
    let r := s1.regs c
    let va := (r.read a).val
    let old := s2.found c t l
    let w := r.read b
    (r.read a).tag = 0x05#8 → va.toNat % 8 = 0 → Translates s1 c .cas va onlyCacheable t s2 → Hits s2 c t l → l.st ≠ .s →
    (s2.core c).stbuf = [] → s2.leads c = false → inBoot (lineOf t.pa) = false → valueTag (r.read dst).tag = true → old.tag ≠ 0x82#8 →
    old.tag ≠ 0x83#8 → reservedTag old.tag = false → w.tag ≠ 0x83#8 → r.watchHit false va 8 = none → r.watchHit true va 8 = none →
    r.ctx.gcctl.getLsbD 0 = false → r.ctx.gcctl.getLsbD 1 = false → Issues s c (.cas c dst a b) s1 →
    ∃ u v, Retires (.cas c dst a b) s c u (r.ctx.pc + 4#64) v ∧
      if old = r.read dst then
        (s2.wrote c t.pa l (l.data.set (wordIx t.pa).val w (wordIx t.pa).isLt)).Cached u c ((r.write dst old).withCc 0#2)
      else s2.Cached u c ((r.write dst old).withCc 1#2)

/-- Lists (R94–R96), stage 1 disabled: HEAD and TAIL load the first and second word of the cons that `a` names, a shadow-return word as a raw
one, SETH and SETT store `b` over them, and CONS makes a cell of two words at the next multiple of 16 of ALLOCPTR, after a one-word filler
where ALLOCPTR is not one, delivers its pointer and moves ALLOCPTR past it. Nothing else changes but for cached copies. -/
def Obligations.Lists : Prop :=
  ∀ (s s1 : State) (c : CoreId) (dst a b : Reg) (tail : Bool) (w : TW),
    let r := s1.regs c
    let x := r.read b
    let va := (r.read a).val + (if tail then 8#64 else 0#64)
    let next := r.ctx.pc + 4#64
    Bare s1 c → (s1.core c).stbuf.length < 30 →
    ((r.read a).tag = 0x40#8 → (r.read a).val.toNat % 16 = 0 →
      (Reads s1 c va w → w.tag ≠ 0x82#8 → reservedTag w.tag = false →
        (let load := if tail then Instr.tail c dst a else .head c dst a
         Issues s c load s1 → ∃ u t, Retires load s c u next t ∧
          s1.Cached u c (r.write dst (if w.tag = 0x83#8 then ⟨0x05#8, w.val⟩ else w)))) ∧
      (InMemory s1 c va → x.tag ≠ 0x83#8 →
        (let store := if tail then Instr.sett c a b else .seth c a b
         Issues s c store s1 → ∃ t, Retires store s c (s1.buffered c (.word (toPa va) x false)) next t))) ∧
    (let p := r.ctx.allocptr
     let cell : Word := (p + 15#64) &&& ~~~15#64
     let fill := if p = cell then [] else [StoreOp.word (toPa p) ⟨0x80#8, 0x0041040000000000#64⟩ false]
     p.toNat < 2 ^ 52 → p.toNat % 8 = 0 → cell.toNat + 16 ≤ r.ctx.alloclim.toNat → (r.read a).tag ≠ 0x83#8 → x.tag ≠ 0x83#8 →
      InMemory s1 c p → InMemory s1 c cell → InMemory s1 c (cell + 8#64) → Issues s c (.cons c dst a b) s1 →
      ∃ u t, Retires (.cons c dst a b) s c u next t ∧ s1.After u c ((r.inCtx (fun x => { x with allocptr := cell + 16#64 })).write dst ⟨0x40#8, cell⟩)
        (fill ++ [.word (toPa cell) (r.read a) false, .word (toPa (cell + 8#64)) x false]))

/-- Cache instructions (R71, R246, Table 9-4), stage 1 disabled, on the line of any effective address: DZL buffers a line of unset words; CPRE of
a line that the L2 holds changes no line, of one that the slice alone holds brings it into the L2 in state E, and under an address that
translation refuses does nothing; CFLUSH and CINV.LINE remove the line from the core's caches, CFLUSH writing a modified one back to its home
and CINV.LINE never; CINV.ALL empties the core's data caches and writes nothing back. -/
def Obligations.CacheInstructions : Prop :=
  ∀ (s s1 : State) (c : CoreId) (m : MemOp) (e : Ea) (w : TW) (l : L2Line) (v : LlcLine),
    let r := s1.regs c
    let k := s1.core c
    let n := lineOf (toPa e.va)
    let next := r.ctx.pc + 4#64
    Bare s1 c → Addresses r m 8 64 e →
    (InMemory s1 c e.va → k.stbuf.length < 32 → Issues s c (.dzl c m) s1 →
      ∃ t, Retires (.dzl c m) s c ((s1.buffered c (.zline (toPa e.va))).setRegs c (r.advanced e)) next t) ∧
    (Issues s c (.cpre c m) s1 →
      (Reads s1 c e.va w → ∃ u t, Retires (.cpre c m) s c u next t ∧ s1.Cached u c (r.advanced e)) ∧
      (InMemory s1 c e.va → k.l2Use = true → (∀ q ∈ k.l2, q.1 % 1024 ≠ n % 1024) → s1.deferredFor n c = false → s1.dir.look n = none →
        s1.dir.length < 16 → s1.llc.look n = some v →
        ∃ u t, Retires (.cpre c m) s c u next t ∧ u.regs c = r.advanced e ∧ u.mem = s1.mem ∧ (u.core c).stbuf = k.stbuf ∧
          ((u.core c).l2.look n).map (fun l => (l.st, l.data)) = some (.e, v.data) ∧ u.dir.look n = some (.owned c)) ∧
      (e.va >>> 52 ≠ 0#64 → Yields (.cpre c m) s s1 c (r.advanced e))) ∧
    (InMemory s1 c e.va → k.stbuf = [] → s1.deferredFor n c = false → k.l2.look n = some l →
      l.st ≠ .m ∨ (unit s1.fabric.llcen (homeDie s1 n) = true ∧ inBoot n = false ∧ s1.llc.look n = some v) → Issues s c (.cflush c m) s1 →
      ∃ u t, Retires (.cflush c m) s c u next t ∧ u.regs c = r.advanced e ∧ (u.core c).l2 = k.l2.drop n ∧ (∀ q ∈ (u.core c).l1d, q.2 ≠ n) ∧
        u.mem = s1.mem ∧ u.llc = if l.st = .m then s1.llc.put n ⟨true, l.data, v.way⟩ else s1.llc) ∧
    (InMemory s1 c e.va → k.stbuf = [] → Issues s c (.cinvLine c m) s1 →
      ∃ u t, Retires (.cinvLine c m) s c u next t ∧ u.regs c = r.advanced e ∧ (u.core c).l2 = k.l2.drop n ∧
        (∀ q ∈ (u.core c).l1d, q.2 ≠ n) ∧ u.mem = s1.mem ∧ u.llc = s1.llc) ∧
    (k.stbuf = [] → Issues s c (.cinvAll c) s1 →
      ∃ u t, Retires (.cinvAll c) s c u next t ∧ u.regs c = r ∧ (u.core c).l2 = [] ∧ (u.core c).l1d = [] ∧ (u.core c).victim = [] ∧
        (u.core c).strbuf = [] ∧ u.mem = s1.mem ∧ u.llc = s1.llc)

/-- The repeat prefixes (R66–R68), with no interrupt pending. With LOOPCNT 0 nothing is executed. A repeated 8-byte ST in auto-increment form,
stage 1 disabled, stores its word once for every iteration, each eight bytes on in the modulo buffer: REP makes LOOPCNT iterations, REPN at
most 32. LOOPCNT falls by the iterations made, the index register stands past the last store, and execution continues eight bytes on. -/
def Obligations.RepeatPrefixes : Prop :=
  ∀ (s s1 : State) (c : CoreId) (w : BitVec 32) (d : Fin 4) (n : Nat),
    let r := s1.regs c
    let m := memOpOf w
    let ix := r.read m.rb
    let size := (r.ctx.modsize.get d).toNat
    let place (k : Nat) : Word := r.ctx.modbase.get d + BitVec.ofNat 64 ((ix.val.toNat + 8 * k) % size)
    let pc := r.ctx.pc + 8#64
    (r.ctx.loopcnt = 0#64 → ∀ i ∈ [Instr.rep c w, .repn c w], Issues s c i s1 → ∃ t, Retires i s c (s1.setRegs c r) pc t) ∧
    (majorOf w = 0x13 → w.extractLsb' 12 2 = 3#2 → m.am = 3#2 → d.val = (m.field.extractLsb' 10 2).toNat → 0 < size → size ≤ 2 ^ 32 →
      rawTag ix.tag = true → dstOf w ≠ m.rb → (r.read (dstOf w)).tag ≠ 0x83#8 → Bare s1 c → (s1.core c).async = [] → (s1.core c).ipend = [] →
      (s1.pair (pairOf c)).stepping = false → r.posU = 0 → 0 < n → (s1.core c).stbuf.length + n ≤ 32 →
      (∀ k, k < n → InMemory s1 c (place k) ∧ (place k).toNat % 8 = 0) →
      ∀ p ∈ [(Instr.rep c w, r.ctx.loopcnt.toNat), (.repn c w, min r.ctx.loopcnt.toNat 32)], p.2 = n → Issues s c p.1 s1 →
      ∃ u t, Retires p.1 s c u pc t ∧
        s1.After u c { (r.write m.rb { ix with val := BitVec.ofNat 64 ((ix.val.toNat + 8 * n) % size) }).inCtx
          (fun x => { x with loopcnt := x.loopcnt - BitVec.ofNat 64 n }) with posU := n }
          ((List.range n).map (fun k => .word (toPa (place k)) (r.read (dstOf w)) false)))

/-! ### Translation, contexts and the journal instructions (06, 08, 14) -/

/-- TLBI (R227, R228, Table 8-10), operand valid and no store waiting: the core's own entries that the form names go, all of them under forms 0
and 5, those of the VMID under 1, of a page of it under 2, of a context of it under 3, of a physical page under 4, and the walk cache with
them but under 3 and 4. Form 5 then retires; any other waits for every other core and, but for form 3, the IOMMU. -/
def Obligations.TlbInvalidate : Prop :=
  ∀ (s s1 : State) (c : CoreId) (a : Reg),
    let r := s1.regs c
    let k := s1.core c
    let v := (r.read a).val
    let vmid : BitVec 16 := r.s2root.setWidth 16
    rawTag (r.read a).tag = true → k.stbuf = [] →
    (v = 0#64 → Issues s c (.tlbi c a 5#4) s1 → Yields (.tlbi c a 5#4) s (s1.setCore c { k with tlb := [], walk := [] }) c r) ∧
    (∀ form : BitVec 4, form < 5#4 → r = s.regs c → s1.dev.mode ≠ 4 → r.deliv = true ∨ r.fdq = [] →
      (form = 0#4 ∨ form = 1#4 → v = 0#64) → (form = 2#4 ∨ form = 4#4 → v &&& ~~~0x000FFFFFFFFFF000#64 = 0#64) → (form = 3#4 → v >>> 16 = 0#64) →
      Issues s c (.tlbi c a form) s1 →
      ∃ (tlb : List TlbEntry) (walk : List WalkEntry) (left : List Nat), exec (.tlbi c a form) s = .next (s1.setCore c { k with
        tlb := tlb, walk := walk, tlbi := some ⟨form, v, vmid, left⟩, used := 0 }) ∧
      (∀ n, n ∈ left ↔ (n < 48 ∧ n ≠ c.val) ∨ (n = 48 ∧ form ≠ 3#4)) ∧
      (∀ e, e ∈ tlb ↔ e ∈ k.tlb ∧ ¬ (form = 0#4 ∨ (form = 1#4 ∧ e.vmid = vmid) ∨
        (form = 2#4 ∧ e.vmid = vmid ∧ e.ipage ≤ v.toNat / 4096 ∧ v.toNat / 4096 < e.ipage + 2 ^ (e.size - 12)) ∨
        (form = 3#4 ∧ e.vmid = vmid ∧ e.ctxid = v.setWidth 16) ∨
        (form = 4#4 ∧ e.ppage ≤ v.toNat / 4096 ∧ v.toNat / 4096 < e.ppage + 2 ^ (e.size - 12)))) ∧
      (∀ e, e ∈ walk ↔ e ∈ k.walk ∧ ¬ (form = 0#4 ∨ (form < 3#4 ∧ e.vmid = vmid))))

/-- JWAIT for an epoch that is final, JSTAMP, and CTXSW to a context (R164, R343, R352): JWAIT writes CSW.CC; JSTAMP delivers a timestamp
that never falls; CTXSW to the current context changes nothing, and to a resident one continues where that context stands. -/
def Obligations.WaitsAndSwitches : Prop :=
  ∀ (s s1 : State) (c : CoreId) (dst a b : Reg),
    let r := s1.regs c
    let pc := r.ctx.pc
    (∀ cc, s1.ready0 50 = true → rawTag (r.read a).tag = true → (r.read a).val.toNat < 2 ^ 48 →
      s1.jwaitCc ((r.read a).val.setWidth 48) = some cc → Issues s c (.jwait c a) s1 → Yields (.jwait c a) s s1 c (r.withCc cc)) ∧
    (Issues s c (.jstamp c dst) s1 → ∃ (v : Word) (u t : State), Retires (.jstamp c dst) s c u (pc + 4#64) t ∧
      u.regs c = r.write dst ⟨0x06#8, v⟩ ∧ (u.core c).lastStamp = v ∧ u.mem = s1.mem ∧
      ((s1.core c).lastStamp ≤ jtime s1 → (s1.core c).lastStamp ≤ v ∧ v ≤ jtime s1 ∧ (jtime s1).toNat ≤ v.toNat + 3)) ∧
    (∀ bk : Fin 4, rawTag (r.read a).tag = true → rawTag (r.read b).tag = true → (r.bank bk).id ≠ 0#16 →
      (r.read a).val = (r.bank bk).id.setWidth 64 → (r.read b).val = (r.bank bk).csa.setWidth 64 → (r.read b).val.toNat % 2048 = 0 →
      r.prod = none → r.spill = [] → r.ctx.wstat.owed = false → r.deliv = false → r.mbank = false → Issues s c (.ctxsw c a b) s1 →
      (bk = r.cur → ∃ t, Retires (.ctxsw c a b) s c (s1.setRegs c r) (pc + 4#64) t) ∧
      (bk ≠ r.cur → (∀ j, (r.bank j).id = (r.bank bk).id → j = bk) → (r.bank bk).wstat.ow ≠ (r.bank bk).wstat.cw + 1#5 →
        ∃ u t, Retires (.ctxsw c a b) s c u (r.bank bk).pc t ∧ (u.regs c).cur = bk ∧ ((u.regs c).bank r.cur).pc = pc + 4#64 ∧
          ((u.regs c).bank bk).globals = (r.bank bk).globals ∧ ((u.regs c).bank bk).shale = (r.bank bk).shale ∧
          ((u.regs c).bank bk).csw = (r.bank bk).csw ∧ u.mem = s1.mem))

/-- JAPPEND (R346), stage 1 disabled: from a source whose bytes hold data, into a ring whose area has room between HEAD and RELEASE, the core
stores the record (Table 14-2: domain time, epoch, length and ring, then the source bytes in order) from HEAD on in the ring's modulo buffer, and
the new HEAD; it notes the epoch in JSTAT and sends one append notice of the record's bytes behind them. No byte of memory changes before the
stores drain. -/
def Obligations.JournalAppend : Prop :=
  ∀ (s s1 : State) (c : CoreId) (a b : Reg) (bytes : List Byte) (release head : TW),
    let r := s1.regs c
    let x := r.ctx
    let ring := fieldN x.jstat 48 8
    let g := s1.jrnl.ring ring
    let len := (r.read b).val.toNat
    let need := 16 + 8 * ((len + 7) / 8)
    let base := x.modbase.get 3
    let size := (x.modsize.get 3).toNat
    let ctl := base + BitVec.ofNat 64 (2 ^ g.log2.toNat)
    let at' : BitVec 32 := head.val.setWidth 32
    let after := at' + BitVec.ofNat 32 need
    let epoch := (s1.core c).epoch
    let words := recordWords (jtime s1) epoch len ring bytes
    let place (i : Nat) : Word := base + BitVec.ofNat 64 ((at'.toNat % size + 8 * i) % size)
    baseReg (r.read a) → s1.ready0 50 = true → rawTag (r.read b).tag = true → 1 ≤ len → len ≤ 240 → x.jstat.getLsbD 56 = true →
    g.en = true → ring < 255 → 12 ≤ g.log2.toNat → g.log2.toNat ≤ 30 → 0 < size → size ≤ 2 ^ 32 → Bare s1 c →
    bytes.length = len → Bytes s1 c (baseAddr (r.read a)) bytes → ctl.toNat % 8 = 0 →
    Reads s1 c ctl release → release.tag ≠ 0x82#8 → Reads s1 c (ctl + 64#64) head → head.tag ≠ 0x82#8 →
    (at' - release.val.setWidth 32).toNat + need ≤ 2 ^ g.log2.toNat → s1.jrnl.opened.isSome = true →
    (∀ i, i < words.length → (place i).toNat % 8 = 0 ∧ InMemory s1 c (place i)) →
    (s1.core c).stbuf.length + words.length + 2 ≤ 32 → Issues s c (.jappend c a b) s1 →
    (words.length = 2 + (len + 7) / 8 ∧ words[0]? = some ⟨0x06#8, jtime s1⟩ ∧
      words[1]? = some ⟨0x05#8, epoch.setWidth 64 ||| (BitVec.ofNat 64 len <<< 48) ||| (BitVec.ofNat 64 ring <<< 56)⟩ ∧
      ∀ k, k < len → byteOf (words.getD (2 + k / 8) TW.zero).val (k % 8) = bytes.getD k 0#8) ∧
    ∃ u t, Retires (.jappend c a b) s c u (x.pc + 4#64) t ∧
      s1.After u c (r.inCtx (fun x => { x with jstat := setField x.jstat 0 48 epoch.toNat }))
        ((List.range words.length).map (fun i => .word (toPa (place i)) (words.getD i TW.zero) false) ++
          [.word (toPa (ctl + 64#64)) ⟨0x05#8, after.setWidth 64⟩ false, .notice (BitVec.ofNat 8 ring) epoch need after])

/-! ### Decimal, strings and editing (05) and the extension (07) -/

/-- Decimal fields hold their values (R117–R119, R126): what a packed or zoned destination stores is valid and reads back as the value, when
its digits suffice. -/
def Obligations.DecimalFields : Prop :=
  ∀ (len : Nat) (v : Int), 0 < len → len ≤ 32 →
    (v.natAbs < 10 ^ (2 * len - 1) → packedBad (packedBytes len v) = none ∧ packedValue (packedBytes len v) = v ∧ (packedBytes len v).length = len) ∧
    (v.natAbs < 10 ^ len → zonedBad (zonedBytes len v) = none ∧ zonedValue (zonedBytes len v) = v ∧ (zonedBytes len v).length = len)

/-- Decimal instructions (R123–R131), stage 1 disabled: from valid fields, the low-order digits of the exact result go to D, CSW.CC is its sign
or 3 when digits were lost without trapping, and PROGA.V is clear; DSHR to the right drops digits as RND says, DCMP only compares, DCVB leaves
the value in PH:PL and DCVD takes it from there. Execution continues after the extension word. -/
def Obligations.DecimalInstructions : Prop :=
  ∀ (s s1 : State) (c : CoreId) (x : XOp) (va vb : Int),
    let r := s1.regs c
    let d := fieldD x
    let low := baseAddr (r.read x.rd)
    let pc := r.ctx.pc + 8#64
    let sign (v : Int) : BitVec 2 := if v = 0 then 0#2 else if v < 0 then 1#2 else 2#2
    let late (v : Int) : Prop := 10 ^ fieldDigits d.len d.zoned ≤ v.natAbs
    let bytes (v : Int) := if d.zoned then zonedBytes d.len v else packedBytes d.len v
    let stores (i : Instr) (v : Int) : Prop := baseReg (r.read x.rd) → Writable s1 c low d.len →
      (s1.core c).stbuf.length + (byteStores low (bytes v)).length ≤ 32 → (late v → x.ovt = false) → Issues s c i s1 →
      ∃ u t, Retires i s c u pc t ∧
        ((late v ∧ s1.After u c (r.withCc 3#2).progEnded (byteStores low (bytes v))) ∨
         (¬ late v ∧ s1.After u c (r.withCc (sign v)).progEnded (byteStores low (bytes v))))
    let wide (v : Int) : BitVec 128 := BitVec.ofInt 128 v
    Bare s1 c →
    (Field s1 c (fieldA x) va → Field s1 c (fieldB x) vb →
      stores (.dadd c x) (va + vb) ∧ stores (.dsub c x) (va - vb) ∧ stores (.dmul c x) (va * vb) ∧
      (vb ≠ 0 → stores (.ddiv c x) (if x.rem then Int.tmod va vb else Int.tdiv va vb)) ∧
      (Issues s c (.dcmp c x) s1 → ∃ u t, Retires (.dcmp c x) s c u pc t ∧ s1.After u c (r.withCc (sign (va - vb))).progEnded [])) ∧
    (Field s1 c (fieldA x) va →
      stores (.dzad c x) va ∧ (0 ≤ x.shift → stores (.dshr c x) (va * 10 ^ x.shift.toNat)) ∧
      (x.shift < 0 →
        let k := 10 ^ (-x.shift).toNat
        ∃ q : Int, stores (.dshr c x) q ∧ (x.rnd = 0 → q = Int.tdiv va k) ∧
          (x.rnd = 1 ∨ x.rnd = 2 → 2 * (q * k - va).natAbs ≤ k ∧ (2 * (q * k - va).natAbs = k →
            if x.rnd = 1 then va.natAbs ≤ (q * k).natAbs else q % 2 = 0))) ∧
      (r.prod = none → (va < -(2 ^ 127) ∨ 2 ^ 127 ≤ va → x.ovt = false) → Issues s c (.dcvb c x) s1 →
        ∃ u t, Retires (.dcvb c x) s c u pc t ∧ s1.After u c
          ((((r.inCtx (fun q => { q with ph := (wide va).extractLsb' 64 64, pl := (wide va).extractLsb' 0 64 })).withCc
            (if -(2 ^ 127) ≤ va ∧ va < 2 ^ 127 then sign va else 3#2))).progEnded) [])) ∧
    (r.prod = none → stores (.dcvd c x) (r.ctx.ph ++ r.ctx.pl).toInt)

/-- String instructions (R134–R138, R151, R152), stage 1 disabled, begun afresh, on fields of any length whose stores the buffer takes and whose
source shares no word with the destination: MVST copies its bytes, MVTR the bytes that its table has for them, one store for each word; CMPS
finds the first offset at which the fields, the shorter extended by the pad byte, differ, SRCH the first byte that is, or is not, the one
sought; they deliver the offset, or the length, and set CSW.CC. PROGA.V is clear afterwards, and no other byte is stored. -/
def Obligations.ShortStrings : Prop :=
  ∀ (s s1 : State) (c : CoreId) (x : XOp) (as bs : List Byte) (k : Nat),
    let r := s1.regs c
    let D := baseAddr (r.read x.rd)
    let A := baseAddr (r.read x.ra)
    let B := baseAddr (r.read x.rc)
    let T := baseAddr (r.read x.rl2)
    let pc := r.ctx.pc + 8#64
    let len (f : Reg) (n : Nat) : Prop := rawTag (r.read f).tag = true ∧ n < 2 ^ 32 ∧ (r.read f).val = BitVec.ofNat 64 n
    let apart (p : Word) (n : Nat) : Prop := ∀ i j, i < n → j < bs.length →
      (p + BitVec.ofNat 64 i).toNat / 8 ≠ (D + BitVec.ofNat 64 j).toNat / 8
    let starts (i : Instr) : Prop := r.ctx.resumeAt (wordOf i) = 0 ∧ Issues s c i s1
    let ends (i : Instr) (q : Regs) (n : Nat) (ops : List StoreOp) : Prop := ∃ u t a, Retires i s c u pc t ∧
      s1.After u c (q.progLeft a n) ops ∧ a.getLsbD 4 = false
    let padded (l : List Byte) (i : Nat) : Byte := l.getD i x.byte
    let found (v : BitVec 2) : Regs := (r.write x.rd ⟨0x01#8, BitVec.ofNat 64 k⟩).withCc v
    Bare s1 c → baseReg (r.read x.ra) → Bytes s1 c A as → len x.rl1 as.length →
    (baseReg (r.read x.rd) → bs.length = as.length → Writable s1 c D bs.length → apart A as.length →
      (s1.core c).stbuf.length + (byteStores D bs).length ≤ 32 →
      (bs = as → starts (.mvst c x) → ends (.mvst c x) r bs.length (byteStores D bs)) ∧
      (baseReg (r.read x.rl2) → (∀ i, i < as.length → Bytes s1 c (T + BitVec.ofNat 64 (as.getD i 0#8).toNat) [bs.getD i 0#8] ∧
          apart (T + BitVec.ofNat 64 (as.getD i 0#8).toNat) 1) →
        starts (.mvtr c x) → ends (.mvtr c x) r bs.length (byteStores D bs))) ∧
    (baseReg (r.read x.rc) → Bytes s1 c B bs → len x.rl2 bs.length → (∀ i, i < k → padded as i = padded bs i) → starts (.cmps c x) →
      (k = max as.length bs.length → ends (.cmps c x) (found 0#2) k []) ∧
      (k < max as.length bs.length → padded as k ≠ padded bs k →
        ends (.cmps c x) (found (if padded as k < padded bs k then 1#2 else 2#2)) k [])) ∧
    ((∀ i, i < k → (as.getD i 0#8 = x.byte ↔ x.ne = true)) → starts (.srch c x) →
      (k = as.length → ends (.srch c x) (found 2#2) k []) ∧
      (k < as.length → (as.getD k 0#8 = x.byte ↔ x.ne = false) → ends (.srch c x) (found 0#2) k []))

/-- Editing and the extension functions (R140–R144, R197–R199), stage 1 disabled. FMT and FMTF, begun afresh on a picture of one field whose
source is valid and whose operands share no word with the output, store the bytes that Table 5-9 has for each item, set CSW.CC from the field
and clear PROGA.V. An installed extension function whose routine is u.fin, or u.add followed by u.fin, writes `dst` and CSW.CC as the micro-ops
say, from the operands that the routine finds in m16 to m19. -/
def Obligations.EditAndExtension : Prop :=
  (∀ (s s1 : State) (c : CoreId) (x : XOp) (isF : Bool) (pic src : List Byte) (items : List (Nat × PicItem)),
    let r := s1.regs c
    let i := if isF then Instr.fmtf c x else .fmt c x
    let D := baseAddr (r.read x.rd)
    let A := baseAddr (r.read x.ra)
    let P := baseAddr (r.read x.rc)
    let d := (items.filter (·.2.isDigit)).length
    let zero := decide (packedMag 0 src = 0)
    let neg := (packedSign (nibLo (src.getLastD 0#8))).getD false && !zero
    let digits := (src.flatMap (fun b => [nibHi b, nibLo b])).drop (if d % 2 = 0 then 1 else 0)
    let e := (items.map (·.2)).foldl (Edited.item x isF neg) ⟨[], 0, false, none, if isF then x.fill else 0#8, digits⟩
    let cc : BitVec 2 := if zero then 0#2 else if neg then 1#2 else 2#2
    let apart (p : Word) (n : Nat) : Prop := ∀ j k, j < n → k < e.n → (p + BitVec.ofNat 64 j).toNat / 8 ≠ (D + BitVec.ofNat 64 k).toNat / 8
    Bare s1 c → (∀ f ∈ [x.rd, x.ra, x.rc], baseReg (r.read f)) → pic.length = x.plen → Bytes s1 c P pic →
    picItems isF (x.plen + 1) 0 pic = (items, none) → (∀ p ∈ items, p.2 ≠ .next) → (x.fill.toNat < 0xE0 ∨ 0xF0 ≤ x.fill.toNat) →
    src.length = (if d = 0 then 0 else d / 2 + 1) → Bytes s1 c A src → packedBad src = none → (d % 2 = 0 → nibHi (src.headD 0#8) = 0) →
    apart P pic.length → apart A src.length →
    (∀ k, k < e.n → ∃ w, Reads s1 c (D + BitVec.ofNat 64 k) w ∧ w.tag ≠ 0x82#8) → (s1.core c).stbuf.length + e.stores.length ≤ 32 →
    progMatches r.ctx.proga (wordOf i) r.ctx.pc = false → Issues s c i s1 →
    ∃ u t a, Retires i s c u (r.ctx.pc + 8#64) t ∧ a.getLsbD 4 = false ∧
      s1.After u c ((r.withCc cc).progLeft a x.plen) (e.stores.map (fun p => .part (toPa (D + BitVec.ofNat 64 p.1)) 1 (p.2.setWidth 64) false))) ∧
  ∀ (s s1 : State) (c : CoreId) (dst a b : Reg) (fn : BitVec 11) (m : Image) (entry : Nat),
    let r := s1.regs c
    let i := Instr.customerExtensionFunction c dst a b fn
    let first := microOf (m.word entry)
    let second := microOf (m.word (entry + 1))
    let operand (f : MReg) : Option TW :=
      if f = 16#5 then some (r.read a) else if f = 17#5 then some (r.read b) else if f = 18#5 then some (r.read dst)
      else if f = 19#5 then some ⟨0x05#8, (wordOf i).setWidth 64⟩ else none
    let ends (u : Micro) (va vb : TW) : Prop := ∃ v t, Retires i s c v (r.ctx.pc + 4#64) t ∧
      let r' := if u.fn.getLsbD 0 then r.write dst va else r
      s1.After v c (if u.fn.getLsbD 1 then r'.withCc (vb.val.setWidth 2) else r') []
    s1.imageFor c = some m → m.entry fn.toNat = some entry → s1.parityBad c entry = false → Issues s c i s1 →
    (∀ va vb, first.uop = 0x14 → operand first.ma = some va → operand first.mb = some vb → ends first va vb) ∧
    (∀ va vb, first.uop = 0x01 → operand first.ma = some va → operand first.mb = some vb → entry + 1 < 0x4000 →
      s1.parityBad c (entry + 1) = false → second.uop = 0x14 → second.ma = first.md → second.mb = first.md →
      let sum : TW := ⟨if first.fn.getLsbD 8 then first.fn.extractLsb' 0 8 else va.tag, va.val + vb.val⟩
      ends second sum sum)

/-! ### Device Control Space (00, R9–R13) -/

/-- DCS rows (R11, R298–R300, R351, R368, R380, R383, R418): an admitted store to a ready block changes the register as its table tells, and
a load of a counter that reading clears returns it and clears it. The identity block ignores stores. -/
def Obligations.DcsAccesses : Prop :=
  ∀ (s s1 : State) (c : CoreId) (p : PairId) (ch : ChanId) (dst : Reg) (off : BitVec 28) (v : Word),
    let r := s1.regs c
    let q := s1.pair p
    let even := s1.core (evenOf p)
    let k := s1.chan ch
    let gives (i : Instr) (u : State) : Prop := Issues s c i s1 → ∃ t, Retires i s c u (r.ctx.pc + 4#64) t
    let live := s1.ready0 p.val = true ∧ q.attached = true ∧ q.checked = false ∧ pairOf c ≠ p
    (Reaches s1 c off.toNat true → off.toNat < 0x100000 → gives (.dcsRegisterWrite c off v) s1) ∧
    (∀ n : Fin 2048, off.toNat = 0x200000 + 8 * n.val → Reaches s1 c off.toNat true → s1.ready0 51 = true →
      gives (.dcsRegisterWrite c off v) { s1 with pcie := { s1.pcie with
        irt := Tab.setD s1.pcie.irt n.val ((v &&& 0x0000FFFF03FFFF07#64) ||| (s1.pcie.entry n.val &&& 0x8#64 &&& ~~~v)) s1.pcie.irtRest } }) ∧
    (off.toNat = 0x1000018 + 0x10000 * ch.val → Reaches s1 c off.toNat false →
      gives (.rcRegisterRead c dst off) (({ s1 with chans := setUnit s1.chans ch { k with capar := 0#16, wcrc := 0#16 } }).setRegs c
        (r.write dst ⟨0x05#8, k.wcrc.setWidth 64 <<< 16 ||| k.capar.setWidth 64⟩))) ∧
    (∀ odd : Bool, s1.ready0 p.val = true → 0x80 ≤ v.toNat → v.toNat ≤ 0x8F → (odd = true → q.checked = false) →
      let d := if odd then oddOf p else evenOf p
      Reaches s1 c (pairReg p (if odd then 0x30 else 0x28)) true → gives (.level0Doorbell c p odd v)
        (s1.setCore d { s1.core d with ipend := Tab.put (s1.core d).ipend v.toNat 0#4 })) ∧
    (s1.ready0 p.val = true → even.run = .stopped → q.checked = false → v = 0x100#64 → pairOf c ≠ p → Reaches s1 c (pairReg p 0x08) true →
      gives (.pairStart c p v) ((s1.setPair p { q with rettgt := 0#6 }).setCore (evenOf p) (even.restarted .running q.start0))) ∧
    (live → v = 1#64 → q.dbghalt = false → q.heldmis = false → even.run = .running → (s1.core (oddOf p)).run = .running →
      Reaches s1 c (pairReg p 0x100) true →
      gives (.debugHalt c p v) (((s1.setPair p { q with
        holdmis := false, dbgreplay := false, dbghalt := true, halted := true, stepping := false }).setCore (evenOf p) { even with run := .halted }).setCore
          (oddOf p) { s1.core (oddOf p) with run := .halted })) ∧
    (live → v = 2#64 → q.halted = true → q.heldmis = false → q.stopDue = none → even.run = .halted → (s1.core (oddOf p)).run = .halted →
      Reaches s1 c (pairReg p 0x100) true →
      gives (.debugStep c p v) (((s1.setPair p { q with
        holdmis := false, dbgreplay := false, dbghalt := false, halted := false, stepping := true }).setCore (evenOf p) { even with run := .running }).setCore
          (oddOf p) { s1.core (oddOf p) with run := .running })) ∧
    (live → q.dbghalt = false → q.heldmis = false → Reaches s1 c (pairReg p 0x100) true →
      (v = 4#64 → gives (.debugHoldAtMismatch c p v) (s1.setPair p { q with holdmis := true, dbgreplay := false })) ∧
      (v = 0xC#64 → gives (.debugReplay c p v) (s1.setPair p { q with holdmis := true, dbgreplay := true }))) ∧
    (live → q.dbgsel.toNat < 32 → Reaches s1 c (pairReg p 0x118) true →
      gives (.debuggerWrite c p v) ((s1.setRegs (evenOf p) ((s1.regs (evenOf p)).write (q.dbgsel.setWidth 5) ⟨q.dbgtag.getD ((s1.regs (evenOf p)).read (q.dbgsel.setWidth 5)).tag, v⟩)).setPair p { q with dbgtag := none })) ∧
    (v = 1#64 → s1.ready0 50 = true → s1.jrnl.opened.isSome = true → s1.jrnl.role = 2 → s1.jrnl.detached = false →
      Reaches s1 c 0x300080 true → gives (.sealnow c v) (vsend 0#5 2 6 0 [] s1).2) ∧
    (s1.ready0 52 = true → v.getLsbD 17 = true → Reaches s1 c 0x3001008 true → gives (.iommuInvalidate c v)
      { s1 with pcie := { s1.pcie with invRid := v.setWidth 16, invAll := v.getLsbD 16, invBusy := true } }) ∧
    (∀ g : VPortId, s1.ready1 (16 + g.val) = true → v = 2#64 → (s1.vport g).st = 2 → Reaches s1 c (0x4000108 + 16 * g.val) true →
      Issues s c (.volleyPortRetrain c g v) s1 → ∃ u t, Retires (.volleyPortRetrain c g v) s c u (r.ctx.pc + 4#64) t ∧
        (u.vport g).st = 4 ∧ (u.vport g).hold = true ∧ (u.vport g).replay = (s1.vport g).replay ∧ u.ready1 (16 + g.val) = false ∧
        ((s1.vport g).retrains ≠ 0xFF#8 → (u.vport g).retrains = (s1.vport g).retrains + 1#8) ∧ u.mem = s1.mem ∧ u.cores = s1.cores) ∧
    (∀ clu : CluId, s1.ready0 49 = true → Reaches s1 c (0x401000 + 16 * clu.val) true → Issues s c (.frequencyRequest c clu v) s1 →
      ∃ (x : Clock) (t : State), Retires (.frequencyRequest c clu v) s c
        { s1 with power := { s1.power with clocks := setUnit s1.power.clocks clu x } } (r.ctx.pc + 4#64) t ∧
        x.req = max 12 (min 30 (v.toNat % 32)) ∧ x.freq = (s1.clock clu).freq ∧ ((s1.clock clu).busy = true → x.waiting = some x.req ∧ x.target = (s1.clock clu).target) ∧
        ((s1.clock clu).busy = false → x.target ≤ max 12 x.req ∨ x.busy = false)) ∧
    (s1.ready0 49 = true → Reaches s1 c 0x4001018 true →
      gives (.sendQueueTailWrite c v) { s1 with volley := { s1.volley with sqtail := v.extractLsb' 5 15 } })

/-! ### The machine as a whole -/

/-- A step takes the command at the front of the queue and answers what it does to the state with the queue's rest. On an empty queue one
nanosecond passes (the model's choice, log entries 1 and 56): with the journal sequencer ready JTIME advances by one tick, while an offset is
being slewed out by 2 or by none at every 10,000th (R342); each Ready channel fills its next frame (R311); and nothing else changes where no
channel fills and none converts. -/
def Obligations.StepRunsFront : Prop :=
  (∀ (s : State) (i : Instr) (rest : List Instr), s.pending = i :: rest → step s = exec i { s with pending := rest }) ∧
  (∀ s : State, s.pending = [] →
    let frames (ch : ChanId) : Nat := (s.chan ch).frames s.integ.agatemax
    let runs (ch : ChanId) : Prop := (s.chan ch).st = 3 ∧ (s.chan ch).retryact = false ∧ s.dieLost (dieOfChan ch) = false
    let slewed : Prop := (s.now + 1) % 10000 = 0 ∧ s.jrnl.slew ≠ 0
    ∃ t, step s = .next t ∧ t.now = s.now + 1 ∧ t.pending = [] ∧
      (s.ready0 50 = false → t.jrnl = s.jrnl) ∧
      (s.ready0 50 = true → ¬ slewed → t.jrnl = { s.jrnl with time := s.jrnl.time + 1#64 }) ∧
      (s.ready0 50 = true → slewed → 0 < s.jrnl.slew → t.jrnl = { s.jrnl with time := s.jrnl.time + 2#64, slew := s.jrnl.slew - 1 }) ∧
      (s.ready0 50 = true → slewed → s.jrnl.slew < 0 → t.jrnl = { s.jrnl with slew := s.jrnl.slew + 1 }) ∧
      (s.integ.conv = none → t = { s with now := t.now, jrnl := t.jrnl, chans := t.chans } ∧
        ∀ ch, (runs ch → (s.chan ch).wm < frames ch → (t.chan ch).wm = (s.chan ch).wm + 1) ∧
          (¬ runs ch ∨ frames ch ≤ (s.chan ch).wm → t.chan ch = s.chan ch)) ∧
      ((∀ ch, runs ch → frames ch ≤ (s.chan ch).wm ∧ frames ch ≤ (s.chan ch).agwm) → t = { s with now := t.now, jrnl := t.jrnl }))

/-- No command and no idle tick ends a run, and a command leaves the queue of waiting commands alone: it answers a next state with the same
queue. -/
def Obligations.CommandsComplete : Prop :=
  (∀ s : State, s.RunsOn) ∧ ∀ (i : Instr) (s : State), ∃ t, exec i s = .next t ∧ t.pending = s.pending

/-- The operating mode (R4, R5, R14): it takes only the values of Table 0-4, a step changes it only along a transition of Table 0-5, and it is
Service exactly when a service flag is set and the device is neither Fenced nor Halted; a step keeps that. -/
def Obligations.ModeTransitions : Prop :=
  (∀ s t : State, s.dev.Legal → step s = .next t → t.dev.Legal ∧ (t.dev.mode = s.dev.mode ∨ (s.dev.mode, t.dev.mode) ∈
    [(0, 1), (1, 2), (2, 3), (3, 2), (2, 4), (3, 4), (1, 5), (2, 5), (3, 5), (4, 5), (5, 1), (2, 1), (3, 1), (4, 1), (2, 0)])) ∧
  State.reset.dev.Legal

/-- What reset leaves (Tables 0-10, 6-3, 8-1, 9-6, 9-7, 11-11, 12-5, 14-8, 16-6, 17-8, 18-7): the mode is Staging, every core is stopped at
Monitor privilege with its caches empty, no unit is ready, the registers that the tables give a value hold it; memory is in its canonical
form and lists nothing, and no command waits. -/
def Obligations.ResetState : Prop :=
  let s := State.reset
  (s.dev.mode = 1 ∧ s.dev.flags = false ∧ s.mem.wf = true ∧ s.mem.bytes = [] ∧ s.mem.tags = [] ∧ s.pending = []) ∧
  (∀ c : CoreId, (s.core c).run = .stopped ∧ (s.ctx c).csw.pack = 3#64 ∧ (s.core c).l2 = [] ∧ (s.core c).l2en = true ∧ (s.core c).vcen = true ∧
    (s.core c).stbuf = [] ∧ (s.regs c).fdq = [] ∧ (s.regs c).spill = [] ∧ (s.regs c).hdtb = 0#64 ∧
    ∀ i : Fin 16, ((s.ctx c).spans.get i).limit = 0xFFF#64) ∧
  (∀ p : PairId, (s.pair p).slip = 128#10 ∧ (s.pair p).winlen = 256#11 ∧ (s.pair p).windows = [] ∧ (s.pair p).attached = false) ∧
  (s.fisin.rdy0 = 0#64 ∧ s.fisin.rdy1 = 0#64 ∧ s.fisin.fail0 = 0#64 ∧ s.fisin.fail1 = 0#64 ∧ ∀ i : Fin 64, (s.mbox i).owner = 3#64) ∧
  (s.jrnl.jlen = 1000 ∧ s.jrnl.closed = 0#48 ∧ s.jrnl.durable = 0#48 ∧ s.jrnl.epochs = [] ∧ s.jrnl.tgttmo = 10000) ∧
  (s.volley.absentMs = 50 ∧ s.volley.msgUs = 2000 ∧ ∀ q : VPortId, (s.vport q).st = 0) ∧
  (s.integ.agatemax = 4 ∧ s.integ.defs = 4) ∧
  (∀ k : CluId, (s.clock k).freq = 30 ∧ (s.clock k).req = 30 ∧ (s.clock k).cap = 30)

/-- Every well-formed instruction row that has words of its own decodes from them (Tables 2-2, 2-3): to itself, or, for a row that names
one use of MTS, to that MTS. -/
def Obligations.DecodeEncode : Prop :=
  ∀ (i : Instr) (w e : BitVec 32), encodeInsn i = some (w, e) → i.wellFormed = true →
    ∃ c : CoreId, decodeInsn c w e = some i ∨ ∃ (a : Reg) (n : BitVec 12), w = mtsWord a n ∧ decodeInsn c w e = some (.mts c a n)

/-- Decoding reads every bit (R46–R48): the words that decode to a row are the words of that row, and a word that is not one of Table 2-3
decodes to none. -/
def Obligations.DecodeReadsAll : Prop :=
  ∀ (c : CoreId) (w e : BitVec 32) (i : Instr), decodeInsn c w e = some i →
    i.wellFormed = true ∧ encodeInsn i = some (w, if lenOf w = 8 then e else 0#32)

/-- Every step keeps memory in its canonical form: addresses strictly rising, no listed cell equal to what an unlisted one reads as. And every
step leaves no channel waiting for a command (the model's own field, log entry 99), as no channel is after reset. -/
def Obligations.MemoryInvariant : Prop :=
  (∀ s t : State, s.mem.wf = true → step s = .next t → t.mem.wf = true) ∧ State.reset.chans.any (·.waits) = false ∧
  ∀ s t : State, s.chans.any (·.waits) = false → step s = .next t → t.chans.any (·.waits) = false

/-! ### Mailbox commands (17, R403–R411) -/

/-- Short commands that report (R272, R332, R407, R410, R425, R426): the response holds the words Table 17-10 names, DONE sets, ACTIVE
clears, and nothing else changes. The external channel is answered in its own registers; its request for another node leaves over Volley (R387);
a command it does not accept is DENIED (R409), an unknown one is BAD_COMMAND (R405). -/
def Obligations.MailboxReports : Prop :=
  ∀ (s : State) (i : Fin 64) (ch : ChanId) (clu : CluId) (cmd : Vector Word 8),
    let gives (row : Instr) (code : Nat) (modes : List Nat) (r : Resp) : Prop := Rings s i code false modes → exec row s = .next (s.replied i r)
    let w := s.cmdWord i
    let k := s.chan ch
    let x := s.clock clu
    let retired (p : PairId) : Bool := decide ((s.core (evenOf p)).run = .retired) || decide ((s.core (oddOf p)).run = .retired)
    let stopped (p : PairId) : Bool := !retired p && (decide ((s.core (evenOf p)).run = .stopped) || decide ((s.core (oddOf p)).run = .stopped))
    let day (n : Nat) : Nat := if (s.power.clocks.toList.getD n Reset.clock).cap < 30 then 0 else daysOf s.power [4 * n, 4 * n + 1, 4 * n + 2, 4 * n + 3]
    let days (n : Nat) : Word := placed (day (4 * n)) 0 ||| placed (day (4 * n + 1)) 16 ||| placed (day (4 * n + 2)) 32 ||| placed (day (4 * n + 3)) 48
    let readiness : Resp := Resp.good [s.fisin.word0, s.fisin.rdy1, s.fisin.fail0, s.fisin.fail1, s.dev.word,
      placed s.fisin.fwver 0 ||| bitAt s.fisin.fwslot 32]
    let externally (r : Resp) : State := { s with fisin := { s.fisin with ext := { s.fisin.ext with
      cmd := cmd, rsp := r.words (cmd.get 0), result := r.status.code, done := true, active := false } } }
    let external (row : Instr) (code : Nat) (r : Resp) : Prop := s.standby.resetN = true → s.standby.pwrgood = true → s.extTakes = true → s.chans.any (·.waits) = false →
      fieldN (cmd.get 0) 0 16 = code → badWord0 (cmd.get 0) = false → exec row s = .next (externally r)
    gives (.getReadiness (.chan i)) 0x0001 [1, 2, 3, 4] readiness ∧
    gives (.getPaircfg (.chan i)) 0x0010 [1, 2, 3, 4]
      (Resp.good [placed (if s.dev.mode = 1 then s.fisin.paircfg ||| 1 else s.fisin.paircfg) 0 ||| bitAt s.fisin.pairsafe 24, pairMap retired, pairMap stopped]) ∧
    ((w 1).toNat = ch.val → gives (.remapQuery (.chan i)) 0x0043 [1, 2, 3, 4]
      (Resp.good [k.remapst, BitVec.ofNat 64 k.remapBits, k.istat false &&& 0xFFFFFFFF#64, k.serial.setWidth 64, k.reapplied.setWidth 64])) ∧
    ((w 1).toNat < 2 ^ 32 → 1 ≤ (w 2).toNat → (w 2).toNat ≤ 4096 → w 3 = 0#64 →
      (∀ e ∈ s.fisin.logAll, e.seq.toNat < (w 1).toNat) →
      gives (.errorLogRead (.chan i)) 0x0050 [1, 2, 3, 4]
        (Resp.good [0#64, s.fisin.seq.setWidth 64, ((s.fisin.logAll.head?.map (·.seq)).getD s.fisin.seq).setWidth 64]) ∧
      ∀ e ∈ s.fisin.logAll.head?, (w 1).toNat ≤ e.seq.toNat → gives (.errorLogRead (.chan i)) 0x0050 [1, 2, 3, 4]
        (Resp.good ([1#64, (e.seq + 1#32).setWidth 64, e.seq.setWidth 64] ++ e.words))) ∧
    (let fabrics : Word := placed (daysOf s.power [48, 49]) 0 ||| placed (daysOf s.power [50, 51]) 16
     let phy (j : Fin 12) : Nat := daysOf s.power [52 + j.val]
     ∃ j : Fin 12, (∀ l, phy j ≤ phy l ∧ (l < j → phy j < phy l)) ∧ gives (.ageingReport (.chan i)) 0x0060 [2, 3, 4]
      (Resp.good [days 0, days 1, days 2, fabrics, placed (phy j) 0 ||| placed j.val 16, BitVec.ofNat 64 s.power.hours])) ∧
    ((w 1).toNat = clu.val → gives (.marginPlanGet (.chan i)) 0x0061 [2, 3, 4]
      (Resp.good [placed x.gb 0 ||| placed x.cap 8, placed x.pgb 0 ||| placed x.pcap 8, BitVec.ofNat 64 x.phours])) ∧
    (s.jrnl.role ≠ 1 → gives (.domainStatus (.chan i)) 0x0071 [1, 2, 3, 4]
      (Resp.good [s.volley.vdom ||| bitAt s.jrnl.detached 21, s.jrnl.closed.setWidth 64, s.jrnl.durable.setWidth 64, 0#64])) ∧
    (∀ n : Nat, n ∉ knownCodes → gives (.unknownCommand (.chan i)) n [1, 2, 3, 4] (Resp.of .badCommand)) ∧
    ((cmd.get 0).extractLsb' 16 5 = 0#5 → external (.getReadiness (.ext cmd)) 0x0001 readiness) ∧
    (let node : BitVec 5 := (cmd.get 0).extractLsb' 16 5
     let q := s.volley.route node.toNat
     s.standby.resetN = true → s.standby.pwrgood = true → s.extTakes = true → s.dev.mode ≠ 5 → s.chans.any (·.waits) = false → node ≠ 0#5 → s.fisin.role = false →
      fieldN (cmd.get 0) 0 16 = 0x0001 → badWord0 (cmd.get 0) = false → (s.vport q).open → ∃ t, exec (.getReadiness (.ext cmd)) s = .next t ∧
        t.fisin = { s.fisin with ext := { s.fisin.ext with cmd := cmd, done := false, active := true } } ∧
        t.volley.sent = s.volley.sent ++ [(q, s.volley.flit node 4 0 s.volley.nextMsg (cmd.toList.map TW.raw))]) ∧
    external (.getPaircfg (.ext cmd)) 0x0010 (Resp.of .denied) ∧
    (∀ n : Nat, n ∉ knownCodes → external (.unknownCommand (.ext cmd)) n (Resp.of .badCommand))

/-- Commands that change a unit at once (R293, R300, R337, R339, R342, R375, R407, R408, R421, R426): the response is OK with the words
Table 17-10 names, and the registers named by the command take their values. -/
def Obligations.MailboxOperations : Prop :=
  ∀ (s : State) (i : Fin 64) (p : PairId) (n : Fin 5),
    let w := s.cmdWord i
    let f := s.fisin
    let gives (row : Instr) (code : Nat) (modes : List Nat) (u : State) (ws : List Word) : Prop :=
      Rings s i code true modes → exec row s = .next (u.replied i (Resp.good ws))
    (f.settled = true → f.paircfg.testBit 0 = true → (f.role = true → s.jrnl.everAttached = true) → f.param 7 0 ≠ 1 → s.dev.flags = false →
      gives (.declareOperational (.chan i)) 0x0002 [1] { s with jrnl := { s.jrnl with frozen := true }, dev := { s.dev with mode := 2 } }
        [placed f.lcount 0, placed f.paircfg 0]) ∧
    ((w 1).toNat < 4096 → 10 ≤ fieldN (w 2) 0 16 → fieldN (w 2) 0 16 ≤ 10080 → w 2 &&& 0xFFFFFFFFFEF80000#64 = 0#64 →
      Rings s i 0x0041 true [1, 2, 3, 4] → ∃ u : State, exec (.scrubRateSet (.chan i)) s = .next (u.replied i (Resp.good [w 1])) ∧
        { u with chans := s.chans } = s ∧ ∀ ch : ChanId, u.chan ch = if (w 1).getLsbD ch.val then
          { s.chan ch with lapmin := fieldN (w 2) 0 16, boost := fieldN (w 2) 16 3, swen := (w 2).getLsbD 24 } else s.chan ch) ∧
    ((w 1).toNat = n.val → (n = 0 → ∀ ch, (s.chan ch).devTimes = []) → (n = 1 → ∀ ch, (s.chan ch).rowTimes = []) → (w 2).toNat < 2 ^ 16 → 1 ≤ (w 3).toNat → (w 3).toNat ≤ 604800000000 →
      gives (.counterRuleSet (.chan i)) 0x0051 [1, 2, 3, 4]
        { s with fisin := { f with rules := setUnit f.rules n ((w 2).toNat, (w 3).toNat * 1000) } }
        [BitVec.ofNat 64 (f.rules.get n).1, BitVec.ofNat 64 ((f.rules.get n).2 / 1000)]) ∧
    ((w 1).toNat = n.val → (w 2).toNat < 2 ^ 16 → 1 ≤ (w 3).toNat → (w 3).toNat ≤ 604800000000 → Rings s i 0x0051 true [1, 2, 3, 4] →
      ∃ t, exec (.counterRuleSet (.chan i)) s = .next t ∧ t.fisin.rules = setUnit f.rules n ((w 2).toNat, (w 3).toNat * 1000) ∧
        t.mbox i = (s.mbox i).replied (Resp.good [BitVec.ofNat 64 (f.rules.get n).1, BitVec.ofNat 64 ((f.rules.get n).2 / 1000)])) ∧
    ((w 1).toNat < 4096 → Rings s i 0x0062 true [2, 3] → ∃ u : State, exec (.marginPlanApply (.chan i)) s = .next (u.replied i (Resp.good [w 1])) ∧ u.mem = s.mem ∧ u.cores = s.cores ∧
      ∀ c : CluId, let x := s.clock c; let y := u.clock c
        let want := min x.req (min x.pcap x.thermcap)
        let fit := fitVoltage c.val x.pgb want
        let mv := Config.fusedMv c.val fit + x.pgb
        ((w 1).getLsbD c.val = false ∨ x.pend = false ∨ x.planWait = true ∨ x.applying = some (x.pgb, x.pcap) → y = x) ∧
        ((w 1).getLsbD c.val = true → x.pend = true → x.planWait = false → x.applying ≠ some (x.pgb, x.pcap) →
          (x.busy = true → y = { x with planWait := true }) ∧
          (x.busy = false → fit = x.freq → x.mv = mv → y.gb = x.pgb ∧ y.cap = x.pcap ∧ y.pend = false ∧ y.freq = x.freq) ∧
          (x.busy = false → ¬ (fit = x.freq ∧ x.mv = mv) → y.busy = true ∧ y.target = fit ∧ y.applying = some (x.pgb, x.pcap) ∧
            y.gb = x.gb ∧ y.cap = x.cap ∧ y.freq = x.freq))) ∧
    (let e : BitVec 17 := (w 1).setWidth 17
     let absent := fieldN (w 2) 0 16
     let msg := fieldN (w 2) 16 16
     (w 1).toNat < 2 ^ 17 → (w 1).getLsbD 0 = false → (f.role = true → w 1 = 0#64) → w 2 >>> 32 = 0#64 → 10 ≤ absent → absent ≤ 1000 →
      500 ≤ msg → msg ≤ 10000 → msg < absent * 1000 → (w 3).toNat < 16 →
      gives (.volleyConfig (.chan i)) 0x0070 [1] { s with
          volley := { s.volley with
            expect := e, absentMs := absent, msgUs := msg,
            ports := Vector.ofFn (fun q => { s.volley.ports.get q with en := (w 3).getLsbD q.val }) },
          jrnl := { s.jrnl with role := if f.role then 2 else if w 1 = 0#64 then 0 else 1 } }
        [bitAt f.role 0 ||| placed s.volley.node.toNat 4 ||| placed e.toNat 32]) ∧
    (let j := s.jrnl
     let rid : BitVec 16 := (w 1).extractLsb' 16 16
     w 1 &&& 0xFFFFFFFF0000FFFF#64 = 3#64 → s.dev.mode = 1 → j.frozen = false → j.settime = false → j.err = false → f.role = false →
      10 ≤ fieldN (w 2) 0 24 → fieldN (w 2) 0 24 ≤ 10000 → fieldN (w 2) 48 16 = 0 → (w 4).toNat % 4096 = 0 → 65536 ≤ (w 4).toNat →
      (w 4).toNat < 2 ^ 40 → s.ready0 50 = true → j.epochs = [] → j.queue = [] → j.marks = [] →
      gives (.journalConfig (.chan i)) 0x0080 [1, 2, 3] { s with
          jrnl := { j with
            jlen := fieldN (w 2) 0 24, tgttmo := fieldN (w 2) 24 24, tgtbase := w 3, tgtsize := (w 4).toNat, tgtdb := w 5, tgtrid := rid,
            time := w 6, settime := true } } [bitAt true 48 ||| bitAt j.detached 50]) ∧
    ((w 1).toNat = p.val → s.ready0 p.val = true → ∃ v, gives (.debugAttach (.chan i)) 0x0090 [2, 3, 4]
      (s.setPair p { s.pair p with attached := true }) [v] ∧ v = (s.setPair p { s.pair p with attached := true }).pairStat p) ∧
    (f.inProgress (.chan i) = false → s.dev.flags = false → Rings s i 0x00F0 true [2] → exec (.enterDormant (.chan i)) s =
      .next (({ s with fisin := { f with dormantOp := some (w 1) }, standby := { s.standby with armed := true, wakePending := false } } : State).served i
        ((s.mbox i).replied (Resp.good [])) |>.pended 0x7DB)) ∧
    (∀ r : Region, r = { v := (w 1).getLsbD 6, s := fieldN (w 1) 8 4, base := fieldN (w 2) 0 22, n := fieldN (w 3) 0 22 } →
      w 1 &&& 0xFFFFFFFFFFFFF080#64 = 0#64 → r.s ∈ [0, 1, 2, 4, 8] → r.s ≤ s.integ.agatemax → (w 2).toNat < 2 ^ 22 → (w 3).toNat < 2 ^ 22 →
      r.base + r.n ≤ 6144 → s.integ.conv = none → (∀ g < 6144, s.locate (BitVec.ofNat 52 (g * oneGiB)) = none) →
      gives (.integrityRegionSet (.chan i)) 0x0040 [2, 3]
        { s with integ := { s.integ with regions := setUnit s.integ.regions ⟨fieldN (w 1) 0 6, Nat.mod_lt _ (by decide)⟩ r } } [r.word])

/-- Commands that take time (R201, R202, R294, R319, R407, R427): the channel shows IN_PROGRESS, Fisin remembers the operation with who waits
for it, and the mode is Service where R14 has a flag for it. -/
def Obligations.MailboxLongCommands : Prop :=
  ∀ (s : State) (i : Fin 64) (p : PairId) (ch : ChanId) (m : Image) (clu : CluId),
    let w := s.cmdWord i
    let f := s.fisin
    let goes (x : Fisin) : Fisin := { x with bells := f.bells.drop 1, chans := setUnit f.chans i (s.mbox i).goesOn }
    ((w 1).toNat = p.val → f.namesPair p (s.pair p).rettgt.toNat = false → s.ready0 p.val = true → f.retireOp = none →
      Rings s i 0x0011 true [2, 3, 4] → ∃ t, exec (.retirePair (.chan i)) s = .next t ∧ t.fisin = goes { f with retireOp := some (.chan i, p) } ∧
        (t.core (evenOf p)).run = .retiring ∧ (t.core (oddOf p)).run = .retiring ∧ (t.pair p).windows = [] ∧
        ((s.pair p).rescuing = none → (t.pair p).rescuing = some (3#2, 0#4)) ∧ t.mem = s.mem ∧
        ∀ c : CoreId, pairOf c ≠ p → t.core c = s.core c) ∧
    ((w 1).toNat < 16 → ((w 1).getLsbD 0 = true → (w 2).toNat % 64 = 0 ∧ (w 2).toNat < 2 ^ 52) → f.stageOp = none → f.commitOp = none → f.verifyFix = none →
      Rings s i 0x0020 true [1, 2, 3] →
      exec (.microcodeStage (.chan i)) s = .next { s with fisin := goes { f with stageOp := some (.chan i, w 1, toPa (w 2)) } }) ∧
    ((w 1).toNat < 4096 → f.staged = some m → f.commitOp = none → f.verifyFix = none →
      (∀ c : CluId, (w 1).getLsbD c.val = true → s.ready0 (24 + c.val) = true ∧ (unit s.clusters c).pfv = m.pfv.toNat) →
      (w 1).getLsbD clu.val = true → (∀ c : CluId, (w 1).getLsbD c.val = true → clu ≤ c) →
      Rings s i 0x0021 true [2, 3] → ∃ t, exec (.microcodeCommit (.chan i)) s = .next t ∧ t.mbox i = (s.mbox i).goesOn ∧
        t.dev = { s.dev with mode := 3, ucode := true } ∧ (unit t.clusters clu).phase = 1#3 ∧ (unit t.clusters clu).bankuse = 1#2 ∧
        (∀ c : CluId, c ≠ clu → unit t.clusters c = unit s.clusters c) ∧
        ∃ k, t.fisin.commitOp = some k ∧ k.reply = .chan i ∧ k.left.head? = some clu ∧ k.done = 0#12 ∧ k.single = 0#12) ∧
    (f.commitOp = none → f.verifyOp = none → f.verifyFix = none →
      (w 1 = 0xFFFFFFFF#64 → Rings s i 0x0022 false [1, 2, 3, 4] → exec (.microcodeVerify (.chan i)) s =
        .next (({ s with fisin := { f with verifyPeriod := 0, verifyDue := false } } : State).replied i (Resp.good []))) ∧
      ((w 1).toNat < 0xFFFFFFFF → Rings s i 0x0022 false [1, 2, 3, 4] → exec (.microcodeVerify (.chan i)) s = .next { s with
        fisin := goes { f with verifyOp := some (.chan i), verifyPeriod := if w 1 = 0#64 then f.verifyPeriod else (w 1).toNat } })) ∧
    ((w 1).toNat < 3 → (w 2).toNat < 2 ^ 52 → 0x40 + 96 ≤ (w 3).toNat → (w 3).toNat ≤ (slotOf ((w 1).toNat + 1) false).2 → f.fwOp = none →
      Rings s i 0x0030 true [1, 2, 3] → exec (.firmwareStage (.chan i)) s = .next { s with
        fisin := goes { f with fwOp := some (.chan i, (w 1).toNat + 1, toPa (w 2), (w 3).toNat) } }) ∧
    (f.inProgress (.chan i) = false → s.dev.flags = false →
      (let o := (slotOf 1 (!f.fwslot)).1
       imageCheck f (fun a n => f.flashN (o + a) n) 1 0x400000 (Config.imageSigned f.flash o) = 0) →
      Rings s i 0x0031 true [2, 3] → exec (.firmwareSwap (.chan i)) s = .next { s with
        fisin := goes { f with swapOp := some (.chan i) }, dev := { s.dev with mode := 3, fwswap := true } }) ∧
    ((w 1).toNat = ch.val → (s.chan ch).st = 3 → f.retrainOp = none → Rings s i 0x0042 true [2, 3] →
      exec (.channelRetrain (.chan i)) s = .next { s with
        fisin := goes { f with retrainOp := some (.chan i, ch), rdy0 := withBit f.rdy0 (36 + ch.val) false },
        dev := { s.dev with mode := 3, retrain := true }, chans := setUnit s.chans ch { s.chan ch with st := 5, retrain := true } }) ∧
    ((w 1).toNat = ch.val → Rings s i 0x0042 true [2, 3] →
      ((s.chan ch).st = 3 → f.retrainOp ≠ none → exec (.channelRetrain (.chan i)) s = .next (s.replied i (Resp.of .busy))) ∧
      ((s.chan ch).st ∉ [0, 3, 4] → exec (.channelRetrain (.chan i)) s = .next (s.replied i (Resp.of .notReady)))) ∧
    ((∃ g < 6144, (s.locate (BitVec.ofNat 52 (g * oneGiB))).isSome = true) → s.integ.conv = none →
      (∀ r : Fin 64, (s.integ.regions.get r).v = false) → s.integ.defs ≠ 8 → s.integ.agatemax = 8 →
      w 1 = 0x800#64 ||| 0x40#64 → w 2 = 0#64 → w 3 = 6144#64 → Rings s i 0x0040 true [2, 3] →
      ∃ t, exec (.integrityRegionSet (.chan i)) s = .next t ∧ t.mbox i = (s.mbox i).goesOn ∧ t.dev = { s.dev with mode := 3, agate := true } ∧
        t.integ.conv = some { region := 0, old := s.integ.regions.get 0, reply := .chan i } ∧
        t.integ.regions = setUnit s.integ.regions 0 { v := true, s := 8, base := 0, n := 6144 } ∧ ∀ k : ChanId, (t.chan k).agwm = 0)

/-! ### Events at a core (06, 08, 11, 14) -/

/-- Events taken at a core's boundary and waits that end (R48, R112, R161, R173, R182, R228, R296, R345, R348): an interrupt enters through its
descriptor and leaves the pending set, a machine check or pair-retired trap likewise, a delivered queue records where it returns, a recorded
drain fault is entered, the spill buffer writes a frame to its two lines and the reserve moves one into the buffer, TLBI and JWAIT retire
when what they wait for has come, a notified record reaches the sequencer's queue, a reserved word raises cause 0x01. -/
def Obligations.CoreEvents : Prop :=
  ∀ (s s1 s2 : State) (c o : CoreId) (d : Desc) (v : Nat) (l : BitVec 4) (a : Async) (as : List Async) (word ext : BitVec 32),
    let k := s.core c
    let r := k.regs
    let x := r.ctx
    let gone := (s.setCore c { k with ipend := Tab.drop k.ipend v }).yields c
    let took := (s.setCore c { k with async := as }).yields c
    let exc (cause : Nat) (info faddr : Word) (f : Option (Pa × Bool)) : EntryKind := .exception ⟨BitVec.ofNat 8 cause, info, faddr, f⟩
    s.Steady →
    (Enters s c → k.async = [] → bestPending k.ipend = some (v, l) →
      (l ≠ 0#4 → l ≤ x.csw.ilm → x.proga.getLsbD 4 = false → Describes gone c v d s1 →
        exec (.interruptEntry c none) s = .next (s1.setRegs c (r.enterThrough d v (.interrupt false) x.pc))) ∧
      (l = 0#4 → x.csw.ublk = false → d = r.pinned.get ⟨v % 16, Nat.mod_lt _ (by decide)⟩ → d.invalid = false →
        exec (.interruptEntry c none) s = .next (gone.setRegs c (r.enterThrough d v (.interrupt true) x.pc)))) ∧
    (Enters s c → k.async = a :: as →
      ∀ p ∈ [(Instr.machineCheckEntry c, 0x20), (.pairRetiredTrap c, 0x1F)], a.cause = BitVec.ofNat 8 p.2 → Describes took c p.2 d s1 →
        exec p.1 s = .next (s1.setRegs c (r.enterThrough d p.2 (exc p.2 a.info a.faddr none) x.pc))) ∧
    (let e := if r.fdq.all (·.assist) then 0x18 else 0x17
     let flags := (r.fdq.map (·.flags)).foldl (· ||| ·) 0#5
     Enters s c → k.async = [] → k.ipend = [] → r.deliv = false → r.fdq ≠ [] →
      decodeInsn c word ext = none ∨ (∃ i, decodeInsn c word ext = some i ∧ r.deliveryDue i = true) → Describes (s.unwaited c) c e d s1 →
      exec (.fdqDelivery ⟨c, word, ext⟩) s = .next (s1.setRegs c { r.enterThrough d e
        (exc e (placed r.fdq.length 0 ||| placed flags.toNat 3) ((r.fdq.map (·.addr)).headD 0#64) none) x.pc with
          deliv := true, fdqra := x.pc &&& 0x00FFFFFFFFFFFFFF#64 })) ∧
    (∀ f : DrainFault, s.mayRun c = true → s.leads c = false → x.csw.fd = 0#2 → k.async = [] → k.ipend = [] → (r.deliv = true ∨ r.fdq = []) → r.drainFault = some f →
      f.bank = r.cur → x.wstat.owed = false → (x.wstat.cw + 1#5 - x.wstat.ow).toNat < 30 →
      Describes ((s.unwaited c).setRegs c { r with drainFault := none, drainHeld := true }) c 0x11 d s1 → exec (.spillDrainFaultEntry c) s =
        .next (s1.setRegs c (({ r with drainFault := none, drainHeld := true } : Regs).enterThrough d 0x11 (exc 0x11 f.info f.faddr f.fstat) x.pc))) ∧
    (∀ (sl : SpillSlot) (rest : List SpillSlot), s.mayRun c = true → Bare s c → r.drainFault = none → r.drainHeld = false → r.spill = sl :: rest →
      let wsp := (r.bank sl.bank).wsp
      InMemory s c wsp → InMemory s c (wsp + 64#64) → k.stbuf.length + 2 ≤ 32 →
      ∃ t, exec (.spillBufferDrain c) s = .next t ∧ s.After t c { r.setBank sl.bank { r.bank sl.bank with wsp := wsp + 128#64 } with spill := rest, drainFault := none }
        [.wholeLine (toPa wsp) (Vector.ofFn (fun j : Fin 8 => sl.frame.get (j.castLE (by decide)))),
         .wholeLine (toPa (wsp + 64#64)) (Vector.ofFn (fun j : Fin 8 => sl.frame.get (j.natAdd 8)))]) ∧
    (s.mayRun c = true → x.wstat.owed = true → x.csw.fd = 0#2 → r.spill.length < 2 →
      exec (.reserveRefillMove c) s = .next (s.setRegs c { r.inCtx (fun x => { x with
        wstat := { x.wstat with ow := x.wstat.ow + 1#5, owed := false } }) with spill := r.spill ++ [⟨r.cur, x.wstat.ow, x.frame x.wstat.ow⟩] })) ∧
    (∀ w : TlbiWait, (s.core o).tlbi = some w → w.form = 0#4 →
      (c ≠ o → w.left.contains c.val = true → s.leads c = false → k.stbuf = [] → exec (.tlbiReceive (some c) o) s =
        .next ((s.setCore c { k with tlb := [], walk := [] }).setCore o { s.core o with
          tlbi := some { w with left := w.left.filter (fun n => !decide (n = c.val)) } })) ∧
      (w.left.contains 48 = true → exec (.tlbiReceive none o) s =
        .next (({ s with pcie := { s.pcie with iotlb := [], iowalk := [] } } : State).setCore o { s.core o with
          tlbi := some { w with left := w.left.filter (fun n => !decide (n = 48)) } }))) ∧
    (s.mayRun c = true → s.leads c = false → (s.pair (pairOf c)).stepping = false →
      (∀ w : TlbiWait, k.tlbi = some w → w.left = [] → ∃ t, exec (.tlbiComplete c) s = .next t ∧
        (s.setCore c { k with tlbi := none }).Leaves t c (r.retired (x.pc + 4#64) r false)) ∧
      (∀ (n : Word) (cc : BitVec 2), k.jwait = some n → s.jwaitCc (n.setWidth 48) = some cc → ∃ t, exec (.jwaitWake c) s = .next t ∧
        (s.setCore c { k with jwait := none }).Leaves t c ((r.withCc cc).retired (x.pc + 4#64) r false))) ∧
    (∀ (ring : Byte) (n : BitVec 48) (bytes : Nat) (head : BitVec 32), k.stbuf = [.notice ring n bytes head] →
      (∀ e ∈ s.jrnl.epochs, e.st ≠ .sealing ∧ e.st ≠ .draining) → (s.jrnl.err = true ∨ s.jrnl.tgtsize = 0) →
      exec (.appendNotice c) s = .next { s.setCore c { k with stbuf := [] } with
        jrnl := if s.ringLost ring.toNat then s.jrnl else { s.jrnl with queue := s.jrnl.queue ++ [⟨ring, n, bytes, head⟩] } }) ∧
    (let info : Word := if word = repWord ∨ word = repnWord then ext.setWidth 64 ||| placed word.toNat 32
        else if lenOf word = 8 then word.setWidth 64 ||| placed ext.toNat 32 else word.setWidth 64
     decodeInsn c word ext = none → Enters s c → s.mayIssue c = true → k.async = [] → k.ipend = [] → r.fdq = [] → r.drainFault = none →
      r.breakpoint x.pc = none → r.stepDue ≠ some x.pc → (fetchInsn c (lenOf word)).run s = (.ok (), s1) → s1.regs c = r → s1.leads c = false →
      Describes s1 c 0x01 d s2 → (s2.core c).miss = k.miss →
      exec (.reservedOpcode c word ext) s = .next (s2.over c (r.enterThrough d 0x01 (exc 0x01 info 0#64 none) x.pc)))

/-! ### Coherence and bridges (09, 18) -/

/-- Die bridge and hub bridge rows (R253–R256, R400, R415, Table 9-6): a CRC error starts a replay and is counted, the 64th within 1 ms retrains,
a replay's success returns the lane to Up, its budget's end retrains it, a good retrain returns it to Up unless it was the 4th within 1 min; the
detour is left with an interrupt; a lost hub bridge and an uncontained error fence their die, and one confined to no die halts the device. -/
def Obligations.BridgeRows : Prop :=
  ∀ (s : State) (g : GroupId) (d : DieId),
    let f := s.fabric
    let rule (n : Fin 5) := s.fisin.rules.get n
    let within (l : BridgeLane) : List Nat := l.crcTimes.filter (fun t => decide (s.now ≤ t + (rule 2).2))
    let counted (l : BridgeLane) : BridgeLane := { l with crc := saturate16 l.crc, crcTimes := within l ++ [s.now] }
    let crc (l : BridgeLane) : BridgeLane := { counted l with st := 1#2 }
    let fewer (th n : Nat) : Prop := th = 0 ∨ n < th
    let quiet (l : BridgeLane) : Prop := fewer (rule 2).1 ((within l).length + 1)
    let calm (l : BridgeLane) : Prop := fewer (rule 2).1 (within l).length
    let group (l : BridgeLane) : State := { s with fabric := { f with groups := setUnit f.groups g l } }
    let hub (l : BridgeLane) : State := { s with fabric := { f with hubs := setUnit f.hubs d l } }
    let retrains (l : BridgeLane) : BridgeLane := { l with st := 2#2, crcTimes := [], retrainTimes := l.recent s ++ [s.now] }
    let another : Prop := ∃ o : GroupId, o ≠ g ∧ (s.group o).st = 0#2
    let leaves (i : Instr) (l : BridgeLane) : Prop := ∃ t, exec i s = .next t ∧ t.fabric = (group (retrains l)).fabric ∧
      (s.fisin.swapOp = none → t.lastLog = some (4, 0, 1)) ∧ t.mem = s.mem ∧ t.cores = s.cores ∧ t.dev = s.dev
    s.alive = true →
    ((s.group g).st = 0#2 → (quiet (s.group g) → exec (.dieBridgeCrcError g) s = .next (group (crc (s.group g)))) ∧
      (another → ¬ quiet (s.group g) → leaves (.dieBridgeCrcError g) (counted (s.group g)))) ∧
    ((s.group g).st = 1#2 → exec (.dieBridgeCrcError g) s = .next (group (counted (s.group g))) ∧
      (calm (s.group g) → exec (.dieBridgeReplayDone g) s = .next (group { s.group g with st := 0#2 })) ∧
      (another → leaves (.dieBridgeReplayTimeout g) (s.group g) ∧ (¬ calm (s.group g) → leaves (.dieBridgeReplayDone g) (s.group g)))) ∧
    ((s.group g).st = 2#2 → (fewer (rule 3).1 (s.group g).retrainTimes.length →
        exec (.dieBridgeRetrainDone g true) s = .next (group { s.group g with st := 0#2 })) ∧
      (another → ¬ fewer (rule 3).1 (s.group g).retrainTimes.length → ∃ t, exec (.dieBridgeRetrainDone g true) s = .next t ∧
        t.fabric = (group { s.group g with st := 3#2 }).fabric ∧ (s.fisin.swapOp = none → t.lastLog = some (4, 0, 2)))) ∧
    (f.detour = true → 0 < f.groupsUp → ∃ t, exec .detourExit s = .next t ∧ t.fabric = { f with detour := false } ∧
      t.pcie = (s.pended 0x7D8).pcie ∧ (s.fisin.swapOp = none → t.lastLog = some (4, 0, 3)) ∧ t.mem = s.mem ∧ t.cores = s.cores) ∧
    ((s.hub d).st = 0#2 → quiet (s.hub d) → exec (.hubBridgeCrcError d) s = .next (hub (crc (s.hub d)))) ∧
    ((s.hub d).st = 1#2 → calm (s.hub d) → exec (.hubBridgeReplayDone d) s = .next (hub { s.hub d with st := 0#2 })) ∧
    ((s.hub d).st = 1#2 → fewer (rule 3).1 (((s.hub d).recent s).length + 1) →
      exec (.hubBridgeReplayTimeout d) s = .next (hub (retrains (s.hub d)))) ∧
    ((s.hub d).st = 2#2 → fewer (rule 3).1 (s.hub d).retrainTimes.length →
      exec (.hubBridgeRetrainDone d) s = .next (hub { s.hub d with st := 0#2 })) ∧
    (s.dev.mode = 2 → f.carries = true → (∀ o : DieId, (s.hub o).st ≠ 3#2) → ∃ t, exec (.hubBridgeLost d) s = .next t ∧
      (t.hub d).st = 3#2 ∧ t.dev.mode = 4 ∧ t.dev.cause = 1#2 ∧ t.dev.die.toNat = d.val ∧ (s.fisin.swapOp = none → t.lastLog = some (4, d.val, 6))) ∧
    (s.dev.mode = 2 → (∃ t, exec (.uncontainedError (some d)) s = .next t ∧ t.dev.mode = 4 ∧ t.dev.cause = 2#2 ∧ t.dev.die.toNat = d.val ∧
        (s.fisin.swapOp = none → t.lastLog = some (4, d.val, 6))) ∧
      ∃ t, exec (.uncontainedError none) s = .next t ∧ t.dev.mode = 5 ∧ t.standby.faultN = true ∧ t.mem = s.mem) ∧
    (s.dev.mode = 1 → s.ready0 53 = false → s.fisin.fail0.getLsbD 53 = false →
      exec (.fabricBringUpDone true true 0xF#4) s = .next { s with
        fisin := { s.fisin with rdy0 := withBit (withBit (withBit s.fisin.rdy0 53 true) 54 true) 55 true } } ∧
      ∃ t, exec (.fabricBringUpDone false true 0xF#4) s = .next t ∧ t.dev.mode = 5 ∧ t.fisin.fail0.getLsbD 53 = true)

/-- Coherence rows (R242–R245, R250, R254): the fill of a load that has not retired is held for it and recorded in the directory, discarded when
the load was squashed, and not requested at all under CSW.QUIET; an ownership request makes the line M; a forwarded read makes an owner's line S
and a forwarded invalidate removes it; the flush engine's end disables the L2; a coherence timeout is a machine check at the requester. -/
def Obligations.CoherenceRows : Prop :=
  ∀ (s : State) (c : CoreId) (pa : Pa) (ch : ChanId) (v : LlcLine) (data : Line) (way : Nat) (arrayErr : Bool),
    let n := lineOf pa
    let k := s.core c
    let reads : Prop := s.paKind pa = .memory ch ∧ s.memReady pa = true ∧ s.dieLost (homeDie s n) = false
    let others (t : State) : Prop := t.mem = s.mem ∧ t.llc = s.llc ∧ t.regs c = s.regs c ∧ (t.core c).l2 = k.l2 ∧ ∀ o : CoreId, o ≠ c → t.core o = s.core o
    s.Steady →
    (reads → k.l2.look n = none → k.miss.length < 48 → (∀ m ∈ k.miss, m.line ≠ n) → s.dir.look n = none → s.dir.length < 16 →
      s.llc.look n = some v →
      (k.regs.ctx.csw.quiet = false → (∃ t, exec (.missFillArrival c ⟨pa, none⟩ ⟨false, false⟩) s = .next t ∧ others t ∧
          (t.core c).miss = k.miss ++ [⟨n, .e, v.data⟩] ∧ t.dir = s.dir.put n (.owned c)) ∧
        ∃ t, exec (.missFillArrival c ⟨pa, none⟩ ⟨true, false⟩) s = .next t ∧ others t ∧ (t.core c).miss = k.miss ∧ t.dir = s.dir.put n (.owned c)) ∧
      (k.regs.ctx.csw.quiet = true → ∀ squashed, ∃ t, exec (.missFillArrival c ⟨pa, none⟩ ⟨squashed, arrayErr⟩) s = .next t ∧ others t ∧
        (t.core c).miss = k.miss ∧ t.dir = s.dir)) ∧
    (reads → Holds s c pa ⟨.e, data, way⟩ →
      exec (.homeSliceRequest c pa .own false) s = .next (s.wrote c pa ⟨.e, data, way⟩ data) ∧
      exec (.homeSliceRequest c pa .read false) s = .next (s.setCore c { k with l2lru := lruUsed k.l2lru (n % 1024) way 4 }) ∧
      (s.dir.look n = some (.owned c) → exec (.homeSliceRequest c pa .evict false) s =
        .next { s.setCore c (k.dropLine n) with dir := s.dir.drop n })) ∧
    (k.l2Coherent = true → k.l2.look n = some ⟨.e, data, way⟩ → (∀ m ∈ k.miss, m.line ≠ n) → s.dir.look n = some (.owned c) →
      exec (.forwardedRequest c pa .read false) s = .next { s.setCore c { k with l2 := k.l2.put n ⟨.s, data, way⟩ } with
        dir := s.dir.put n (.shared (BitVec.ofNat 48 (2 ^ c.val))) } ∧
      ∀ kind ∈ [FwdKind.write, .inval], exec (.forwardedRequest c pa kind false) s = .next { s.setCore c (k.dropLine n) with dir := s.dir.drop n }) ∧
    (k.l2.look n = none → (∀ m ∈ k.miss, m.line ≠ n) → exec (.forwardedRequest c pa .read arrayErr) s = .next s) ∧
    (k.fdbusy = true → k.l2 = [] → exec (.l2FlushDisableDone c) s = .next (s.setCore c { k with
        l2en := false, fdbusy := false, fddone := true, held := false, dirtyheld := 0 })) ∧
    (k.fdbusy = true → k.l2 = [(n, ⟨.m, data, way⟩)] → s.llc.look n = some v → unit s.fabric.llcen (homeDie s n) = true → inBoot n = false →
      ∃ t, exec (.l2FlushDisableDone c) s = .next t ∧ (t.core c).l2 = [] ∧ (t.core c).l2en = false ∧ (t.core c).fdbusy = false ∧
        (t.core c).fddone = true ∧ t.regs c = k.regs ∧ t.llc = s.llc.put n ⟨true, data, v.way⟩ ∧ t.mem = s.mem) ∧
    (s.paKind pa = .memory ch → homeDie s n ≠ dieOf c → k.takes = true → (∀ g : GroupId, (s.group g).st ≠ 1#2) → k.async = [] →
      ∃ t, exec (.coherenceTimeout c pa false) s = .next t ∧ (s.fisin.swapOp = none → t.lastLog = some (4, (homeDie s n).val, 5)) ∧
        (t.core c) = { k with async := [⟨0x20#8, placed 5 0 ||| placed (homeDie s n).val 4, (linePa n).setWidth 64⟩] } ∧
        t.mem = s.mem ∧ t.dir = s.dir ∧ ∀ o : CoreId, o ≠ c → t.core o = s.core o)

/-! ### Checked pairs, microcode and firmware (07, 11, 17, 18) -/

/-- Checked pair rows (R280, R284–R287, R291–R295): an idle window ends where the core stands; a matching verdict releases the oldest window
and its gated stores leave; a mismatch restores the checkpoint, SLIP and WINLEN with it, and rallies, a second one at the same window retires the
pair; the deferral timeout rallies without being counted toward retirement; the budget's end drops retry-hold; the watchdog retires the pair; and
when the rescue is over the pair's cores are retired and its ready bit clears. -/
def Obligations.PairRows : Prop :=
  ∀ (s : State) (p : PairId) (w : Window) (n : BitVec 48) (u : BitVec 8) (sig : Word) (stores : Nat) (trail : List Event) (pa : Pa) (x : TW) (l : L2Line),
    let q := s.pair p
    let e := evenOf p
    let k := s.core e
    let start := (w.startN, w.startU)
    let judged := Instr.umpireVerdict p sig n u ⟨stores, trail⟩ false false
    let both (t : State) (reason : BitVec 4) : Prop := (t.core e).run = .retiring ∧ (t.core (oddOf p)).run = .retiring ∧
      (t.pair p).reason = reason ∧ (t.pair p).hard = true ∧ (t.pair p).windows = [] ∧ (q.rescuing = none → (t.pair p).rescuing = some (3#2, reason))
    let unwound (t : State) : Prop := t.regs e = w.checkpoint ∧ (t.core e).run = .rallying ∧ (t.pair p).windows = [w.reopened] ∧
      (t.pair p).replay = q.dlog ∧ (t.pair p).retryHold = true ∧ (t.pair p).rallies = saturate16 q.rallies ∧
      (t.pair p).slipNext = w.side.slip ∧ (t.pair p).winlenNext = w.side.winlen ∧ (s.fisin.swapOp = none → t.lastLog = some (1, p.val, 1)) ∧
      (t.core e).l2 = k.l2 ∧ t.mem = s.mem
    s.alive = true → s.chans.any (·.waits) = false → q.checked = true → q.windows = [w] → w.startU < 256 → q.heldmis = false →
    (w.ended = none → w.goal = none → exec (.windowIdleTimeout p) s =
      .next (s.setPair p { q with windows := [{ w with ended := some ((s.regs e).posN, (s.regs e).posU) }] })) ∧
    (w.ended = some (n, u.toNat) → sig = w.sig → stores = w.gate.length → q.dlog = [] → q.stopDue = none → s.jrnl.Calm → k.run = .running →
      (w.gate = [] → ∃ t, exec judged s = .next t ∧ (t.pair p) = { q with
          windows := [], mismatched := none, retryHold := false, cleared := if w.access then w.ended else q.cleared } ∧
        (t.core e).run = .running ∧ t.regs e = k.regs ∧ (t.core e).l2 = k.l2 ∧ t.mem = s.mem) ∧
      (w.gate = [.word pa x false] → Holds s e pa l → l.st ≠ .s → inBoot (lineOf pa) = false →
        ∃ t, exec judged s = .next t ∧ (t.pair p).windows = [] ∧ t.regs e = k.regs ∧
          (t.core e).l2 = k.l2.put (lineOf pa) ⟨.m, l.data.set (wordIx pa).val x (wordIx pa).isLt, l.way⟩ ∧ t.mem = s.mem)) ∧
    (w.ended.isSome = true → sig ≠ w.sig → q.holdmis = false →
      (q.mismatched ≠ some start → (ruleCount (s.fisin.rules.get 4) s.now q.rallyTimes).2 = false →
        ∃ t, exec judged s = .next t ∧ unwound t ∧ (t.pair p).siglead = w.sig ∧ (t.pair p).sigtrail = sig ∧
          (t.pair p).misinfo = posWord start ||| placed 1 56 ∧ (t.pair p).mismatched = some start) ∧
      (q.mismatched = some start → ∃ t, exec judged s = .next t ∧ both t 1#4)) ∧
    (q.retryHold = true → k.run = .rallying → exec (.rallyBudgetExpiry p) s =
      .next (s.setPair p { q with retryHold := false, windows := [{ w with line := none }] })) ∧
    (w.line.isSome = true → ∃ t, exec (.casDeferralTimeout p) s = .next t ∧ unwound t ∧ (t.pair p).rallyTimes = q.rallyTimes ∧
      (t.pair p).mismatched = q.mismatched) ∧
    (q.retryHold = false → q.halted = false → k.run = .running → 0 < w.retired → ∃ t, exec (.pairWatchdogExpiry p) s = .next t ∧ both t 3#4) ∧
    (∀ (agree : Bool) (reason : BitVec 4), q.rescuing = some (3#2, reason) → reason ≠ 4#4 → q.rescue.getLsbD 0 = false →
      ∃ t, exec (.rescueAreaWritten p agree) s = .next t ∧ (t.core e).run = .retired ∧ (t.core (oddOf p)).run = .retired ∧
        (t.pair p).rescuing = none ∧ t.ready0 p.val = false ∧ (s.fisin.swapOp = none → t.lastLog = some (1, p.val, 3)) ∧ t.mem = s.mem)

/-- Microcode and firmware rows (R193, R196, R200–R203, R395, R407, R427): the first load puts the accepted image in every bank that compares
equal, a stage holds an accepted image, a commit goes step by step through its clusters and then completes, a verify pass reports and first
rewrites a bank that differs, a parity error is counted and repaired or takes its bank out of use, an accepted firmware image is written to its
slot, a firmware swap takes the new slot or keeps the old one and drains its event FIFO, and an event logged while a swap is active waits in that
FIFO of 256 entries. -/
def Obligations.MicrocodeRows : Prop :=
  ∀ (s : State) (i : Fin 64) (clu : CluId) (c : CoreId) (k : Commit) (sig alt : SigOutcome) (bank ok : Bool) (addr : BitVec 14) (bytes : List Byte)
    (pa : Pa) (kind : Nat) (w1 : Word) (cut : List (CoreId × Within)),
    let f := s.fisin
    let x := unit s.clusters clu
    let clus (x : Cluster) : Vector Cluster 12 := setUnit s.clusters clu x
    let done (t : State) (r : Resp) : Prop := t.mbox i = (s.mbox i).replied r ∧ t.pcie = (s.pended 0x7DB).pcie
    let logs (t : State) (e : Nat × Nat × Nat) : Prop := f.swapOp = none → t.lastLog = some e
    s.Steady →
    (let named := f.recordOk && f.ucimage
     let first := imageVerdict f (f.flashImage named) sig
     let second := imageVerdict f (f.flashImage (!named)) alt
     s.dev.mode = 1 → s.ready0 48 = true → (∀ j : CluId, s.ready0 (24 + j.val) = false ∧ f.fail0.getLsbD (24 + j.val) = false) →
      (∀ (m : Image) (good : BitVec 24), (first = 0 ∧ m = f.flashImage named) ∨ (first ≠ 0 ∧ second = 0 ∧ m = f.flashImage (!named)) →
        (bankBit good 0 0 || bankBit good 0 1) = true → ∃ t, exec (.microcodeLoadDone sig alt good) s = .next t ∧
        (∀ j : CluId, let a := bankBit good j 0
          let b := bankBit good j 1
          if a || b then t.ready0 (24 + j.val) = true ∧ unit t.clusters j = { unit s.clusters j with
            bankA := if a then some m else none, bankB := if b then some m else none, abad := !a, bbad := !b, parityA := [], parityB := []
            bankuse := if a && b then 0#2 else if a then 1#2 else 2#2 }
          else t.fisin.fail0.getLsbD (24 + j.val) = true ∧ unit t.clusters j = unit s.clusters j) ∧
        ∀ p : PairId, (bankBit good (clusterOf (evenOf p)) 0 || bankBit good (clusterOf (evenOf p)) 1) = true →
          t.ready0 p.val = true ∧ (t.pair p).checked = (decide (p.val = 0) || f.paircfg.testBit p.val)) ∧
      (first ≠ 0 → second ≠ 0 → ∃ t, exec (.microcodeLoadDone sig alt 0xFFFFFF#24) s = .next t ∧ t.dev.mode = 5)) ∧
    (let m := f.flashImage (w1.getLsbD 2)
     f.stageOp = some (.chan i, w1, pa) → w1.getLsbD 0 = false → w1.getLsbD 1 = false →
      (imageVerdict f m sig = 0 → ∃ t, exec (.microcodeStageDone sig) s = .next t ∧ t.fisin.staged = some m ∧ t.fisin.stageOp = none ∧
        done t (Resp.good [m.stdver.setWidth 64, m.xver.setWidth 64, placed (m.pfv.toNat % 16) 0])) ∧
      (imageVerdict f m sig ≠ 0 → ∃ t, exec (.microcodeStageDone sig) s = .next t ∧ t.fisin.staged = f.staged ∧ t.fisin.stageOp = none ∧
        done t (Resp.fail (imageVerdict f m sig)))) ∧
    (f.commitOp = some k → k.left = [clu] → (∀ p ∈ pairsOf clu, (s.pair p).checked = false ∧ (s.pair p).bank = none) →
      let step (ok : Bool) (cut : List (CoreId × Within)) (y : Cluster) : Prop :=
        exec (.commitClusterStepDone ⟨clu, cut⟩ ok) s = .next { s with clusters := clus y }
      let ends (ok : Bool) (y : Cluster) (r : Resp) : Prop := ∃ t, exec (.commitClusterStepDone ⟨clu, cut⟩ ok) s = .next t ∧ t.clusters = clus y ∧
        t.fisin.commitOp = none ∧ t.dev.ucode = false ∧ done t r
      (x.phase = 1#3 → step ok cut { x with phase := 2#3 }) ∧
      (x.phase = 2#3 → step true [] { x with bankB := f.staged, bbad := false, parityB := [], phase := 3#3, bankuse := 2#2 }) ∧
      (x.phase = 3#3 → step ok cut { x with phase := 4#3 }) ∧
      (x.phase = 4#3 → step true cut { x with bankA := x.bankB, parityA := [], abad := false, phase := 5#3, bankuse := 0#2 }) ∧
      (k.reply = .chan i →
        (x.phase = 2#3 → ends false { x with bankB := x.bankA, parityB := [], bankuse := 0#2, phase := 0#3 }
          { status := .failed, detail := 5, res := [k.done.setWidth 64, k.single.setWidth 64] }) ∧
        (x.phase = 4#3 → ends false { x with bankA := none, parityA := [], abad := true, phase := 0#3 }
          { status := .failed, detail := 5, res := [(k.done ||| cluBit clu).setWidth 64, (k.single ||| cluBit clu).setWidth 64] }) ∧
        (x.phase = 5#3 → ends ok { x with phase := 0#3 }
          { status := if k.single = 0#12 then .ok else .failed, detail := if k.single = 0#12 then 0 else 5,
            res := [(k.done ||| cluBit clu).setWidth 64, k.single.setWidth 64] }))) ∧
    (f.verifyPeriod ≠ 0 → exec .periodicVerifyDue s = .next { s with
      fisin := if f.commitOp.isSome then { f with verifyDue := true } else { f with verifyRun := true } }) ∧
    (∀ xsig : Bool, f.verifyOp = some (.chan i) →
      (f.verifyFix = none → ∃ t, exec (.microcodeVerifyDone ok xsig 0#24) s = .next t ∧ t.fisin.verifyOp = none ∧ t.clusters = s.clusters ∧
        done t (Resp.good [0#64, 0#64, bitAt (ok && xsig) 0])) ∧
      (let map : BitVec 24 := BitVec.ofNat 24 (2 ^ (2 * clu.val + bank.toNat))
       f.verifyFix = none → f.commitOp = none → exec (.microcodeVerifyDone ok xsig map) s = .next { s with
        fisin := { f with verifyFix := some { sigOk := ok && xsig, mismatch := map, fixed := 0#24, left := [(clu, bank, x.running)] } }
        clusters := clus { x with phase := 1#3, bankuse := if bank then 1#2 else 2#2 } }) ∧
      ∀ (v : VerifyFix) (m : Option Image), f.verifyFix = some v → v.left = [(clu, bank, m)] → f.commitOp = none →
        let repaired := if bank then { x with bankB := m, bbad := false, parityB := [] } else { x with bankA := m, abad := false, parityA := [] }
        let reports (ok : Bool) (y : Cluster) : Prop := ∃ t, exec (.commitClusterStepDone ⟨clu, cut⟩ ok) s = .next t ∧ t.clusters = clus y ∧
          t.fisin.verifyOp = none ∧ t.fisin.verifyFix = none ∧ done t (Resp.good [v.mismatch.setWidth 64, v.fixed.setWidth 64, bitAt v.sigOk 0])
        (x.phase = 1#3 → exec (.commitClusterStepDone ⟨clu, cut⟩ ok) s = .next { s with clusters := clus { x with phase := 2#3 } }) ∧
        (x.phase = 2#3 → exec (.commitClusterStepDone ⟨clu, cut⟩ true) s = .next { s with
          clusters := clus { repaired with phase := 5#3
                                           bankuse := if bank then (if x.abad then 2#2 else 0#2) else (if x.bbad then 1#2 else 0#2) }
          fisin := { f with verifyFix := some { v with fixed := v.fixed ||| BitVec.ofNat 24 (2 ^ (2 * clu.val + bank.toNat)) } } }) ∧
        (x.phase = 2#3 → reports false (if bank then { x with phase := 0#3, bbad := true } else { x with phase := 0#3, abad := true })) ∧
        (x.phase = 5#3 → reports ok { x with phase := 0#3 })) ∧
    (clusterOf c = clu → s.readsB c = bank → s.fetches c = true →
      let counted := { x with parcnt := if x.parcnt = 0xFF#8 then x.parcnt else x.parcnt + 1#8 }
      let without (l : List Nat) : List Nat := l.filter (fun a => !decide (a = addr.toNat))
      (∃ t, exec (.microwordRepairDone clu bank addr c true) s = .next t ∧ logs t (2, clu.val, 1) ∧ t.cores = s.cores ∧
        t.clusters = clus (if bank then { counted with parityB := without x.parityB } else { counted with parityA := without x.parityA })) ∧
      (x.abad = false → x.bbad = false → ∃ t, exec (.microwordRepairDone clu bank addr c false) s = .next t ∧ logs t (2, clu.val, 2) ∧
        t.cores = s.cores ∧ t.clusters = clus (if bank then { counted with bbad := true, parityB := addr.toNat :: without x.parityB, bankuse := 1#2 }
          else { counted with abad := true, parityA := addr.toNat :: without x.parityA, bankuse := 2#2 }))) ∧
    (f.fwOp = some (.chan i, kind, pa, bytes.length) → 0 < bytes.length → HubBytes s pa bytes →
      let slot := if kind = 1 then !f.fwslot else if kind = 2 then !f.bootslot else false
      let place := slotOf kind slot
      let verdict := imageCheck f (fun o n => ofBytes ((List.range n).map (fun j => bytes.getD (o + j) 0#8))) kind (min place.2 bytes.length) ok
      ∃ t, exec (.firmwareStageDone ok) s = .next t ∧ t.fisin.fwOp = none ∧
        (verdict = 0 → t.fisin.flash = flashWrite f.flash place.1 bytes ∧
          done t (Resp.good [BitVec.ofNat 64 (ofBytes ((bytes.drop 8).take 4)), BitVec.ofNat 64 place.1])) ∧
        (verdict ≠ 0 → t.fisin.flash = f.flash ∧ done t (Resp.fail verdict) ∧ logs t (0, 0, 2))) ∧
    (f.swapOp = some (.chan i) → f.reqs = [] →
      (∃ t, exec .swapHandoverReady s = .next t ∧ t.fisin.fwslot = (!f.fwslot) ∧ t.fisin.fwnamed = (!f.fwslot) ∧ t.fisin.recordOk = true ∧
        t.fisin.swapOp = none ∧ t.fisin.events = [] ∧ t.dev.fwswap = false ∧
        t.mbox i = (s.mbox i).replied (Resp.good [BitVec.ofNat 64 (f.flashN ((slotOf 1 (!f.fwslot)).1 + 8) 4)]) ∧
        (f.events = [] → t.pcie = (s.pended 0x7DB).pcie) ∧
        (∀ l : LogEntry, f.events = [.log l] → f.eventsOver = false → t.lastLog = some (l.unit, l.inst, l.event))) ∧
      ∃ u, exec .swapHandoverTimeout s = .next u ∧ u.fisin.fwslot = f.fwslot ∧ u.fisin.swapOp = none ∧ u.fisin.events = [] ∧
        u.dev.fwswap = false ∧ u.mbox i = (s.mbox i).replied (Resp.fail 7)) ∧
    (s.handover = true → ∀ (u n e : Nat) (d0 d1 : Word) (l : LogEntry), l = ⟨s.jrnl.time, 0#32, u, n, e, d0, d1⟩ →
      fisinLog u n e d0 d1 s = ((), { s with
        fisin := if f.events.length < 256 then { f with events := f.events ++ [.log l] } else { f with eventsOver := true } }))

/-! ### Memory channels (12, 13) -/

/-- Memory channel rows (R310–R319, R323, R327, R328, R330, R332–R334, R337): training makes a channel Ready with its contents lost, or
Failed; the zero-fill's end makes all its frames readable; a read decodes what is stored, correcting it, rebuilding it with Agate, or poisoning
it; a write-back writes the line and cleans it; retries are counted, and the requests that waited issue; and refreshes, calibrations, sensors,
the Sweeper and a drain do what their rules say. Trained delays have no stated value (log entry 56). -/
def Obligations.MemoryRows : Prop :=
  ∀ (s : State) (ch : ChanId) (i : Fin 64) (c : CoreId) (pa : Pa) (a : Nat) (flips stuck : List SymErr) (e : Fin 32) (v : LlcLine) (rank : Fin 4)
    (temp : Int) (idle : Nat),
    let k := s.chan ch
    let f := s.fisin
    let chan (k : Channel) : State := { s with chans := setUnit s.chans ch k }
    let ag := s.integ.agatemax
    let n := lineOf pa
    let frame := a / 4096
    let S := s.strength ch frame
    let p := k.spot ag a
    let key := k.resolve ag a / 64
    let es := addErrs (k.errAt ag a) flips
    let logs (t : State) (e : Nat × Nat × Nat) : Prop := f.swapOp = none → t.lastLog = some e
    let fails (t : State) (st : BitVec 2) : Prop := t.chan ch = { k with st := 4, selftest := st } ∧ t.ready0 (36 + ch.val) = false ∧
      t.fisin.fail0.getLsbD (36 + ch.val) = true ∧ logs t (3, ch.val, 2) ∧ t.mem = s.mem
    s.Steady →
    (k.st = 2 → k.retrain = false →
      (∃ t d, exec (.channelTrainingDone ch true true) s = .next t ∧ t.cores = s.cores ∧
        t.chan ch = { ({ k with st := 3, wm := 0, selftest := 1#2, errs := [], pdiff := [], pcache := [] } : Channel).fillInject ag
          (fun loc => decide (spareBase ≤ loc)) with delays := d } ∧
        t.fisin = { f with rdy0 := withBit f.rdy0 (36 + ch.val) true, fail0 := withBit f.fail0 (36 + ch.val) false } ∧
        ∀ b : Pa, (∀ x, s.locate b = some (ch, x) → t.mem.byte b.toNat = 0#8) ∧
          ((∀ x, s.locate b ≠ some (ch, x)) → t.mem.byte b.toNat = s.mem.byte b.toNat)) ∧
      (∀ pass st, (pass && st) = false → ∃ t, exec (.channelTrainingDone ch pass st) s = .next t ∧ fails t (if st then 1#2 else 2#2)) ∧
      ∃ t, exec (.channelTrainingTimeout ch) s = .next t ∧ fails t 1#2) ∧
    (k.st = 2 → k.retrain = true → f.retrainOp = some (.chan i, ch) → ∃ t, exec (.channelTrainingDone ch true true) s = .next t ∧
      (t.chan ch).st = 3 ∧ (t.chan ch).wm = 0 ∧ (t.chan ch).retrain = false ∧ t.dev.retrain = false ∧ t.fisin.retrainOp = none ∧
      t.mbox i = (s.mbox i).replied (Resp.good [(t.chan ch).stat ag])) ∧
    (k.st = 3 ∨ k.st = 5 → ∀ w, exec (.caParityAlert ch w) s = .next (chan { k with retryact := true, retryWcrc := w })) ∧
    (k.st = 3 →
      (k.retryact = false → k.wm < k.frames ag → exec (.zeroFillDone ch) s = .next (chan (k.fillTo ag (k.frames ag))) ∧
        (k.fillTo ag (k.frames ag)).wm = k.frames ag) ∧
      (∀ busy manage : Bool, let m := if manage && k.rfm then k.rfms + 1 else k.rfms
        exec (.refreshDue ⟨ch, busy, manage⟩) s = .next (chan (if busy = true ∧ k.postponed < 4 then { k with rfms := m, postponed := k.postponed + 1 }
          else { k with rfms := m, refreshes := k.refreshes + 1 + k.postponed, postponed := 0 }))) ∧
      (rank.val < k.ranks →
        (∃ d t, exec (.dqsMicroRetrain ch rank) s = .next t ∧ t.cores = s.cores ∧ t.mem = s.mem ∧ t.chan ch = { k with
          retrims := setUnit k.retrims rank (unit k.retrims rank + 1), delays := setUnit k.delays rank d }) ∧
        exec (.zqCalibrationDue ⟨ch, rank⟩) s = .next (chan { k with zqcals := setUnit k.zqcals rank (unit k.zqcals rank + 1) })) ∧
      (k.swen = true → k.retryact = false → s.dieLost (dieOfChan ch) = false → ∃ t, exec (.sweeperInterval ch idle) s = .next t ∧
        (t.chan ch).behind = decide (idle < k.quota) ∧ t.cores = s.cores ∧ t.llc = s.llc ∧ t.dir = s.dir ∧
        (k.swpos < k.lapLines → (t.chan ch).swpos = (k.swpos + k.quota + min (k.boost * k.quota) (idle - k.quota)) % k.lapLines))) ∧
    exec (.dimmThermalRead ch temp) s = .next (chan { k with hot := decide (85 < temp) }) ∧
    (k.retryact = true →
      (k.retryWcrc = true → exec (.commandRetryDone ch) s = .next (chan { k with retryact := false, rdq := [], wrq := [], wcrc := saturate16 k.wcrc })) ∧
      (k.retryWcrc = false → exec (.commandRetryDone ch) s = .next (chan { k with retryact := false, rdq := [], wrq := [], capar := saturate16 k.capar })) ∧
      (k.retrain = false → ∃ t, exec (.commandRetryBudgetExpiry ch) s = .next t ∧ t.chan ch = { k with st := 4, retryact := false } ∧
        t.ready0 (36 + ch.val) = false ∧ logs t (3, ch.val, 7) ∧ t.mem = s.mem)) ∧
    (s.locate pa = some (ch, a) → (s.core c).async = [] → (s.core c).takes = true → k.retryact = false →
      ∃ t, exec (.llcMissTimeout c pa) s = .next t ∧ t.mem = s.mem ∧ logs t (1, (pairOf c).val, 5) ∧
        t.core c = { s.core c with async := [⟨0x20#8, 6#64 ||| placed ch.val 4, BitVec.ofNat 64 (n * 64)⟩] }) ∧
    (s.memReady pa = true → s.locate (linePa n) = some (ch, a) → a < parityBase → k.retryact = false → (∀ e, (k.remap.get e).copying = false) →
      (k.decode p.g es = .clean → exec (.memoryRead pa flips stuck) s = .next (chan { k with errs := Tab.setD k.errs key es [] })) ∧
      (k.decode p.g es = .corrected → ∃ t, exec (.memoryRead pa flips stuck) s = .next t ∧ (t.chan ch).corr = k.corr + 1#24 ∧ t.mem = s.mem ∧
        t.cores = s.cores) ∧
      (k.decode p.g es = .failed → S = 0 → ∃ t, exec (.memoryRead pa flips stuck) s = .next t ∧
        t.mem = s.mem.setLine (s.paOfChan ch a / 64)
          (poisonLine (poisonWord s (memLoc ch p.g) (if k.faildev.toList.getD p.g 0 = 0 then 1 else 2) 0)) ∧
        (t.chan ch).poisoned = k.poisoned + 1#16 ∧ logs t (3, ch.val, 3) ∧ t.cores = s.cores) ∧
      (k.decode p.g es = .failed → 1 ≤ S → S ≤ 8 → k.x8 = false →
        (∀ j, j < 64 + S → j ≠ a / 64 % 64 → k.errAt ag (blockAddr frame j) = []) → (∀ j, j < S → k.parityDiff frame j = []) →
        ∃ t, exec (.memoryRead pa flips stuck) s = .next t ∧ (t.chan ch).rebuilt = k.rebuilt + 1#16 ∧
          (t.chan ch).poisoned = k.poisoned ∧ t.mem = s.mem ∧ t.cores = s.cores) ∧
      (s.llc.look n = some v → v.dirty = true → inBoot n = false → k.errAt ag a = [] → S ≤ 8 →
        (∀ j, j < S → k.errAt ag (blockAddr frame (64 + j)) = []) → ∃ t, exec (.memoryWrite pa) s = .next t ∧
        t.mem = s.mem.setLine n v.data ∧ t.llc = s.llc.put n { v with dirty := false } ∧ t.cores = s.cores ∧ t.dir = s.dir)) ∧
    ((k.remap.get e).v = true → (k.remap.get e).copying = true → ∃ t, exec (.rowRemapCopyDone ch e) s = .next t ∧
      ((t.chan ch).remap.get e) = { k.remap.get e with copying := false } ∧ t.cores = s.cores) ∧
    (∀ x : Convert, s.integ.conv = some x → x.reply = .chan i → ∃ t, exec .agateConversionDone s = .next t ∧
      t.integ = { s.integ with conv := none } ∧ t.dev.agate = false ∧ t.mbox i = (s.mbox i).replied (Resp.good [(s.integ.regions.get x.region).word]) ∧
      ∀ j : ChanId, if (s.chan j).st = 3 ∧ s.dieLost (dieOfChan j) = false then (t.chan j).agwm = (s.chan j).frames ag else t.chan j = s.chan j) ∧
    (k.st = 5 → k.retryact = false → ∃ t, exec (.channelDrainDone ch) s = .next t ∧ t.chan ch = { k with st := 2, rdq := [], wrq := [] } ∧ t.mem = s.mem ∧
      ∀ (m x : Nat), s.locate (linePa m) = some (ch, x) → t.llc.look m = none ∧ t.dir.look m = none ∧ ∀ o : CoreId, (t.core o).l2.look m = none)

/-! ### Epochs, the target stream and time (14, 16) -/

/-- Journal and time rows (R342, R344, R345, R348, R350, R351, R353–R355, R371, R388, R389): an epoch's end seals it and opens the next in
every core, a notified record is drained to the target window and kept until it is released, JCOMPL makes the awaited epoch durable, a late
target is a journal error, epoch messages open, report and close epochs between manager and workers, a worker detaches, asks to rejoin when it
hears the manager again (the model's reading, log entry 100) and is admitted again, and the time exchange measures an offset. -/
def Obligations.JournalRows : Prop :=
  ∀ (s : State) (e : Epoch) (node : BitVec 5) (n a prov h cl : BitVec 48) (start t1 t2 t3 t4 : Word) (r : JRec) (ws : List Word) (q : VPortId),
    let j := s.jrnl
    let role := s.fisin.role
    let present := s.volley.present.getLsbD node.toNat
    let still : Prop := j.err = true ∨ j.tgtsize = 0
    let jrnl (j : Journal) : State := { s with jrnl := j }
    let me := s.volley.node
    let heard (from_ : BitVec 5) (j : Journal) : State := { (s.arrived (s.volley.route from_.toNat)) with jrnl := j }
    let told (q : VPortId) (j : Journal) : State := { (s.arrived q) with jrnl := j }
    let hears (x : BitVec 5) : Prop := (s.vport (s.volley.route x.toNat)).receives = true
    let logs (t : State) (e : Nat × Nat × Nat) : Prop := s.fisin.swapOp = none → t.lastLog = some e
    let seals (i : Instr) (late : Word) : Prop := ∃ (t : State) (st : EpochSt), exec i s = .next t ∧ (st = .sealing ∨ st = .draining) ∧
      t.jrnl.time = late ∧ t.jrnl.epochs = [{ e with st := st }, ⟨j.first, .opened, late, 0⟩] ∧ t.jrnl.first = j.first + 1#48 ∧
      t.mem = s.mem ∧ ∀ c : CoreId, t.core c = { s.core c with epoch := j.first }
    let off : Int := ((t2 - t1).toInt - (t4 - t3).toInt).tdiv 2
    let lock := decide (-20 ≤ off ∧ off ≤ 20)
    s.Steady → s.ready0 50 = true →
    (j.epochs = [e] → e.st = .opened → still → j.rejoins = [] → j.first ≠ 0#48 →
      (j.role = 0 → seals .epochEnd (if j.time.toNat < (e.start + BitVec.ofNat 64 (j.jlen * 1000)).toNat
        then e.start + BitVec.ofNat 64 (j.jlen * 1000) else j.time)) ∧
      (j.role = 1 → present = true → hears node → seals (.sealEpoch ⟨node, me⟩) j.time)) ∧
    (let x := j.ring r.ring.toNat
     let first := (r.head.toNat + 2 ^ 32 - r.bytes) % 2 ^ 32
     let at_ := j.tgthead.toNat % j.tgtsize
     j.err = false → 0 < j.tgtsize → j.queue = [r] → j.marks = [] → j.voided = [] → r.bytes ≤ j.space → at_ + r.bytes ≤ j.tgtsize →
      (∀ e ∈ j.epochs, e.st = .opened) → r.bytes % 8 = 0 →
      ws.length = r.bytes / 8 → (∀ k, k < ws.length → ∃ w, ws[k]? = some w.val ∧ w.tag ≠ 0x82#8 ∧
        HubReads s (toPa (x.base + BitVec.ofNat 64 ((first + 8 * k) % 2 ^ x.log2.toNat))) w) →
      ∃ t, exec .ringDrain s = .next t ∧ t.jrnl.queue = [] ∧ t.jrnl.kept = j.kept ++ [r] ∧ t.jrnl.tgthead = j.tgthead + BitVec.ofNat 64 r.bytes ∧
        t.pcie.posted = s.pcie.posted ++ [⟨j.tgtbase + BitVec.ofNat 64 at_, ws, r.bytes⟩] ∧ t.mem = s.mem ∧
        (t.jrnl.ring r.ring.toNat).drained = if (r.head - x.drained).toNat < 2 ^ 31 then r.head else x.drained) ∧
    (let data : Word := n.setWidth 64
     j.epochs = [⟨n, .committing, start, 0⟩] → j.role = 0 → j.err = false → j.kept = [] → j.queue = [] → j.marks = [] → j.first ≠ 0#48 → j.rejoins = [] →
      ∃ t, exec (.journalCompletionWrite j.tgtrid 0xFEF00000#64 data) s = .next t ∧ t.jrnl.durable = n ∧ t.jrnl.closed = n ∧ t.jrnl.jcompl = n ∧
        t.jrnl.epochs = [⟨j.first, .opened, j.time, 0⟩] ∧ t.mem = s.mem) ∧
    (j.awaited = some n → j.err = false → ∃ t, exec .journalTargetTimeout s = .next t ∧ t.jrnl = { j with err := true } ∧
      t.pcie = (s.pended 0x7D9).pcie ∧ logs t (5, 0, 1) ∧ t.mem = s.mem ∧ t.cores = s.cores) ∧
    (role = false → ∃ d : Int, -500000000 ≤ d ∧ d < 500000000 ∧ ((j.time.toNat : Int) - d) % 1000000000 = 0 ∧ exec .ppsInEdge s =
      .next (jrnl { j with src := 1#2, offset := BitVec.ofInt 32 d, lock := decide (-20 ≤ d ∧ d ≤ 20), slew := -d })) ∧
    (role = true → j.role = 2 → j.detached = false → still → hears 0#5 → hears node →
      (j.epochs = [] → ∃ t, exec (.openEpoch ⟨me, n⟩ start) s = .next t ∧ t.jrnl.epochs = [⟨n, .opened, start, 0⟩] ∧ t.jrnl.first = n + 1#48 ∧
        t.jrnl.src = 2#2 ∧ t.volley.attached = true ∧ t.mem = s.mem ∧ ∀ c : CoreId, t.core c = { s.core c with epoch := n }) ∧
      (j.epochs = [e] → e.st = .reported → e.n ≤ n → j.kept = [] →
        exec (.closed ⟨me, n⟩) s = .next (heard 0#5 { j with epochs := [], closed := e.n }) ∧
        exec (.heartbeat ⟨node, me⟩ prov n) s = .next (heard node { j with epochs := [], closed := e.n })) ∧
      ((∃ x, j.opened = some x) → (∀ x ∈ j.epochs, x.st ≠ .sealing ∧ x.st ≠ .draining) → ∃ t, exec .detachTimeout s = .next t ∧
        t.jrnl.detached = true ∧ t.jrnl.src = 0#2 ∧ t.jrnl.epochs = j.epochs ∧ j.epochs.head?.map (·.n) = some t.jrnl.prov ∧
        t.volley.attached = false ∧ logs t (5, 0, 2) ∧ t.mem = s.mem ∧ t.cores = s.cores)) ∧
    (j.role = 1 → role = false → node ≠ 0#5 → hears node →
      (j.epochs = [] → still → (Tab.getD j.durableOf node.toNat 0#48).toNat < n.toNat →
        exec (.durable ⟨node, me⟩ n) s = .next (heard node { j with durableOf := Tab.put j.durableOf node.toNat n }) ∧
        (present = true → exec (.heartbeat ⟨node, me⟩ n cl) s = .next (heard node { j with durableOf := Tab.put j.durableOf node.toNat n }))) ∧
      (j.epochs = [] → still → present = true → exec (.absenceTimeout node) s = .next { s with
        volley := { s.volley with present := s.volley.present &&& ~~~(BitVec.ofNat 17 (2 ^ node.toNat)) } }) ∧
      (j.epochs = [e] → e.st = .opened → present = false → exec (.rejoin ⟨node, me⟩ prov h) s = .next (heard node { j with
        rejoins := j.rejoins.filter (fun x => !decide (x.1 = node)) ++ [(node, prov, h)]
        absentFrom := if Tab.has j.absentFrom node.toNat then j.absentFrom else Tab.put j.absentFrom node.toNat e.n }))) ∧
    (let lo := if j.prov.toNat < a.toNat then a else j.prov
     let top := j.first - 1#48
     role = true → j.detached = true → still → hears 0#5 → j.queue = [] → j.kept = [] → ∃ t, exec (.admission ⟨me, a⟩ n start) s = .next t ∧
      t.jrnl.epochs = [⟨n, .opened, start, 0⟩] ∧ t.jrnl.first = n + 1#48 ∧ t.jrnl.restamp = n ∧ t.jrnl.detached = false ∧ t.jrnl.src = 2#2 ∧
      t.jrnl.voided = j.voided ++ (if lo.toNat ≤ top.toNat then [(lo, top, n)] else []) ∧
      t.jrnl.closed = (if j.closed.toNat < a.toNat then a - 1#48 else j.closed) ∧ t.volley.attached = true ∧ logs t (5, 0, 3) ∧
      t.mem = s.mem ∧ ∀ c : CoreId, t.core c = { s.core c with epoch := n }) ∧
    (role = true → j.role ≠ 1 → q = s.volley.route 0 → (s.vport q).open → exec .heartbeatDue s =
      .next (s.sends q (s.volley.flit 0#5 2 3 0 [TW.raw (j.durable.setWidth 64), TW.raw (j.closed.setWidth 64)]))) ∧
    (role = false → j.role = 1 → q = s.volley.route node.toNat → (s.vport q).open → s.volley.everyWorker = [node.toNat] → exec .heartbeatDue s =
      .next (s.sends q (s.volley.flit node 2 3 0 [TW.raw (j.durable.setWidth 64), TW.raw (j.closed.setWidth 64)]))) ∧
    (role = true → j.role ≠ 1 → j.detached = true → (s.vport (s.volley.route 0)).open → exec (.heartbeat ⟨0#5, me⟩ n cl) s =
      .next ((heard 0#5 j).sends (s.volley.route 0) (s.volley.flit 0#5 2 4 0 [TW.raw (j.prov.setWidth 64), TW.raw ((j.first - 1#48).setWidth 64)]))) ∧
    ((s.vport q).open → role = false → ∃ t, exec .syncPeriod s = .next t ∧
      (q, s.volley.flit (s.vport q).peer 1 0 0 [TW.raw j.time]) ∈ t.volley.sent ∧ t.jrnl = j ∧ t.mem = s.mem ∧ t.cores = s.cores) ∧
    (role = true → (s.vport 0).open → exec (.sync t1) s =
      .next ((told 0 { j with sync := some (t1, j.time, j.time) }).sends 0 (s.volley.flit 0#5 1 1 0 []))) ∧
    ((s.vport q).open → exec (.dreq q) s = .next ((told q j).sends q (s.volley.flit (s.vport q).peer 1 2 0 [TW.raw j.time]))) ∧
    (j.sync = some (t1, t2, t3) → (s.vport 0).receives = true →
      (j.stepped = true ∨ j.frozen = true → exec (.dresp t4) s =
        .next (told 0 { j with sync := none, offset := BitVec.ofInt 32 off, lock := lock, slew := -off, stepped := true })) ∧
      (j.stepped = false → j.frozen = false → exec (.dresp t4) s =
        .next (told 0 { j with
          sync := none, time := j.time - BitVec.ofInt 64 off, offset := BitVec.ofInt 32 off, lock := lock, stepped := true, slew := 0 })))

/-! ### Volley (16) -/

/-- Volley rows (R376–R388): a flit's 64 bytes pass its CRC, acknowledgements free the replay buffer, a flit that is bad or out of sequence is
answered with NAK and, as a NAK does, starts a replay, whose 8th NAK or time limit starts an announced retrain, messages for another node are
forwarded, HOLD and RESUME are forwarded and freeze or release timers, HELLO identifies the peer, training brings
a port up or leaves it Down, a lost message ends its descriptor or command, BULK data lands in an open window or is refused, RAISE fires its
entry once its writes have landed, and requests of another node are answered, those of a swap's handover after it. A descriptor goes on as its
port takes its flits. A port that is not Up or in Replay, or that has a MISWIRE, takes no message. -/
def Obligations.VolleyRows : Prop :=
  ∀ (s : State) (q : VPortId) (l seqno id irt count k : Nat) (node src : BitVec 5) (port : BitVec 2) (f g : Flit)
    (early late : List (Nat × Flit)) (m : VMsg) (d : VDesc) (code result : Byte) (ws : List TW) (line1 : Line) (data : TW) (seq : Option Nat) (dst : BitVec 5) (w : Fin 16) (i : Fin 64)
    (e : Epoch) (cmd rsp : Vector Word 8),
    let v := s.volley
    let p := s.vport q
    let x := v.route src.toNat
    let answers (kind code : Nat) : Flit := v.flit src kind 1 id (if kind = 5 then [TW.raw (BitVec.ofNat 64 code)] else [])
    let vol (v : Volley) : State := { s with volley := v }
    let hears (x : BitVec 5) : Prop := (s.vport (v.route x.toNat)).receives = true
    let settled : Prop := ∀ o ∈ v.descs, o.done = true
    let me := v.node
    let heard := s.arrived x
    let va := heard.volley
    let put (p : VPort) : State := vol { v with ports := setUnit v.ports q p }
    let becomes (t : State) (p' : VPort) : Prop := (t.vport q) = p' ∧ (∀ o : VPortId, o ≠ q → (t.vport o) = s.vport o) ∧
      t.fisin.rdy1 = withBit s.fisin.rdy1 (16 + q.val) (decide (p'.st = 2 ∧ p'.miswire = 0#3)) ∧ t.mem = s.mem ∧ t.cores = s.cores ∧ t.jrnl = s.jrnl
    let tells (kind l : Nat) : List (VPortId × Flit) := ((List.finRange 4).filter (fun o => decide (o ≠ q ∧ (s.vport o).st = 2))).map
      (fun o => (o, v.flit 0#5 0 kind 0 [TW.raw (BitVec.ofNat 64 l)]))
    let resent := p.replay.map (fun e => (q, e.2))
    let crc := if seq = none then saturate16 p.crccnt else p.crccnt
    let nak := (q, v.nakFlit q)
    let logs (t : State) (e : Nat × Nat × Nat) : Prop := s.fisin.swapOp = none → t.lastLog = some e
    let rt : Byte := if p.retrains = 0xFF#8 then p.retrains else p.retrains + 1#8
    let up : VPort := { p with st := 2, hold := false, naks := 0 }
    s.Steady →
    (∀ (h : Word) (b : List Byte), (wireBytes h b).length = 64 ∧ crcPasses (wireBytes h b) = true) ∧
    (let z := v.route dst.toNat
     dst ≠ me → (s.vport z).open → hears src → ∀ a ∈ [(Instr.raise ⟨src, dst⟩ irt count id,
        (⟨3, 0, src, dst, id, [TW.raw (BitVec.ofNat 64 irt), TW.raw (BitVec.ofNat 64 count)]⟩ : Flit)), (.acki ⟨src, dst, id⟩, ⟨3, 1, src, dst, id, []⟩),
        (.bulkWrite ⟨src, dst⟩ w.val l ws id, ⟨5, 0, src, dst, id, writeHead w.val ws.length l :: ws⟩)],
      exec a.1 s = .next (heard.sends z a.2)) ∧
    ((s.vport x).receives = false → ∀ a ∈ [Instr.raise ⟨src, dst⟩ irt count id, .acki ⟨src, dst, id⟩, .bulkWrite ⟨src, dst⟩ w.val l ws id,
      .bulkAcknowledgement ⟨src, dst, id⟩ code, .mailboxRequest ⟨src, dst⟩ cmd], exec a s = .next s) ∧
    (p.replay = early ++ (seqno, f) :: late → (∀ e ∈ early, e.1 ≠ seqno) →
      (settled → p.waitq = [] ∨ p.st ≠ 2 → exec (.ack q seqno) s = .next (put { p with replay := late })) ∧
      (settled → p.st = 2 → p.waitq = [g] → 1 ≤ g.cls → g.cls ≤ 5 → late.length < 128 → ({ p with replay := late } : VPort).credit g.cls = true → exec (.ack q seqno) s =
        .next ((put { p with replay := late, waitq := [] }).sends q g)) ∧
      (let to_ : BitVec 5 := d.w1.extractLsb' 24 5
       let place : Pa := BitVec.ofNat 52 (d.w0.toNat % 2 ^ 52 / 8 * 8 + 8 * d.sent)
       v.descs = [d] → d.done = false → d.words = d.sent + 1 → d.w1.getLsbD 47 = false → v.route to_.toNat = q → p.st = 2 → p.miswire = 0#3 →
        p.waitq = [g] → g.cls = 5 → late.length < 126 → HubReads s place data → data.tag ≠ 0x83#8 → reservedTag data.tag = false →
        ∃ t, exec (.ack q seqno) s = .next t ∧ t.mem = s.mem ∧ t.volley.sent = v.sent ++ [(q, g), (q, v.flit to_ 5 0 v.nextMsg
          [TW.raw (placed (fieldN d.w1 32 4) 0 ||| placed 1 4 ||| placed (fieldN d.w2 3 37 + d.sent) 8), data])])) ∧
    exec (.flitCrcError ⟨q, some p.rxseq⟩) s = .next s ∧
    (p.st = 2 → (seq ≠ some p.rxseq → ∃ t, exec (.flitCrcError ⟨q, seq⟩) s = .next t ∧ becomes t { p with st := 3, hold := true, naks := 1, crccnt := crc } ∧
        t.volley.msgs = (v.freeze (v.link q)).msgs ∧ t.volley.sent = v.sent ++ [nak]) ∧
      ∃ t, exec (.nakReceived q) s = .next t ∧ becomes t { p with st := 3, hold := true, naks := 1 } ∧ t.volley.sent = v.sent ++ resent) ∧
    (p.st = 3 →
      (seq ≠ some p.rxseq → p.naks < 7 → exec (.flitCrcError ⟨q, seq⟩) s =
        .next (vol { v with ports := setUnit v.ports q { p with naks := p.naks + 1, crccnt := crc }, sent := v.sent ++ [nak] })) ∧
      (seq ≠ some p.rxseq → 7 ≤ p.naks → ∃ t, exec (.flitCrcError ⟨q, seq⟩) s = .next t ∧ t.volley.sent = v.sent ++ [nak] ++ tells 1 (v.link q) ∧
        becomes t { p with st := 4, hold := true, naks := p.naks + 1, crccnt := crc, retrains := rt }) ∧
      (∃ t, exec (.volleyReplayDone q) s = .next t ∧ (settled → t.volley.msgs = (v.thaw (v.link q)).msgs) ∧
        (settled → p.waitq = [] → becomes t up ∧ t.volley.sent = v.sent)) ∧
      ∃ t, exec (.volleyReplayTimeout q) s = .next t ∧ becomes t { p with st := 4, hold := true, retrains := rt } ∧
        t.volley.sent = v.sent ++ tells 1 (v.link q)) ∧
    (p.st = 4 → exec (.holdRepeatDue q) s = .next (vol { v with sent := v.sent ++ tells 1 (v.link q) }) ∧
      (settled → p.waitq = [] → ∃ t, exec (.volleyRetrainDone q) s = .next t ∧ becomes t up ∧ t.volley.sent = v.sent ++ tells 2 (v.link q) ++ resent) ∧
      ∃ t, exec (.volleyRetryBudgetExpiry q) s = .next t ∧ becomes t { p with st := 0, hold := false, naks := 0, replay := [], waitq := [] } ∧
        t.volley.sent = v.sent ++ tells 2 (v.link q) ∧ logs t (7, q.val, 1)) ∧
    exec (.hold q l) s = .next (vol (({ v with sent := v.sent ++ tells 1 l } : Volley).freeze l)) ∧
    exec (.resume q l) s = .next (vol (({ v with sent := v.sent ++ tells 2 l } : Volley).thaw l)) ∧
    ((∀ o : VPortId, v.link o = l → (s.vport o).hold = false) → exec (.holdFreezeExpiry l) s = .next (vol (v.thaw l))) ∧
    (v.link q = l → p.hold = true → exec (.holdFreezeExpiry l) s = .next s) ∧
    (s.fisin.role = false →
      (∃ t, exec (.hello q node 0#2 false) s = .next t ∧ becomes t { p with peer := BitVec.ofNat 5 (1 + 4 * q.val), up := false, miswire := 0#3 } ∧
        t.volley.node = v.node) ∧
      ∃ t, exec (.hello q node port true) s = .next t ∧ (t.vport q).miswire = 1#3 ∧ logs t (7, q.val, 2) ∧ t.ready1 (16 + q.val) = false) ∧
    (s.fisin.role = true →
      (q = 0 → ∃ t, exec (.hello q node port true) s = .next t ∧ becomes t { p with peer := 0#5, up := true, miswire := 0#3 } ∧ t.volley.node = node) ∧
      (q ≠ 0 → v.node = 0#5 ∨ v.node.toNat % 4 = 1 → ∃ t, exec (.hello q node 0#2 false) s = .next t ∧ t.volley.node = v.node ∧
        becomes t { p with peer := v.node + BitVec.ofNat 5 q.val, up := false, miswire := 0#3 })) ∧
    (p.st = 0 → p.en = true → s.ready0 49 = true → exec (.volleyTrainingAttempt q) s =
      .next (put { p with st := 1, txseq := 0, rxseq := 0, replay := [], waitq := [] })) ∧
    (p.st = 1 → exec (.volleyTrainingDone q false) s = .next (put { p with st := 0 }) ∧
      (s.fisin.role = false → v.node = 0#5 → p.peer = BitVec.ofNat 5 (1 + 4 * q.val) → p.miswire = 0#3 → v.present.getLsbD p.peer.toNat = true →
        s.jrnl.opened = some e → p.waitq = [] → p.replay = [] → ∃ t, exec (.volleyTrainingDone q true) s = .next t ∧ (t.vport q).st = 2 ∧ t.ready1 (16 + q.val) = true ∧
          t.volley.sent = v.sent ++ [(q, v.flit p.peer 2 0 0 [TW.raw (e.n.setWidth 64), TW.raw e.start]),
            (q, v.flit p.peer 2 2 0 [TW.raw (s.jrnl.closed.setWidth 64)])] ∧ t.jrnl = s.jrnl) ∧
      (s.fisin.role = true → q = 0 → s.jrnl.detached = true → p.miswire = 0#3 → p.waitq = [] → p.replay = [] → ∃ t, exec (.volleyTrainingDone q true) s = .next t ∧
        (t.vport q).st = 2 ∧ t.ready1 16 = true ∧ t.jrnl = s.jrnl ∧ t.volley.sent = v.sent ++
          [(q, v.flit 0#5 2 4 0 [TW.raw (s.jrnl.prov.setWidth 64), TW.raw ((s.jrnl.first - 1#48).setWidth 64)])])) ∧
    (v.msgs.find? (fun o => decide (o.msgid = id)) = some m →
      let left := v.msgs.filter (fun o => !decide (o.msgid = id))
      (m.frozen ≠ [] → exec (.messageTimeout id) s = .next s) ∧
      (m.frozen = [] → m.desc = none → m.chan = some i → ∃ t, exec (.messageTimeout id) s = .next t ∧ t.volley = { v with msgs := left } ∧
        (t.mbox i) = (s.mbox i).replied (Resp.of .timeout)) ∧
      (m.frozen = [] → m.desc = none → m.chan = none → ∃ t, exec (.messageTimeout id) s = .next t ∧ t.volley = { v with msgs := left } ∧
        t.fisin.ext.result = Status.timeout.code ∧ t.fisin.ext.done = true ∧ t.fisin.ext.active = false) ∧
      (m.frozen = [] → m.desc = some d.off → ∀ first : VDesc, v.descs = [first, d] → first.done = false → first.allSent = true → first.msgids ≠ [] →
        first.off ≠ d.off → d.done = false →
        exec (.messageTimeout id) s = .next (vol { v.cancel d with msgs := left, descs := [first, { d with done := true, code := 4 }] }))) ∧
    (let ring := 2 ^ v.sqsize.toNat / 32
     let next := (v.sqhead.toNat + v.descs.length) % ring
     let pa := v.descPa (32 * next)
     let word (j : Nat) : Word := (line1.get (wordIx (pa + BitVec.ofNat 52 (8 * j)))).val
     let from_ : Pa := BitVec.ofNat 52 ((word 0).toNat % 2 ^ 52 / 8 * 8)
     let dst : BitVec 5 := (word 1).extractLsb' 24 5
     let y := v.route dst.toNat
     let entry (n : Nat) (ids : List (Nat × Nat)) : VDesc := ⟨32 * next, word 0, word 1, word 2, 0, n, false, 0, false, ids⟩
     (next = v.sqtail.toNat % ring → exec .bulkDescriptorSend s = .next s) ∧
     (v.descs.length < 8 → next ≠ v.sqtail.toNat % ring → s.hubReach pa = true → HubLine s (lineOf pa) line1 →
      descOk (word 0) (word 1) (word 2) (word 3) = true → dst.toNat ≤ 16 → dst ≠ v.node → (s.vport y).open → fieldN (word 1) 0 24 = 1 →
      (word 1).getLsbD 47 = false → (∀ o ∈ v.descs, o.off ≠ 32 * next ∧ o.done = false) → HubReads s from_ data →
      data.tag ≠ 0x83#8 → reservedTag data.tag = false → ∃ t, exec .bulkDescriptorSend s = .next t ∧
        t.volley.sent = v.sent ++ [(y, v.flit dst 5 0 v.nextMsg [TW.raw (placed (fieldN (word 1) 32 4) 0 ||| placed 1 4 |||
          placed (fieldN (word 2) 3 37) 8), data])] ∧ t.volley.descs = v.descs ++ [entry 1 [(v.nextMsg, 1)]] ∧
        t.volley.nextMsg = (v.nextMsg + 1) % 65536 ∧ t.mem = s.mem ∧ t.llc = s.llc ∧ t.cores = s.cores) ∧
     (v.descs.length < 8 → next ≠ v.sqtail.toNat % ring → s.hubReach pa = true → HubLine s (lineOf pa) line1 →
      descOk (word 0) (word 1) (word 2) (word 3) = true → dst.toNat ≤ 16 → dst ≠ v.node → (s.vport y).open → fieldN (word 1) 0 24 = 0 →
      (word 1).getLsbD 47 = true → (∀ o ∈ v.descs, o.off ≠ 32 * next ∧ o.done = false) → ∃ t, exec .bulkDescriptorSend s = .next t ∧
        t.volley.sent = v.sent ++ [(y, v.flit dst 3 0 v.nextMsg [TW.raw (BitVec.ofNat 64 (fieldN (word 1) 36 11)),
          TW.raw (BitVec.ofNat 64 (Tab.getD v.sentTo dst.toNat 0))])] ∧
        t.volley.descs = v.descs ++ [{ entry 0 [(v.nextMsg, 0)] with raised := true }] ∧ t.mem = s.mem ∧ t.cores = s.cores)) ∧
    (v.descs = [d] → d.done = false → hears src → ∀ a ∈ [Instr.bulkAcknowledgement ⟨src, me, id⟩ 0#8, .acki ⟨src, me, id⟩],
      let left := v.msgs.filter (fun o => !decide (o.msgid = id))
      (∀ y : Nat × Nat, y.1 ≠ id → d.msgids = [(id, k), y] →
        exec a s = .next (vol { va with msgs := left, descs := [{ d with acked := d.acked + k, msgids := [y] }] })) ∧
      (let status : Word := placed 1 0 ||| placed d.code 1 ||| placed (d.acked + k) 40
       let place := v.descPa d.off + 24#52
       d.msgids = [(id, k)] → d.allSent = true → HubReads s place data → ∃ t, exec a s = .next t ∧ t.volley.descs = [] ∧ t.mem = s.mem ∧ t.homeHolds place (TW.raw status) ∧
          t.volley.sqhead = BitVec.ofNat 15 ((d.off / 32 + 1) % (2 ^ v.sqsize.toNat / 32)) ∧
          (d.w2.getLsbD 51 = true → Tab.wf s.pcie.irt s.pcie.irtRest = true → (t.pcie.entry (fieldN d.w2 40 11)).getLsbD 3 = true))) ∧
    (let win := unit v.wins w
     let place (j : Nat) : Pa := BitVec.ofNat 52 (win.base.toNat + 8 * l + 8 * j)
     (s.vport x).open →
      (win.en = false → exec (.bulkWrite ⟨src, me⟩ w.val l ws id) s =
        .next ((vol { va with wins := setUnit v.wins w { win with refused := win.refused + 1#32 } }).sends x (answers 5 1))) ∧
      (win.en = true → win.srcmask.getLsbD src.toNat = true → 8 * l + 8 * ws.length ≤ win.frames * 4096 →
        win.base.toNat + 8 * l + 8 * ws.length ≤ 2 ^ 52 → win.base.toNat % 8 = 0 → (∀ j, j < ws.length → ∃ old, HubReads s (place j) old) →
        (∀ y ∈ ws, y.tag ≠ 0x83#8 ∧ reservedTag y.tag = false) → v.raises = [] →
        ∃ t, exec (.bulkWrite ⟨src, me⟩ w.val l ws id) s = .next t ∧ t.mem = s.mem ∧ (∀ j, j < ws.length → t.homeHolds (place j) (ws.getD j TW.zero)) ∧
          t.volley = ((vol { va with landedFrom := Tab.put v.landedFrom src.toNat (Tab.getD v.landedFrom src.toNat 0 + 1) }).sends x
            (answers 5 0)).volley)) ∧
    (v.raises = [] → hears src →
      (Tab.getD v.landedFrom src.toNat 0 < count → exec (.raise ⟨src, me⟩ irt count id) s = .next (vol { va with raises := [(src, irt % 2048, count, id)] })) ∧
      (count ≤ Tab.getD v.landedFrom src.toNat 0 → (s.vport x).open → (s.pcie.entry (irt % 2048)).getLsbD 2 = false →
        exec (.raise ⟨src, me⟩ irt count id) s = .next ((heard.pended (irt % 2048)).sends x (answers 3 0)))) ∧
    (let w0 := cmd.get 0
     let reply (r : Resp) : State := heard.sends x (v.flit src 4 1 (fieldN w0 24 8)
       (TW.raw (r.status.code.setWidth 64) :: (r.words w0).toList.map TW.raw))
     (s.handover = true → hears src → exec (.mailboxRequest ⟨src, me⟩ cmd) s =
      .next { heard with fisin := { s.fisin with reqs := s.fisin.reqs ++ [(src, cmd)] } }) ∧
     (s.handover = false → s.ready0 48 = true → (s.vport x).open →
      (badWord0 w0 = true → exec (.mailboxRequest ⟨src, me⟩ cmd) s = .next (reply (Resp.of .badCommand))) ∧
      (badWord0 w0 = false → s.fisin.role = decide (src ≠ 0#5) → fieldN w0 0 16 ∈ knownCodes →
        exec (.mailboxRequest ⟨src, me⟩ cmd) s = .next (reply (Resp.of .denied))) ∧
      (badWord0 w0 = false → s.fisin.role ≠ decide (src ≠ 0#5) → fieldN w0 0 16 = 1 → exec (.mailboxRequest ⟨src, me⟩ cmd) s =
        .next (reply (Resp.good [s.fisin.word0, s.fisin.rdy1, s.fisin.fail0, s.fisin.fail1, s.dev.word,
          placed s.fisin.fwver 0 ||| bitAt s.fisin.fwslot 32]))))) ∧
    (s.remoteChan code node = none → s.remoteExt code node = true → hears node → ∃ t, exec (.mailboxResponse ⟨code, me⟩ node result rsp) s = .next t ∧
      t.fisin = { s.fisin with ext := { s.fisin.ext with rsp := rsp, result := result, done := true, active := false } } ∧ t.pcie = s.pcie) ∧
    (s.remoteChan code node = some i → hears node →
      (result ≠ 6#8 → ∃ t, exec (.mailboxResponse ⟨code, me⟩ node result rsp) s = .next t ∧
        (t.mbox i) = { s.mbox i with rsp := rsp, result := result, done := true, active := false } ∧
        ((s.mbox i).irqen = true → t.pcie = (s.pended 0x7DB).pcie) ∧ t.mem = s.mem ∧ t.cores = s.cores) ∧
      ∃ t, exec (.mailboxResponse ⟨code, me⟩ node 6#8 rsp) s = .next t ∧ (t.mbox i) = (s.mbox i).goesOn ∧ t.pcie = s.pcie)

/-! ### PCIe (15) -/

/-- PCIe rows (R360, R363, R364, R366–R368, R370–R373, R400): inbound requests of a bypassed requester read and write memory, a bad IOVA is
reported, message interrupts pend their entry, a pending entry is delivered to its core, completions reach the waiting core or fail it with a
machine check, links come and go, errors are latched, and an invalidation empties its caches. -/
def Obligations.PcieRows : Prop :=
  ∀ (s : State) (p : PortId) (c : CoreId) (rid : BitVec 16) (addr data status w : Word) (bs : List Byte) (ep : Bool) (len : Nat) (i : Fin 2048)
    (word : BitVec 32) (rate : BitVec 3) (width : BitVec 5) (x : IoCtx) (q : PcieWait) (line : Line) (old : TW),
    let io := s.pcie
    let r := io.ports.get p
    let k := s.core c
    let pa := toPa addr
    let at_ (r : RootPort) : State := { s with pcie := { io with ports := setUnit io.ports p r } }
    let done (u : State) (st : Nat) (bs : List Byte) : State := { u with pcie := { u.pcie with completed := u.pcie.completed ++ [(rid, st, bs)] } }
    let bypassed : Prop := io.ctxs.find? (fun o => decide (o.rid = rid)) = some x ∧ x.mode = 2 ∧ addr.toNat < 2 ^ 52 ∧ s.memReady pa = true ∧
      s.dieLost (homeDie s (lineOf pa)) = false
    let accepts (n : Nat) : Prop := n < 0x7C0 ∧ ((io.entry n).getLsbD 2 = true → (io.entry n).extractLsb' 32 16 = rid)
    s.Steady →
    (r.l0 = false → exec (.inboundMemoryRead p rid addr len) s = .next s ∧ exec (.inboundMemoryWrite p rid addr bs ep) s = .next s ∧
      exec (.msiWrite p rid addr word) s = .next s) ∧
    (r.l0 = true →
      (addr.toNat / 4096 = 0xFEF00 → exec (.inboundMemoryRead p rid addr len) s = .next (done s 1 [])) ∧
      (addr.toNat / 4096 ≠ 0xFEF00 → bypassed →
        (HubBytes s pa bs → ∃ lru, exec (.inboundMemoryRead p rid addr bs.length) s = .next (done { s with llclru := lru } 0 bs)) ∧
        (HubLine s (lineOf pa) line → (∃ j, (line.get j).tag = 0x82#8) → ∃ lru, exec (.inboundMemoryRead p rid addr 1) s =
          .next (done { s with llclru := lru } 2 [byteOf (line.get (wordIx pa)).val (pa.toNat % 8)]))) ∧
      (2 ^ 52 ≤ addr.toNat → (io.flthead.toNat + 1) % (2 ^ io.fltsize.toNat / 16) = io.flttail.toNat % (2 ^ io.fltsize.toNat / 16) →
        exec (.inboundMemoryRead p rid addr len) s = .next (done { s with pcie := { io with fltovf := true } } 1 []) ∧
        exec (.inboundMemoryWrite p rid addr bs ep) s = .next { s with pcie := { io with fltovf := true } }) ∧
      (addr.toNat / 2 ^ 20 ≠ 0xFEE → addr.toNat / 4096 ≠ 0xFEF00 → bypassed → bs.length = 8 → pa.toNat % 8 = 0 →
        HubReads s pa old → ∃ t, exec (.inboundMemoryWrite p rid addr bs false) s = .next t ∧
          t.homeHolds pa (TW.raw (BitVec.ofNat 64 (ofBytes bs))) ∧ t.mem = s.mem ∧ t.pcie = s.pcie ∧ t.fisin = s.fisin) ∧
      (bs.length = 4 → accepts (ofBytes bs % 2048) →
        exec (.inboundMemoryWrite p rid 0xFEE00000#64 bs ep) s = .next (s.pended (ofBytes bs % 2048))) ∧
      (accepts (word.toNat % 2048) → exec (.msiWrite p rid 0xFEE00000#64 word) s = .next (s.pended (word.toNat % 2048))) ∧
      ((∀ o : CoreId, (s.core o).pcie = []) → exec (.pcieLinkDown p) s = .next { at_ { r with l0 := false, rate := 0#3, width := 0#5 } with
        fisin := { s.fisin with rdy1 := withBit s.fisin.rdy1 p.val false } })) ∧
    (w = io.entry i.val →
      (w.getLsbD 3 = false → exec (.irtDelivery i) s = .next s) ∧
      (w.getLsbD 3 = true → w.getLsbD 0 = true → w.getLsbD 1 = false → irtErr w = false → s.fisin.logical (fieldN w 20 6) = some c → k.takes = true →
        let level : BitVec 4 := BitVec.ofNat 4 (fieldN w 8 4)
        let old := Tab.getD k.ipend (fieldN w 12 8) level
        exec (.irtDelivery i) s = .next { s.setCore c { k with
          ipend := Tab.put k.ipend (fieldN w 12 8) (if old.toNat < level.toNat then old else level) } with
            pcie := { io with irt := Tab.setD io.irt i.val (w &&& ~~~0x8#64) io.irtRest } })) ∧
    (k.pcie = [q] → q.done = none →
      exec (.outboundCompletion c .sc data) s = .next (s.setCore c { k with pcie := [{ q with done := some data }] }) ∧
      (k.async = [] → ∀ a ∈ [(Instr.outboundCompletion c .ur data, 1), (.outboundCompletion c .ca data, 2), (.completionTimeout c, 3),
          (.outboundCompletion c .ep data, 4)], ∃ t, exec a.1 s = .next t ∧ (s.fisin.swapOp = none → t.lastLog = some (1, (pairOf c).val, 5)) ∧ t.mem = s.mem ∧
        t.core c = { k with pcie := [], async := [⟨0x20#8, placed 7 0 ||| placed a.2 4 ||| placed (s.portOf q.pa).val 8, q.pa.setWidth 64⟩] })) ∧
    (s.ready0 52 = true → r.present = true →
      exec (.pcieLinkUp p rate width) s = .next { at_ { r with l0 := true, rate := rate, width := width } with
        fisin := { s.fisin with rdy1 := withBit s.fisin.rdy1 p.val true, fail1 := withBit s.fisin.fail1 p.val false } } ∧
      (r.l0 = false → exec (.rootPortL0Timeout p) s = .next { s with fisin := { s.fisin with fail1 := withBit s.fisin.fail1 p.val true } })) ∧
    (∀ (journalWrite : Bool), ∃ t, exec (.aerError p ⟨status, rid⟩ journalWrite) s = .next t ∧ (t.pcie.ports.get p) = { r with aer := r.aer ||| status } ∧
      (Tab.wf io.irt io.irtRest = true → (t.pcie.entry (0x7E0 + p.val)).getLsbD 3 = true) ∧ t.mem = s.mem ∧ t.cores = s.cores ∧
      (journalWrite = false → t.jrnl = s.jrnl ∧ (s.fisin.swapOp = none → t.lastLog = some (6, p.val, 2))) ∧
      (journalWrite = true → t.jrnl = { s.jrnl with err := true } ∧
        (s.jrnl.err = false → (Tab.wf io.irt io.irtRest = true → (t.pcie.entry 0x7D9).getLsbD 3 = true) ∧ (s.fisin.swapOp = none → t.lastLog = some (5, 0, 1))))) ∧
    (exec .iommuInvalidationDone s = .next { s with pcie :=
      if io.invAll then { io with invBusy := false, ctxs := [], iotlb := [] }
      else { io with invBusy := false, ctxs := io.ctxs.filter (fun o => !decide (o.rid = io.invRid)),
                     iotlb := io.iotlb.filter (fun o => !decide (o.rid = io.invRid)) } })

/-! ### Reset, Staging, Dormant, clocks, heat and ageing (17, 18, 19) -/

/-- Reset and standby rows (R396, R412, R421, R422, R433, R434): a reset loses every array and keeps the standby domain, flash, fuses and
powered hours; a rising RESET_N samples the straps, gives WAKEINFO the retention register and takes the slots that the boot record names (slot A
of each kind where both copies of the record are bad), and a boot ROM that fails its self-check halts the device; WAKE_N, PWRGOOD and VSTBY act on the standby
domain; and Dormant entry writes the token and drops PWR_REQ, unless a wake came first. -/
def Obligations.ResetRows : Prop :=
  ∀ (s : State) (role bootsrc pairsafe fell record : Bool) (token : Word),
    let b := s.standby
    let standby (b : Standby) : State := { s with standby := b }
    let lost (t : State) : Prop := t.cores = State.reset.cores ∧ t.pairs = State.reset.pairs ∧ t.mem = State.reset.mem ∧ t.llc = [] ∧ t.dir = [] ∧
      t.clusters = State.reset.clusters ∧ t.jrnl = State.reset.jrnl ∧ t.pcie = State.reset.pcie ∧ t.volley = State.reset.volley ∧
      t.fisin.rdy0 = 0#64 ∧ t.fisin.flash = s.fisin.flash ∧ t.fisin.svn = s.fisin.svn ∧ t.power.hours = s.power.hours ∧ t.pending = s.pending
    (∀ selfTest : Bool, b.pwrgood = true → ∃ t, exec (.resetNRise ⟨role, bootsrc, pairsafe⟩ record selfTest) s = .next t ∧ lost t ∧
      t.dev = { Reset.dev with mode := if selfTest then 1 else 5 } ∧ t.standby.faultN = !selfTest ∧ t.standby.selfRefresh = !selfTest ∧
      t.fisin.fwslot = (record && s.fisin.fwnamed) ∧ t.fisin.bootslot = (record && s.fisin.bootnamed) ∧ t.fisin.recordOk = record ∧
      t.fisin.role = role ∧ t.fisin.bootsrc = bootsrc ∧ t.fisin.pairsafe = pairsafe ∧ t.standby.resetN = true ∧ t.standby.valid = false ∧
      t.standby.token = b.token ∧ t.power.wake0 = b.token ∧ t.power.wakeValid = b.valid ∧ (b.valid = true → t.power.wakeReason = b.reason)) ∧
    (∀ selfTest : Bool, b.pwrgood = false → exec (.resetNRise ⟨role, bootsrc, pairsafe⟩ record selfTest) s = .next s) ∧
    (∃ t, exec (.resetAssert fell) s = .next t ∧ lost t ∧ t.standby.resetN = false ∧ t.standby.pwrgood = (b.pwrgood && !fell) ∧
      t.standby.thermtrip = (b.thermtrip && !fell) ∧ t.standby.token = b.token ∧ t.standby.valid = b.valid ∧ t.standby.faultN = false) ∧
    (s.dev.mode = 0 → b.armed = true →
      (b.vstby = true → exec .wakeNEdge s = .next (standby { b with reason := 1#3, pwrReq := true, armed := false })) ∧
      exec .pwrgoodRiseInDormant s = .next (standby { b with pwrgood := true, reason := 2#3, armed := false })) ∧
    (s.dev.mode = 0 → b.armed = false → exec .wakeNEdge s = .next s ∧ exec .pwrgoodRiseInDormant s = .next (standby { b with pwrgood := true })) ∧
    (s.dev.mode ≠ 0 → b.armed = true → exec .wakeNEdge s = .next (standby { b with wakePending := true })) ∧
    (b.vstby = false → exec .vstbyApplied s = .next (standby { b with
      vstby := true, token := 0#64, reason := 0#3, valid := false, armed := false, pwrReq := true })) ∧
    exec .vstbyRemoved s = .next (standby { b with
      vstby := false, token := 0#64, reason := 0#3, valid := false, armed := false, wakePending := false, pwrReq := false }) ∧
    (s.Steady → s.dev.mode = 2 → s.fisin.dormantOp = some token →
      (b.wakePending = false → ∃ t, exec .dormantEntryComplete s = .next t ∧ lost t ∧ t.dev.mode = 0 ∧ t.standby.token = token ∧
        t.standby.valid = true ∧ t.standby.armed = true ∧ t.standby.pwrReq = false) ∧
      (b.wakePending = true → ∃ t, exec .dormantEntryComplete s = .next t ∧ lost t ∧ t.dev.mode = 1 ∧ t.power.wake0 = token ∧
        t.power.wakeReason = 3#3 ∧ t.power.wakeValid = true ∧ t.standby.valid = false))

/-- Staging, power, heat and ageing rows (R174, R306, R307, R359, R393, R396–R398, R400, R401, R410, R416–R420, R424–R426, R428): Fisin, the hub
and boot firmware start in their turn from the slot in use, else from the other one, an image of each kind passing the checks of R395 (with BOOTSRC
Fisin's comes over the UART), and a configuration block that passes gives the parameters (that a standalone device then opens its first epoch is the model's choice, log entry 21), LOGICALMAP
names the cores that run, PFAIL reaches the cores that ask for it, a hot die asserts HOT_N and lowers its clocks, 115 °C and an error of Fisin
halt the device, and a frequency change with the plan that it applies, a reading and a plan are recorded. -/
def Obligations.PowerRows : Prop :=
  ∀ (s : State) (d : DieId) (clu : CluId) (temp : Byte) (cfg : Bool) (uart : List Byte) (dimms : Vector (Option Dimm) 12) (primary alternate : Bool)
    (slacks : Vector (BitVec 16) 64),
    let f := s.fisin
    let w := s.power
    let k := s.clock clu
    let fis (f : Fisin) : State := { s with fisin := f }
    let power (w : Power) : State := { s with power := w }
    let halts (i : Instr) : Prop := ∃ t, exec i s = .next t ∧ t.dev.mode = 5 ∧ t.standby.faultN = true ∧ t.standby.selfRefresh = true ∧
      t.mem = s.mem ∧ t.cores = s.cores
    s.Steady →
    (∀ i ∈ [Instr.fisinWatchdogExpiry, .fisinSramError], halts i) ∧
    (halts (.thermtrip d) ∧ ∃ t, exec (.thermtrip d) s = .next t ∧ t.standby.thermtrip = true) ∧
    (∃ t, exec (.pfailEdge d) s = .next t ∧ t.power = { w with pfail := setUnit w.pfail d true } ∧ t.mem = s.mem ∧ ∀ c : CoreId,
      t.core c = if w.pfail.get d = false ∧ dieOf c = d ∧ (s.regs c).uctl.getLsbD 0 = true ∧ (s.core c).takes = true
        then { s.core c with ipend := Tab.put (s.core c).ipend (0x80 + fieldN (s.regs c).uctl 4 4) 0#4 } else s.core c) ∧
    exec (.pfailRelease d) s = .next (power { w with pfail := setUnit w.pfail d false }) ∧
    (let hot := { w with tj := setUnit w.tj d temp, hot := setUnit w.hot d true }
     (w.hot.get d = true → exec (.hotAssert d temp) s = .next (power hot)) ∧
     (w.hot.get 0 = false → w.hot.get 1 = false → ∃ t, exec (.hotAssert d temp) s = .next t ∧ t.power = hot ∧ t.pcie = (s.pended 0x7DD).pcie ∧
       (s.fisin.swapOp = none → t.lastLog = some (8, d.val * 6, 1)) ∧ t.mem = s.mem ∧ t.cores = s.cores)) ∧
    exec (.hotRelease d temp) s = .next (power { w with tj := setUnit w.tj d temp, hot := setUnit w.hot d false }) ∧
    (∃ t, exec (.thermcapStep d) s = .next t ∧ t.cores = s.cores ∧ t.mem = s.mem ∧ t.power.hot = w.hot ∧ ∀ c : CluId, 12 ≤ (s.clock c).thermcap →
      (s.clock c).thermcap ≤ 30 → (t.clock c).thermcap = if c.val / 6 ≠ d.val then (s.clock c).thermcap
        else if w.hot.get d then max 12 ((s.clock c).thermcap - 1) else min 30 ((s.clock c).thermcap + 1)) ∧
    (k.busy = true → k.waiting = none → k.planWait = false →
      (k.applying = none → exec (.frequencyChangeDone clu) s = .next (power { w with
        clocks := setUnit w.clocks clu { k with freq := k.target, mv := Config.fusedMv clu.val k.target + k.gb, busy := false } })) ∧
      ∀ gb cap : Nat, k.applying = some (gb, cap) → ∃ t, exec (.frequencyChangeDone clu) s = .next t ∧ t.clock clu = { k with
        freq := k.target, mv := Config.fusedMv clu.val k.target + gb, busy := false, gb := gb, cap := cap, applying := none,
        pend := k.pend && !(decide (k.pgb = gb) && decide (k.pcap = cap)) }) ∧
    (∃ t, exec (.ageingMonitorRead slacks) s = .next t ∧ t.power.clocks = w.clocks ∧ t.mem = s.mem ∧ t.cores = s.cores ∧ ∀ i : Fin 64,
      (t.power.mons.get i).slack = slacks.get i ∧ (t.power.mons.get i).floor = (w.mons.get i).floor ∧
      (t.power.mons.get i).reads = saturate16 (w.mons.get i).reads ∧
      (t.power.mons.get i).points = (w.mons.get i).points ++ [(w.hours, (slacks.get i).toNat)]) ∧
    (∃ t, exec .marginPlanCompute s = .next t ∧ t.power.mons = w.mons ∧ t.cores = s.cores ∧ t.mem = s.mem ∧ ∀ c : CluId,
      let plan := w.plan c.val
      (s.dev.mode = 1 → (t.clock c).gb = plan.1 ∧ (t.clock c).cap = plan.2 ∧ (t.clock c).pend = false) ∧
      (s.dev.mode ≠ 1 → f.param 8 1 = 0 → (t.clock c).gb = (s.clock c).gb ∧ (t.clock c).cap = (s.clock c).cap ∧
        ((s.clock c).gb < plan.1 ∨ plan.2 < (s.clock c).cap → (t.clock c).pend = true ∧ (t.clock c).pgb = max (s.clock c).gb plan.1 ∧
          (t.clock c).pcap = min (s.clock c).cap plan.2))) ∧
    (f.flashlog.length + (f.sram.length - f.flushed) ≤ 262144 → exec .errorLogFlush s =
      .next (fis { f with flashlog := f.flashlog ++ f.sram.drop f.flushed, flushed := f.sram.length })) ∧
    (s.dev.mode = 1 → s.ready0 48 = false →
      let start : Instr := .fisinFirmwareReady ⟨primary, alternate⟩ cfg uart dimms
      let rd (o n : Nat) : Nat := ofBytes ((List.range n).map (fun i => uart.getD (o + i) 0#8))
      let ofUart := imageCheck f rd 1 (min (slotOf 1 false).2 uart.length) primary
      let a := f.judge 1 f.fwslot primary
      let b := f.judge 1 (!f.fwslot) alternate
      let block (o n : Nat) : Nat := f.flashN ((slotOf 3 false).1 + o) n
      ((if f.bootsrc then ofUart ≠ 0 else a ≠ 0 ∧ b ≠ 0) → halts start) ∧
      ((if f.bootsrc then ofUart = 0 else a = 0 ∨ b = 0) → ∃ t, exec start s = .next t ∧
        t.ready0 48 = true ∧ (t.fisin.lmap.get 0) = 0x80#8 ∧ t.dev = s.dev ∧
        (f.bootsrc = true → t.fisin.fwslot = f.fwslot ∧ t.fisin.fwver = rd 8 4 ∧ t.fisin.fwsvn = rd 0xC 4) ∧
        (f.bootsrc = false → let slot := if a = 0 then f.fwslot else !f.fwslot
          t.fisin.fwslot = slot ∧ t.fisin.fwver = f.flashN ((slotOf 1 slot).1 + 8) 4 ∧ t.fisin.fwsvn = f.flashN ((slotOf 1 slot).1 + 0xC) 4) ∧
        (f.judge 3 false cfg ≠ 0 → t.fisin.params = f.params) ∧
        (f.judge 3 false cfg = 0 → Tab.risingFrom 0 f.params = true → ∀ i < block 0x10 4 / 8, ∀ id ∈ [1, 2, 3, 4, 5, 6, 7, 8],
          block (0x40 + 8 * i) 2 = id → (∀ j < block 0x10 4 / 8, i < j → block (0x40 + 8 * j) 2 ≠ id) →
          t.fisin.param id 0 = block (0x40 + 8 * i + 2) 6) ∧
        t.integ.agatemax = strengthParam (t.fisin.param 4 4) 4 ∧
        t.integ.defs = strengthParam (t.fisin.param 5 t.integ.agatemax) t.integ.agatemax ∧
        t.pcie.bifurc = BitVec.ofNat 8 (t.fisin.param 6 0) ∧ t.cores = s.cores ∧
        ∀ ch : ChanId, dimms.get ch = none → (t.chan ch).st = 0 ∧ t.fisin.fail0.getLsbD (36 + ch.val) = true)) ∧
    (s.dev.mode = 1 → s.ready0 24 = true → f.bootmap = false →
      let a := f.judge 2 f.bootslot primary
      let b := f.judge 2 (!f.bootslot) alternate
      (a ≠ 0 → b ≠ 0 → halts (.bootFirmwareRelease primary alternate)) ∧
      (a = 0 ∨ b = 0 →
        let slot := if a = 0 then f.bootslot else !f.bootslot
        (s.core 0).run = .stopped → ∃ t, exec (.bootFirmwareRelease primary alternate) s = .next t ∧ t.fisin.bootslot = slot ∧ t.fisin.bootmap = true ∧
          t.fisin.lmap = f.lmap ∧ (t.pair 0).checked = true ∧ t.ready0 0 = true ∧ (t.core 0).run = .running ∧ (t.core 1).run = .stopped ∧
          (t.ctx 0).pc = BitVec.ofNat 64 (bootWindow + f.flashN ((slotOf 2 slot).1 + 0x14) 4) ∧ t.mem = s.mem)) ∧
    (s.dev.mode = 1 → s.ready0 48 = true → f.lvalid = false → (∀ i < 12, s.ready0 (24 + i) = true) →
      (∀ p : PairId, (s.pair p).failed = false ∧ f.fail0.getLsbD p.val = false ∧ (s.core (evenOf p)).run ≠ .retired) →
      (f.paircfg = 0xFFFFFF → exec .logicalmapWrite s = .next (fis { f with
        lmap := Vector.ofFn (fun i => if i.val < 24 then BitVec.ofNat 8 (0x80 + i.val) else 0#8), lcount := 24, lvalid := true })) ∧
      (f.paircfg = 0 → exec .logicalmapWrite s = .next (fis { f with
        lmap := Vector.ofFn (fun i => BitVec.ofNat 8 (0xC0 + i.val / 2 + 0x20 * (i.val % 2))), lcount := 48, lvalid := true }))) ∧
    (let j := s.jrnl
     s.dev.mode = 1 → s.ready0 48 = true → s.ready0 49 = false → f.role = false → j.role = 0 → j.epochs = [] → j.first ≠ 0#48 → j.rejoins = [] →
      ∃ t, exec .hubUnitsReady s = .next t ∧ (∀ i ∈ [49, 50, 51, 52], t.ready0 i = true) ∧ t.jrnl.epochs = [⟨j.first, .opened, j.time, 0⟩] ∧
        (∀ p : PortId, (t.pcie.ports.get p).present = portPresent s.pcie.bifurc p.val ∧
          (portPresent s.pcie.bifurc p.val = false → t.fisin.fail1.getLsbD p.val = true)) ∧ t.mem = s.mem)
end

