-- ==== Sys2Proof/Laws/State.lean ====
section
/-! SUPPORT. Reading a field after an update: one lemma per field per update, so that no proof unfolds a record update. -/

namespace Sys2Proof.Machine

/-! ### Units of a vector -/

@[simp] theorem unit_setUnit {α : Type} {n : Nat} (v : Vector α n) (i : Fin n) (x : α) : unit (setUnit v i x) i = x := by
  show (v.set i.val x i.isLt)[i.val] = x
  simp

theorem unit_setUnit_ne {α : Type} {n : Nat} (v : Vector α n) (i j : Fin n) (x : α) (h : j ≠ i) :
    unit (setUnit v i x) j = unit v j := by
  have h' : i.val ≠ j.val := fun e => h (Fin.ext e.symm)
  show (v.set i.val x i.isLt)[j.val] = v[j.val]
  simp [h']

@[simp] theorem setUnit_setUnit {α : Type} {n : Nat} (v : Vector α n) (i : Fin n) (x y : α) : setUnit (setUnit v i x) i y = setUnit v i y := by
  simp [setUnit]

@[simp] theorem setUnit_unit {α : Type} {n : Nat} (v : Vector α n) (i : Fin n) : setUnit v i (unit v i) = v := by
  show v.set i.val v[i.val] i.isLt = v
  simp

/-! ### Cores, registers, contexts -/

@[simp] theorem State.core_setCore (s : State) (c : CoreId) (k : Core) : (s.setCore c k).core c = k := by simp [State.core, State.setCore]
theorem State.core_setCore_ne (s : State) (c d : CoreId) (k : Core) (h : d ≠ c) : (s.setCore c k).core d = s.core d := by
  simp [State.core, State.setCore, unit_setUnit_ne _ _ _ _ h]
@[simp] theorem State.setCore_setCore (s : State) (c : CoreId) (k l : Core) : (s.setCore c k).setCore c l = s.setCore c l := by simp [State.setCore]
@[simp] theorem State.setCore_core (s : State) (c : CoreId) : s.setCore c (s.core c) = s := by simp [State.setCore, State.core]
@[simp] theorem State.regs_setCore (s : State) (c : CoreId) (k : Core) : (s.setCore c k).regs c = k.regs := by simp [State.regs]
@[simp] theorem State.regs_setRegs (s : State) (c : CoreId) (r : Regs) : (s.setRegs c r).regs c = r := by simp [State.regs, State.setRegs]
theorem State.regs_setRegs_ne (s : State) (c d : CoreId) (r : Regs) (h : d ≠ c) : (s.setRegs c r).regs d = s.regs d := by
  simp [State.regs, State.setRegs, State.core_setCore_ne _ _ _ _ h]
@[simp] theorem State.setRegs_setRegs (s : State) (c : CoreId) (r q : Regs) : (s.setRegs c r).setRegs c q = s.setRegs c q := by
  simp [State.setRegs, State.core, State.setCore]
@[simp] theorem State.setRegs_regs (s : State) (c : CoreId) : s.setRegs c (s.regs c) = s := State.setCore_core s c
@[simp] theorem State.core_setRegs (s : State) (c : CoreId) (r : Regs) : (s.setRegs c r).core c = { s.core c with regs := r } := by
  simp [State.setRegs]
@[simp] theorem State.pair_setCore (s : State) (c : CoreId) (k : Core) (p : PairId) : (s.setCore c k).pair p = s.pair p := rfl
@[simp] theorem State.pair_setRegs (s : State) (c : CoreId) (r : Regs) (p : PairId) : (s.setRegs c r).pair p = s.pair p := rfl
@[simp] theorem State.leads_setCore (s : State) (c d : CoreId) (k : Core) : (s.setCore c k).leads d = s.leads d := rfl
@[simp] theorem State.leads_setRegs (s : State) (c d : CoreId) (r : Regs) : (s.setRegs c r).leads d = s.leads d := rfl
@[simp] theorem State.pair_setPair (s : State) (p : PairId) (x : Pair) : (s.setPair p x).pair p = x := by simp [State.pair, State.setPair]
theorem State.pair_setPair_ne (s : State) (p q : PairId) (x : Pair) (h : q ≠ p) : (s.setPair p x).pair q = s.pair q := by
  simp [State.pair, State.setPair, unit_setUnit_ne _ _ _ _ h]
@[simp] theorem State.core_setPair (s : State) (p : PairId) (x : Pair) (c : CoreId) : (s.setPair p x).core c = s.core c := rfl
@[simp] theorem State.regs_setPair (s : State) (p : PairId) (x : Pair) (c : CoreId) : (s.setPair p x).regs c = s.regs c := rfl
@[simp] theorem Regs.ctx_setCtx (r : Regs) (x : Ctx) : (r.setCtx x).ctx = x := by simp [Regs.ctx, Regs.setCtx]
@[simp] theorem Regs.setCtx_setCtx (r : Regs) (x y : Ctx) : (r.setCtx x).setCtx y = r.setCtx y := by simp [Regs.setCtx]
@[simp] theorem Regs.setCtx_ctx (r : Regs) : r.setCtx r.ctx = r := by simp [Regs.setCtx, Regs.ctx]
@[simp] theorem State.ctx_setRegs (s : State) (c : CoreId) (r : Regs) : (s.setRegs c r).ctx c = r.ctx := by simp [State.ctx]

/-! ### The other fields -/

@[simp] theorem State.setCore_mem (s : State) (c : CoreId) (k : Core) : (s.setCore c k).mem = s.mem := rfl
@[simp] theorem State.setCore_llc (s : State) (c : CoreId) (k : Core) : (s.setCore c k).llc = s.llc := rfl
@[simp] theorem State.setCore_llclru (s : State) (c : CoreId) (k : Core) : (s.setCore c k).llclru = s.llclru := rfl
@[simp] theorem State.setCore_dir (s : State) (c : CoreId) (k : Core) : (s.setCore c k).dir = s.dir := rfl
@[simp] theorem State.setCore_fabric (s : State) (c : CoreId) (k : Core) : (s.setCore c k).fabric = s.fabric := rfl
@[simp] theorem State.setCore_clusters (s : State) (c : CoreId) (k : Core) : (s.setCore c k).clusters = s.clusters := rfl
@[simp] theorem State.setCore_chans (s : State) (c : CoreId) (k : Core) : (s.setCore c k).chans = s.chans := rfl
@[simp] theorem State.setCore_integ (s : State) (c : CoreId) (k : Core) : (s.setCore c k).integ = s.integ := rfl
@[simp] theorem State.setCore_jrnl (s : State) (c : CoreId) (k : Core) : (s.setCore c k).jrnl = s.jrnl := rfl
@[simp] theorem State.setCore_pcie (s : State) (c : CoreId) (k : Core) : (s.setCore c k).pcie = s.pcie := rfl
@[simp] theorem State.setCore_volley (s : State) (c : CoreId) (k : Core) : (s.setCore c k).volley = s.volley := rfl
@[simp] theorem State.setCore_fisin (s : State) (c : CoreId) (k : Core) : (s.setCore c k).fisin = s.fisin := rfl
@[simp] theorem State.setCore_power (s : State) (c : CoreId) (k : Core) : (s.setCore c k).power = s.power := rfl
@[simp] theorem State.setCore_standby (s : State) (c : CoreId) (k : Core) : (s.setCore c k).standby = s.standby := rfl
@[simp] theorem State.setCore_dev (s : State) (c : CoreId) (k : Core) : (s.setCore c k).dev = s.dev := rfl
@[simp] theorem State.setCore_free (s : State) (c : CoreId) (k : Core) : (s.setCore c k).free = s.free := rfl
@[simp] theorem State.setCore_now (s : State) (c : CoreId) (k : Core) : (s.setCore c k).now = s.now := rfl
@[simp] theorem State.setCore_pending (s : State) (c : CoreId) (k : Core) : (s.setCore c k).pending = s.pending := rfl
@[simp] theorem State.setCore_pairs (s : State) (c : CoreId) (k : Core) : (s.setCore c k).pairs = s.pairs := rfl
@[simp] theorem State.setRegs_mem (s : State) (c : CoreId) (r : Regs) : (s.setRegs c r).mem = s.mem := rfl
@[simp] theorem State.setRegs_llc (s : State) (c : CoreId) (r : Regs) : (s.setRegs c r).llc = s.llc := rfl
@[simp] theorem State.setRegs_llclru (s : State) (c : CoreId) (r : Regs) : (s.setRegs c r).llclru = s.llclru := rfl
@[simp] theorem State.setRegs_dir (s : State) (c : CoreId) (r : Regs) : (s.setRegs c r).dir = s.dir := rfl
@[simp] theorem State.setRegs_fabric (s : State) (c : CoreId) (r : Regs) : (s.setRegs c r).fabric = s.fabric := rfl
@[simp] theorem State.setRegs_clusters (s : State) (c : CoreId) (r : Regs) : (s.setRegs c r).clusters = s.clusters := rfl
@[simp] theorem State.setRegs_chans (s : State) (c : CoreId) (r : Regs) : (s.setRegs c r).chans = s.chans := rfl
@[simp] theorem State.setRegs_integ (s : State) (c : CoreId) (r : Regs) : (s.setRegs c r).integ = s.integ := rfl
@[simp] theorem State.setRegs_jrnl (s : State) (c : CoreId) (r : Regs) : (s.setRegs c r).jrnl = s.jrnl := rfl
@[simp] theorem State.setRegs_pcie (s : State) (c : CoreId) (r : Regs) : (s.setRegs c r).pcie = s.pcie := rfl
@[simp] theorem State.setRegs_volley (s : State) (c : CoreId) (r : Regs) : (s.setRegs c r).volley = s.volley := rfl
@[simp] theorem State.setRegs_fisin (s : State) (c : CoreId) (r : Regs) : (s.setRegs c r).fisin = s.fisin := rfl
@[simp] theorem State.setRegs_power (s : State) (c : CoreId) (r : Regs) : (s.setRegs c r).power = s.power := rfl
@[simp] theorem State.setRegs_standby (s : State) (c : CoreId) (r : Regs) : (s.setRegs c r).standby = s.standby := rfl
@[simp] theorem State.setRegs_dev (s : State) (c : CoreId) (r : Regs) : (s.setRegs c r).dev = s.dev := rfl
@[simp] theorem State.setRegs_free (s : State) (c : CoreId) (r : Regs) : (s.setRegs c r).free = s.free := rfl
@[simp] theorem State.setRegs_now (s : State) (c : CoreId) (r : Regs) : (s.setRegs c r).now = s.now := rfl
@[simp] theorem State.setRegs_pending (s : State) (c : CoreId) (r : Regs) : (s.setRegs c r).pending = s.pending := rfl
@[simp] theorem State.setRegs_pairs (s : State) (c : CoreId) (r : Regs) : (s.setRegs c r).pairs = s.pairs := rfl
@[simp] theorem State.setPair_mem (s : State) (p : PairId) (x : Pair) : (s.setPair p x).mem = s.mem := rfl
@[simp] theorem State.setPair_llc (s : State) (p : PairId) (x : Pair) : (s.setPair p x).llc = s.llc := rfl
@[simp] theorem State.setPair_llclru (s : State) (p : PairId) (x : Pair) : (s.setPair p x).llclru = s.llclru := rfl
@[simp] theorem State.setPair_dir (s : State) (p : PairId) (x : Pair) : (s.setPair p x).dir = s.dir := rfl
@[simp] theorem State.setPair_fabric (s : State) (p : PairId) (x : Pair) : (s.setPair p x).fabric = s.fabric := rfl
@[simp] theorem State.setPair_clusters (s : State) (p : PairId) (x : Pair) : (s.setPair p x).clusters = s.clusters := rfl
@[simp] theorem State.setPair_chans (s : State) (p : PairId) (x : Pair) : (s.setPair p x).chans = s.chans := rfl
@[simp] theorem State.setPair_integ (s : State) (p : PairId) (x : Pair) : (s.setPair p x).integ = s.integ := rfl
@[simp] theorem State.setPair_jrnl (s : State) (p : PairId) (x : Pair) : (s.setPair p x).jrnl = s.jrnl := rfl
@[simp] theorem State.setPair_pcie (s : State) (p : PairId) (x : Pair) : (s.setPair p x).pcie = s.pcie := rfl
@[simp] theorem State.setPair_volley (s : State) (p : PairId) (x : Pair) : (s.setPair p x).volley = s.volley := rfl
@[simp] theorem State.setPair_fisin (s : State) (p : PairId) (x : Pair) : (s.setPair p x).fisin = s.fisin := rfl
@[simp] theorem State.setPair_power (s : State) (p : PairId) (x : Pair) : (s.setPair p x).power = s.power := rfl
@[simp] theorem State.setPair_standby (s : State) (p : PairId) (x : Pair) : (s.setPair p x).standby = s.standby := rfl
@[simp] theorem State.setPair_dev (s : State) (p : PairId) (x : Pair) : (s.setPair p x).dev = s.dev := rfl
@[simp] theorem State.setPair_free (s : State) (p : PairId) (x : Pair) : (s.setPair p x).free = s.free := rfl
@[simp] theorem State.setPair_now (s : State) (p : PairId) (x : Pair) : (s.setPair p x).now = s.now := rfl
@[simp] theorem State.setPair_pending (s : State) (p : PairId) (x : Pair) : (s.setPair p x).pending = s.pending := rfl
@[simp] theorem State.setPair_cores (s : State) (p : PairId) (x : Pair) : (s.setPair p x).cores = s.cores := rfl

/-! ### Registers outside the banks -/

@[simp] theorem Regs.setCtx_cur (r : Regs) (x : Ctx) : (r.setCtx x).cur = r.cur := rfl
@[simp] theorem Regs.setCtx_guest (r : Regs) (x : Ctx) : (r.setCtx x).guest = r.guest := rfl
@[simp] theorem Regs.setCtx_guestSel (r : Regs) (x : Ctx) : (r.setCtx x).guestSel = r.guestSel := rfl
@[simp] theorem Regs.setCtx_fault (r : Regs) (x : Ctx) : (r.setCtx x).fault = r.fault := rfl
@[simp] theorem Regs.setCtx_prod (r : Regs) (x : Ctx) : (r.setCtx x).prod = r.prod := rfl
@[simp] theorem Regs.setCtx_prodNew (r : Regs) (x : Ctx) : (r.setCtx x).prodNew = r.prodNew := rfl
@[simp] theorem Regs.setCtx_trapcause (r : Regs) (x : Ctx) : (r.setCtx x).trapcause = r.trapcause := rfl
@[simp] theorem Regs.setCtx_trapaddr (r : Regs) (x : Ctx) : (r.setCtx x).trapaddr = r.trapaddr := rfl
@[simp] theorem Regs.setCtx_trapinfo (r : Regs) (x : Ctx) : (r.setCtx x).trapinfo = r.trapinfo := rfl
@[simp] theorem Regs.setCtx_faddr (r : Regs) (x : Ctx) : (r.setCtx x).faddr = r.faddr := rfl
@[simp] theorem Regs.setCtx_fstat (r : Regs) (x : Ctx) : (r.setCtx x).fstat = r.fstat := rfl
@[simp] theorem Regs.setCtx_dblInfo (r : Regs) (x : Ctx) : (r.setCtx x).dblInfo = r.dblInfo := rfl
@[simp] theorem Regs.setCtx_hdtb (r : Regs) (x : Ctx) : (r.setCtx x).hdtb = r.hdtb := rfl
@[simp] theorem Regs.setCtx_pinned (r : Regs) (x : Ctx) : (r.setCtx x).pinned = r.pinned := rfl
@[simp] theorem Regs.setCtx_ctxctlBank (r : Regs) (x : Ctx) : (r.setCtx x).ctxctlBank = r.ctxctlBank := rfl
@[simp] theorem Regs.setCtx_mbank (r : Regs) (x : Ctx) : (r.setCtx x).mbank = r.mbank := rfl
@[simp] theorem Regs.setCtx_uctl (r : Regs) (x : Ctx) : (r.setCtx x).uctl = r.uctl := rfl
@[simp] theorem Regs.setCtx_s2root (r : Regs) (x : Ctx) : (r.setCtx x).s2root = r.s2root := rfl
@[simp] theorem Regs.setCtx_s1en (r : Regs) (x : Ctx) : (r.setCtx x).s1en = r.s1en := rfl
@[simp] theorem Regs.setCtx_keyen (r : Regs) (x : Ctx) : (r.setCtx x).keyen = r.keyen := rfl
@[simp] theorem Regs.setCtx_wcen (r : Regs) (x : Ctx) : (r.setCtx x).wcen = r.wcen := rfl
@[simp] theorem Regs.setCtx_keybase (r : Regs) (x : Ctx) : (r.setCtx x).keybase = r.keybase := rfl
@[simp] theorem Regs.setCtx_keylim (r : Regs) (x : Ctx) : (r.setCtx x).keylim = r.keylim := rfl
@[simp] theorem Regs.setCtx_fdq (r : Regs) (x : Ctx) : (r.setCtx x).fdq = r.fdq := rfl
@[simp] theorem Regs.setCtx_fdqIdle (r : Regs) (x : Ctx) : (r.setCtx x).fdqIdle = r.fdqIdle := rfl
@[simp] theorem Regs.setCtx_deliv (r : Regs) (x : Ctx) : (r.setCtx x).deliv = r.deliv := rfl
@[simp] theorem Regs.setCtx_fdqra (r : Regs) (x : Ctx) : (r.setCtx x).fdqra = r.fdqra := rfl
@[simp] theorem Regs.setCtx_fdqCount (r : Regs) (x : Ctx) : (r.setCtx x).fdqCount = r.fdqCount := rfl
@[simp] theorem Regs.setCtx_spill (r : Regs) (x : Ctx) : (r.setCtx x).spill = r.spill := rfl
@[simp] theorem Regs.setCtx_drainFault (r : Regs) (x : Ctx) : (r.setCtx x).drainFault = r.drainFault := rfl
@[simp] theorem Regs.setCtx_drainHeld (r : Regs) (x : Ctx) : (r.setCtx x).drainHeld = r.drainHeld := rfl
@[simp] theorem Regs.setCtx_ib (r : Regs) (x : Ctx) : (r.setCtx x).ib = r.ib := rfl
@[simp] theorem Regs.setCtx_dw (r : Regs) (x : Ctx) : (r.setCtx x).dw = r.dw := rfl
@[simp] theorem Regs.setCtx_skip (r : Regs) (x : Ctx) : (r.setCtx x).skip = r.skip := rfl
@[simp] theorem Regs.setCtx_sstep (r : Regs) (x : Ctx) : (r.setCtx x).sstep = r.sstep := rfl
@[simp] theorem Regs.setCtx_stepDue (r : Regs) (x : Ctx) : (r.setCtx x).stepDue = r.stepDue := rfl
@[simp] theorem Regs.setCtx_posN (r : Regs) (x : Ctx) : (r.setCtx x).posN = r.posN := rfl
@[simp] theorem Regs.setCtx_posU (r : Regs) (x : Ctx) : (r.setCtx x).posU = r.posU := rfl

end Sys2Proof.Machine
end

