-- ==== Sys2Proof/Laws/Run.lean ====
section
/-! SUPPORT. Running a meaning: what each step of the monads gives, and what issuing a row comes to when nothing else is due. -/

namespace Sys2Proof.Machine

/-- What an execution answers from a state, and the state it leaves. -/
def Exec.on {α : Type} (m : Exec α) (s : State) : Except Stop α × State := m.run s

/-! ### Steps of M -/

@[simp] theorem run_pure {α : Type} (a : α) (s : State) : (pure a : M α) s = (a, s) := rfl
@[simp] theorem run_bind {α β : Type} (m : M α) (f : α → M β) (s : State) : 
    (m >>= f) s = match m s with
      | (a, t) => f a t := rfl
@[simp] theorem run_get (s : State) : (get : M State) s = (s, s) := rfl
@[simp] theorem run_set (t s : State) : (set t : M PUnit) s = (⟨⟩, t) := rfl
@[simp] theorem run_modify (f : State → State) (s : State) : (modify f : M PUnit) s = (⟨⟩, f s) := rfl
@[simp] theorem run_modCore (c : CoreId) (f : Core → Core) (s : State) : modCore c f s = ((), s.setCore c (f (s.core c))) := rfl
@[simp] theorem run_modRegs (c : CoreId) (f : Regs → Regs) (s : State) : modRegs c f s = ((), s.setRegs c (f (s.regs c))) := rfl
@[simp] theorem run_modCtx (c : CoreId) (f : Ctx → Ctx) (s : State) :
    modCtx c f s = ((), s.setRegs c ((s.regs c).setCtx (f (s.ctx c)))) := rfl
@[simp] theorem run_modPair (p : PairId) (f : Pair → Pair) (s : State) : modPair p f s = ((), s.setPair p (f (s.pair p))) := rfl
@[simp] theorem run_getRegs (c : CoreId) (s : State) : getRegs c s = (s.regs c, s) := rfl
@[simp] theorem run_getCtx (c : CoreId) (s : State) : getCtx c s = (s.ctx c, s) := rfl
@[simp] theorem run_getCore (c : CoreId) (s : State) : getCore c s = (s.core c, s) := rfl
@[simp] theorem run_getPair (p : PairId) (s : State) : getPair p s = (s.pair p, s) := rfl
@[simp] theorem run_readReg (c : CoreId) (f : Reg) (s : State) : readReg c f s = ((s.regs c).read f, s) := rfl
theorem run_ite {α : Type} (b : Prop) [Decidable b] (m n : M α) (s : State) : (if b then m else n) s = if b then m s else n s := by
  split <;> rfl

/-- A core outside a checked pair folds no event. -/
theorem run_foldEvent (c : CoreId) (k : Nat) (v : Word) (t : Nat) (s : State) (h : s.leads c = false) :
    foldEvent c k v t s = ((), s) := by simp [foldEvent, h]

/-- A register write of a core outside a checked pair. -/
theorem run_writeReg (c : CoreId) (f : Reg) (v : TW) (s : State) (h : s.leads c = false) :
    writeReg c f v s = ((), s.setRegs c ((s.regs c).write f v)) := by
  simp [writeReg, run_foldEvent, h]

/-- A core outside a checked pair needs no window. -/
theorem run_windowReady (c : CoreId) (s : State) (h : s.leads c = false) : windowReady c s = (true, s) := by
  simp [windowReady, h]

/-! ### Steps of Exec -/

@[simp] theorem on_pure {α : Type} (a : α) (s : State) : (pure a : Exec α).on s = (.ok a, s) := rfl
@[simp] theorem on_throw {α : Type} (e : Stop) (s : State) : (throw e : Exec α).on s = (.error e, s) := rfl
@[simp] theorem on_lift {α : Type} (m : M α) (s : State) : (lift m).on s = (.ok (m s).1, (m s).2) := rfl
@[simp] theorem on_get (s : State) : (get : Exec State).on s = (.ok s, s) := rfl
theorem on_bind {α β : Type} (m : Exec α) (f : α → Exec β) (s : State) :
    (m >>= f).on s = match m.on s with
      | (.ok a, t) => (f a).on t
      | (.error e, t) => (.error e, t) := by
  show (ExceptT.bindCont f (m s).1) (m s).2 = match m s with
      | (.ok a, t) => (f a).on t
      | (.error e, t) => (.error e, t)
  rcases m s with ⟨a | a, t⟩ <;> rfl
/-- The state after a step that answers, and what follows it. -/
theorem on_bind_ok {α β : Type} {m : Exec α} {f : α → Exec β} {s t : State} {a : α} (h : m.on s = (.ok a, t)) :
    (m >>= f).on s = (f a).on t := by rw [on_bind, h]
theorem on_bind_error {α β : Type} {m : Exec α} {f : α → Exec β} {s t : State} {e : Stop} (h : m.on s = (.error e, t)) :
    (m >>= f).on s = (.error e, t) := by rw [on_bind, h]
theorem on_ite {α : Type} (b : Prop) [Decidable b] (m n : Exec α) (s : State) : (if b then m else n).on s = if b then m.on s else n.on s := by
  split <;> rfl
theorem on_require (b : Bool) (e : Stop) (s : State) :
    (require b e).on s = if b then (.ok (), s) else (.error e, s) := by cases b <;> rfl
@[simp] theorem on_require_true (e : Stop) (s : State) : (require true e).on s = (.ok (), s) := rfl
@[simp] theorem on_require_false (e : Stop) (s : State) : (require false e).on s = (.error e, s) := rfl

end Sys2Proof.Machine
end

