-- ==== Sys2Proof/Laws/Caches.lean ====
section
/-! SUPPORT. What reads of a line that the core's L2 holds come to. -/

namespace Sys2Proof.Machine

/-- A line that the core's L2, in use, holds in a way that is already its set's latest. -/
structure Recent (s : State) (c : CoreId) (n : Nat) (l : L2Line) : Prop where
  use : (s.core c).l2Use = true
  held : (s.core c).l2.look n = some l
  latest : lruUsed (s.core c).l2lru (n % 1024) l.way 4 = (s.core c).l2lru

/-- Reading such a line answers its data and changes nothing. -/
theorem Recent.run_readLine {s : State} {c : CoreId} {n : Nat} {l : L2Line} (h : Recent s c n l) : readLine c n s = (l.data, s) := by
  have hb : (s.core c).fdbusy = false := by have := h.use; simp only [Core.l2Use, Bool.and_eq_true, Bool.not_eq_true'] at this; exact this.2
  have hf : flushAhead c n s = ((), s) := by simp only [flushAhead, run_bind, run_get, hb, Bool.false_eq_true, if_false, run_pure]
  have hu : l2Used c n l.way s = ((), s) := by rw [l2Used, run_modCore, h.latest]; exact congrArg (Prod.mk ()) (State.setCore_core s c)
  simp only [readLine, run_bind, hf, run_get, h.use, if_true, h.held, hu, run_pure]

/-- The word of the HDT at an address of ready memory, in such a line and not poison. -/
structure HasWord (s : State) (c : CoreId) (pa : Pa) (v : Word) : Prop where
  mem : ∃ ch, s.paKind pa = .memory ch
  ready : s.memReady pa = true
  reach : s.homeReach c pa = true
  word : ∃ l, Recent s c (lineOf pa) l ∧ (s.forward c pa (l.data.get (wordIx pa))).val = v ∧ (s.forward c pa (l.data.get (wordIx pa))).tag ≠ 0x82#8

theorem HasWord.run_descWord {s : State} {c : CoreId} {pa : Pa} {v : Word} (h : HasWord s c pa v) : descWord c pa s = (.ok v, s) := by
  obtain ⟨l, hl, hv, ht⟩ := h.word
  obtain ⟨ch, hk⟩ := h.mem
  simp only [descWord, run_bind, run_get, hk, h.ready, h.reach, Bool.not_true, Bool.false_eq_true, if_false, hl.run_readLine, ht, run_pure, hv]

/-- A descriptor whose four words are there. -/
theorem run_readDesc {s : State} {c : CoreId} {pa : Pa} {d : Desc} (h0 : HasWord s c pa d.w0) (h1 : HasWord s c (pa + 8#52) d.w1)
    (h2 : HasWord s c (pa + 16#52) d.w2) (h3 : HasWord s c (pa + 24#52) d.w3) : readDesc c pa s = (.ok d, s) := by
  simp only [readDesc, run_bind, h0.run_descWord, h1.run_descWord, h2.run_descWord, h3.run_descWord, run_pure]

/-- The effective address `0(rb)` plus its displacement, from a raw word (R51). -/
theorem on_effAddr_raw {s : State} {c : CoreId} {m : MemOp} {scale adv : Nat} (ha : m.am = 0#2) (ht : ((s.regs c).read m.rb).tag = 0x05#8) :
    (effAddr c m scale adv).on s = (.ok ⟨((s.regs c).read m.rb).val + m.field.signExtend 64 * BitVec.ofNat 64 scale, none⟩, s) := by
  have hp : (pointerTag 0x05#8) = false := by decide
  have h1 : addrTrap m.rb .base ((s.regs c).read m.rb) = none := by simp [addrTrap, ht]
  have h2 : addrBad .base ((s.regs c).read m.rb) = false := by simp [addrBad, ht]; try decide
  simp [effAddr, on_bind, on_lift, ha, checkAddr, ht, h1, h2, baseAddr, hp, -bind_pure_comp]

end Sys2Proof.Machine
end

