-- ==== Sys2Proof/Laws/Issue.lean ====
section
/-! SUPPORT. What issuing an instruction row comes to when nothing else is due, and what retirement changes. -/

namespace Sys2Proof.Machine

@[simp] theorem State.regs_counted (s : State) (c : CoreId) (pm : Vector PmCounter 8) (free : Nat) :
    (s.counted c pm free).regs c = s.regs c := by simp [State.counted, State.regs, State.core, State.setCore]
@[simp] theorem State.counted_counted (s : State) (c : CoreId) (pm pm' : Vector PmCounter 8) (free free' : Nat) :
    (s.counted c pm free).counted c pm' free' = s.counted c pm' free' := by
  simp [State.counted, State.core, State.setCore]
theorem State.counted_self (s : State) (c : CoreId) : s.counted c (s.core c).pm s.free = s := by
  show ({ (s.setCore c (s.core c)) with free := s.free } : State) = s
  rw [State.setCore_core]

/-- Counting events changes the performance counters only. -/
theorem run_pmAt (c : CoreId) (priv : BitVec 2) (ev n : Nat) (s : State) :
    pmAt c priv ev n s = ((), s.counted c ((s.core c).pm.map (fun p => p.count priv ev n)) s.free) := rfl

/-- A free count changes the performance counters and the free-value counter only. -/
theorem run_pmFree (c : CoreId) (priv : BitVec 2) (ev : Nat) (s : State) :
    ∃ pm free, pmFree c priv ev s = ((), s.counted c pm free) := by
  have e : pmFree c priv ev s = if (s.core c).pm.any (fun p => decide (fieldN p.ctl 0 8 = ev)) = true
      then pmAt c priv ev (Config.freeCount s.free) { s with free := s.free + 1 } else ((), s) := by
    unfold pmFree
    simp only [run_bind, run_get, run_ite, run_set, run_pure]
  rw [e]
  split
  · exact ⟨_, s.free + 1, rfl⟩
  · exact ⟨(s.core c).pm, s.free, congrArg (Prod.mk ()) (State.counted_self s c).symm⟩

/-- Several free counts change the same. -/
theorem run_pmFrees (c : CoreId) (priv : BitVec 2) (l : List Nat) (s : State) :
    ∃ pm free, pmFrees c priv l s = ((), s.counted c pm free) := by
  induction l generalizing s with
  | nil => exact ⟨_, _, congrArg (Prod.mk ()) (State.counted_self s c).symm⟩
  | cons ev t ih =>
    obtain ⟨pm, free, h⟩ := run_pmFree c priv ev s
    obtain ⟨pm', free', h'⟩ := ih (s.counted c pm free)
    refine ⟨pm', free', ?_⟩
    unfold pmFrees
    simp only [run_bind, h, h', State.counted_counted]

/-- A state whose core has taken nothing is over with its own registers. -/
theorem State.over_self (s : State) (c : CoreId) (h : (s.core c).kept = [] ∧ (s.core c).used = 0) : s.over c (s.regs c) = s := by
  have e : ({ s.core c with regs := s.regs c, kept := [], used := 0 } : Core) = s.core c := by
    rw [← h.1, ← h.2]; rfl
  show s.setCore c _ = s
  rw [e, State.setCore_core]

/-- Retirement outside a checked pair: the registers of a retirement, performance counters apart. -/
theorem retire_leaves (c : CoreId) (s0 : State) (b : Bool) (dest : Word) (s : State)
    (hl : s0.leads c = false) (hs : (s0.pair (pairOf c)).stepping = false) :
    s.Leaves (retire c s0 b dest s).2 c ((s.regs c).retired dest (s0.regs c) b) := by
  obtain ⟨pm, free, h⟩ := run_pmFrees c (s0.regs c).ctx.csw.priv (timedEvents (s0.regs c).ctx.csw.quiet) (pmAt c (s0.regs c).ctx.csw.priv 0x02 1
    (s.setRegs c ((s.regs c).retired dest (s0.regs c) b))).2
  rw [run_pmAt] at h
  unfold retire
  simp only [run_bind, run_modRegs, run_pmAt, h, hl, hs, forget, run_modCore, Bool.false_and, Bool.false_eq_true, if_false, run_pure]
  refine ⟨pm, free, ?_⟩
  simp [State.counted, State.over, State.setRegs, State.setCore, State.core]

/-- Retirement outside a checked pair changes its core only. -/
theorem retire_chans (c : CoreId) (s0 : State) (b : Bool) (dest : Word) (s : State)
    (hl : s0.leads c = false) (hs : (s0.pair (pairOf c)).stepping = false) : (retire c s0 b dest s).2.chans = s.chans := by
  obtain ⟨pm, free, h⟩ := retire_leaves c s0 b dest s hl hs
  rw [h]; rfl

/-- Nothing is disturbed where no checked pair holds a line until its verdict (R287). -/
theorem State.disturbed_none {s : State} (h : ∀ p, ∀ w ∈ (s.pair p).windows, w.line = none) (t : State) : s.disturbed t = false := by
  unfold State.disturbed
  rw [List.any_eq_false]
  intro p _ hp
  rw [List.any_eq_true] at hp
  obtain ⟨w, hw, e⟩ := hp
  rw [h p w hw] at e
  exact Bool.noConfusion e

/-- A command's effect stands where no line is held and no channel has made it wait (R287, R317). -/
theorem State.unlessDeferred_on {s t : State} (h : ∀ p, ∀ w ∈ (s.pair p).windows, w.line = none) (hw : t.chans.any (·.waits) = false) :
    s.unlessDeferred t = t := by
  unfold State.unlessDeferred
  rw [State.disturbed_none h t, hw]
  rfl

/-- Fetching, decoding and executing a row whose words are fetched and permitted. -/
theorem execute_on {c : CoreId} {s s1 : State} {n : Insn} {body : Exec Word} (hf : (fetchInsn c (lenOf n.word)).on s = (.ok (), s1))
    (ho : n.ok = true) (hp : n.priv ≤ (s1.ctx c).csw.priv.toNat) : (execute c n body).on s = body.on s1 := by
  unfold execute
  simp only [on_bind, hf, on_lift, run_getCtx, decodeCheck, ho, on_require_true, decide_eq_true hp]

/-- A row that issues and whose body completes retires. -/
theorem issue_retires {i : Instr} {c : CoreId} {s s1 s2 : State} {body : Exec Word} {dest : Word} (h : Issues s c i s1)
    (hb : body.on s1 = (.ok dest, s2)) (hq : (s2.regs c).fdq.length ≤ 4) (hw : s2.chans.any (·.waits) = false) :
    runInsn c i body s = .next (retire c s (skips i) dest s2).2 := by
  have hok : ((s.regs c).issued i).insn.ok = true := by
    simp only [Regs.issued, insnOf, h.form, Bool.true_and, Bool.not_eq_true', Bool.and_eq_false_imp, decide_eq_false_iff_not]
    exact h.depth
  have hx : (execute c ((s.regs c).issued i).insn body).on s = (.ok dest, s2) := by
    rw [execute_on (n := ((s.regs c).issued i).insn) h.fetch hok h.priv]; exact hb
  have hq' : ¬ 4 < (s2.regs c).fdq.length := by omega
  have hdel : ((s.regs c).issued i).delivery = false := h.queue
  have hdue : s.due c ((s.regs c).holdsLevels ((s.regs c).issued i).insn.word) = none := h.due
  have hrep : s.replayHead c = none := by unfold State.replayHead; rw [h.split]; rfl
  have hn : issueNow c ((s.regs c).issued i) body s = retire c s (skips i) dest s2 := by
    unfold issueNow
    have e : (ExceptT.run (execute c ((s.regs c).issued i).insn body)) s = (.ok dest, s2) := hx
    simp only [run_bind, run_get, hdel, h.drain, h.debug, Bool.false_eq_true, if_false, e, run_ite, hq']
    rfl
  have hb' : issue c ((s.regs c).issued i) body s = retire c s (skips i) dest s2 := by
    unfold issue
    simp only [run_bind, run_get, h.may, run_ite, if_true, hrep, hdue, run_windowReady c s h.split, hn]
  have hc : (retire c s (skips i) dest s2).2.chans.any (·.waits) = false := by
    rw [retire_chans c s (skips i) dest s2 h.split h.still]; exact hw
  show Host.Outcome.next (s.unlessDeferred (issue c ((s.regs c).issued i) body s).2) = _
  rw [hb', State.unlessDeferred_on h.lines hc]

/-- A row whose body completes in `u` at `to` retires there. -/
theorem Issues.retires {i : Instr} {c : CoreId} {s s1 u : State} {body : Exec Word} {dest : Word} (h : Issues s c i s1)
    (he : exec i s = runInsn c i body s) (hb : body.on s1 = (.ok dest, u)) (hq : (u.regs c).fdq.length ≤ 4)
    (hw : u.chans.any (·.waits) = false) : ∃ t, Retires i s c u dest t :=
  ⟨_, he.trans (issue_retires h hb hq hw), retire_leaves c s (skips i) dest u h.split h.still⟩

/-- A row of one word that continues after itself. -/
theorem Issues.retires_next {i : Instr} {c : CoreId} {s s1 u : State} {m : Exec Unit} (h : Issues s c i s1)
    (he : exec i s = runSeq c i m s) (hb : m.on s1 = (.ok (), u)) (hq : (u.regs c).fdq.length ≤ 4)
    (hw : u.chans.any (·.waits) = false) : ∃ t, Retires i s c u ((s1.ctx c).pc + 4#64) t := by
  refine h.retires he ?_ hq hw
  simp only [seqBody, on_bind, on_lift, run_getCtx, hb, on_pure]

end Sys2Proof.Machine
end

