-- ==== Sys2Proof/Laws/Dcs.lean ====
section
/-! SUPPORT. What an admitted access to Device Control Space comes to, for a core outside a checked pair. -/

namespace Sys2Proof.Machine

theorem dcsVa_toPa {off : Nat} (h : off < 2 ^ 28) : (toPa (dcsVa off)).toNat % 2 ^ 28 = off := by
  have e : (dcsVa off).toNat = 0x000FFF0000000000 + off := by
    unfold dcsVa dcsBase
    rw [BitVec.toNat_add, BitVec.toNat_ofNat, Nat.mod_eq_of_lt (by omega : off < 2 ^ 64)]
    show (0x000FFF0000000000 + off) % 2 ^ 64 = _
    omega
  unfold toPa
  rw [BitVec.toNat_setWidth, e]
  omega

theorem dcsVa_aligned {off : Nat} (h : off < 2 ^ 28) (h8 : off % 8 = 0) : (dcsVa off).toNat % 8 = 0 := by
  have e : (dcsVa off).toNat = 0x000FFF0000000000 + off := by
    unfold dcsVa dcsBase
    rw [BitVec.toNat_add, BitVec.toNat_ofNat, Nat.mod_eq_of_lt (by omega : off < 2 ^ 64)]
    show (0x000FFF0000000000 + off) % 2 ^ 64 = _
    omega
  omega

/-- An admitted access translates to its own address. -/
theorem Reaches.access {s : State} {c : CoreId} {off : Nat} {w : Bool} (h : Reaches s c off w) :
    (dcsAccess c off w).on s = (.ok { pa := toPa (dcsVa off), kind := .dcs, mt := .sideEffect, span := none, gen := 0 }, s) := by
  have hp : (s.regs c).ctx.csw.priv ≠ 0#2 := h.priv
  simp only [dcsAccess, checkAlign, on_bind, on_require, dcsVa_aligned h.inside h.aligned, decide_true, if_true, on_lift, run_getRegs,
    checkPa, on_get, hp, decide_false, Bool.and_false, Bool.false_and, Bool.not_false, Bool.not_true, Bool.false_eq_true, if_false,
    State.windowReady, on_pure]

/-- Nothing waits to drain. -/
theorem run_drainAll {s : State} {c : CoreId} (h : (s.core c).stbuf = []) : drainAll c s = (true, s) := by
  have e : drainAll c s = drainN c (s.core c).stbuf.length s := rfl
  rw [e, h]
  rfl
theorem on_drainFirst {s : State} {c : CoreId} (h : (s.core c).stbuf = []) : (drainFirst c).on s = (.ok (), s) := by
  simp only [drainFirst, on_bind, on_lift, run_drainAll h, on_require_true]

/-- An access that no watchpoint matches. -/
theorem on_watch {s : State} {c : CoreId} {w : Bool} {va : Word} {n : Nat} (h : (s.regs c).watchHit w va n = none) :
    (watch c w va n).on s = (.ok (), s) := by
  simp only [watch, on_bind, on_get, h, on_pure]

/-- A core outside a checked pair performs its uncached accesses at once. -/
theorem on_gateAccess {s : State} {c : CoreId} (va : Word) (n : Nat) (d : Option TW) (h : s.leads c = false)
    (hk : (s.core c).kept = []) : (gateAccess c va n d).on s = (.ok .perform, s) := by
  have hr : s.replayHead c = none := by unfold State.replayHead; rw [h]; rfl
  have e : takeKept c none s = (none, s) := by
    unfold takeKept
    simp only [run_bind, run_get, hk, List.getElem?_nil, hr, Option.bind_none, run_pure]
  simp only [gateAccess, on_bind, on_lift, e, on_get, h, Bool.false_eq_true, if_false, on_pure]

/-- A value that has been taken is kept for a later attempt of the instruction. -/
theorem run_performed {s : State} {c : CoreId} (w : TW) (h : s.leads c = false) : performed c w s = ((), (keep c w s).2) := by
  have e : ((keep c w s).2).leads c = false := h
  simp only [performed, run_bind, run_get, keep, run_modCore, State.leads_setCore, h, Bool.false_eq_true, if_false, run_pure]

/-- An admitted store performs the register's own store. -/
theorem Reaches.write {s : State} {c : CoreId} {off : Nat} (h : Reaches s c off true) (v : Word) (hl : s.leads c = false)
    (hl' : (dcsStore c off v s).2.leads c = false) : (dcsWrite c off v).on s = (.ok (), (keep c TW.zero (dcsStore c off v s).2).2) := by
  have hf : (!s.debugFull off) = true := by rw [h.room rfl]; rfl
  simp only [dcsWrite, on_bind, h.access, on_watch h.watch, putWord, on_gateAccess _ _ _ hl h.first.1, storeUncached, on_get, true_or, if_true,
    on_drainFirst h.empty, on_lift, dcsVa_toPa h.inside, hf, on_require_true, TW.raw, run_performed _ hl']

/-- An admitted load delivers the register's value. -/
theorem Reaches.read {s : State} {c : CoreId} {off : Nat} (h : Reaches s c off false) (dst : Reg) (hl : s.leads c = false)
    (hl' : (dcsLoad c off s).2.leads c = false) : (dcsRead c dst off).on s =
      (.ok (), (keep c (TW.raw (dcsLoad c off s).1) (dcsLoad c off s).2).2.setRegs c
        (((dcsLoad c off s).2.regs c).write dst (TW.raw (dcsLoad c off s).1))) := by
  have e : ((keep c (TW.raw (dcsLoad c off s).1) (dcsLoad c off s).2).2).leads c = false := hl'
  have er : ((keep c (TW.raw (dcsLoad c off s).1) (dcsLoad c off s).2).2).regs c = (dcsLoad c off s).2.regs c := by
    simp only [keep, run_modCore, State.regs_setCore]; rfl
  simp only [dcsRead, on_bind, h.access, on_watch h.watch, deviceLoad, on_gateAccess _ _ _ hl h.first.1, or_true, if_true,
    on_drainFirst h.empty, on_lift, dcsVa_toPa h.inside, run_performed _ hl', on_pure, run_writeReg _ _ _ _ e, er]

end Sys2Proof.Machine
end

