-- ==== Sys2Proof/Laws/Mailbox.lean ====
section
/-! SUPPORT. What serving a mailbox command comes to (R404, R405): the channel's doorbell goes, the body runs, the response is written. -/

namespace Sys2Proof.Machine

/-- A state with the oldest doorbell taken. -/
def State.belled (s : State) : State := { s with fisin := { s.fisin with bells := s.fisin.bells.drop 1 } }

/-- The command that waits in a mailbox channel. -/
def State.command (s : State) (i : Fin 64) : Cmd :=
  { words := (s.mbox i).cmd, reply := .chan i, monitor := (s.mbox i).monitor, vmchk := (s.mbox i).owner.getLsbD 2 }

theorem State.command_w (s : State) (i : Fin 64) (n : Nat) : (s.command i).w n = s.cmdWord i n := rfl
theorem State.command_reply (s : State) (i : Fin 64) : (s.command i).reply = .chan i := rfl
theorem State.command_vmchk (s : State) (i : Fin 64) : (s.command i).vmchk = (s.mbox i).owner.getLsbD 2 := rfl

/-- Word 0 of a command. -/
theorem word_zero (v : Vector Word 8) : v.toList.getD 0 0#64 = v.get 0 := by
  rw [List.getD_eq_getElem?_getD, Vector.getElem?_toList, Vector.getElem?_eq_getElem (by decide)]
  rfl

/-- A served command whose words are in order runs its body. -/
theorem serve_body {sp : Spec} {s : State} {i : Fin 64} {body : Cmd → M (Option Resp)} (h : Rings s i sp.code sp.m sp.modes) :
    mailbox (.chan i) sp body s = (match body (s.command i) s.belled with
      | (some r, u) => respond (.chan i) r false u
      | (none, u) => respondLong (.chan i) u) := by
  have hm : sp.modes.contains s.dev.mode = true := List.contains_iff_mem.mpr h.mode
  have hmon : (sp.m && !(s.mbox i).monitor) = false := by
    cases e : sp.m
    · rfl
    · simp [h.monitor e]
  have h0 : (s.command i).w 0 = (s.mbox i).cmd.get 0 := word_zero _
  have hb : badWord0 ((s.command i).w 0) = false := by rw [h0]; exact h.form
  have hn : ((s.command i).w 0).extractLsb' 16 5 = 0#5 := by rw [h0]; exact h.own
  have hser : serve sp (s.command i) body s.belled = (match body (s.command i) s.belled with
      | (some r, u) => respond (.chan i) r false u
      | (none, u) => respondLong (.chan i) u) := by
    unfold serve
    have hd : (sp.m && !(s.command i).monitor || !sp.modes.contains s.belled.dev.mode) = false := by
      have : (sp.m && !(s.command i).monitor) = false := hmon
      rw [this]
      show (false || !sp.modes.contains s.dev.mode) = false
      rw [hm]; rfl
    simp only [run_bind, run_get, hb, hd, hn, Bool.false_eq_true, if_false, ne_eq, not_true_eq_false, false_and]
    rcases body (s.command i) s.belled with ⟨r | r, u⟩ <;> rfl
  unfold mailbox
  have hc : (s.ready0 48 && decide (s.dev.mode ≠ 0) && decide (s.dev.mode ≠ 5) && s.fisin.swapOp.isNone && (s.mbox i).active &&
        decide (s.fisin.bells.head? = some i) && decide (fieldN ((s.mbox i).cmd.get 0) 0 16 = sp.code)) = true := by
    simp [h.ready, h.on.1, h.on.2, h.swap, h.active, h.first, h.code]
  simp only [run_bind, run_get, hc, if_true]
  exact hser

/-- A response to a channel: its registers, and "mailbox-done" when IRQEN was set. -/
theorem respond_chan (i : Fin 64) (r : Resp) (u : State) :
    (respond (.chan i) r false u).2 =
      (let t : State := { u with fisin := { u.fisin with chans := setUnit u.fisin.chans i ((u.mbox i).replied r) } }
       if (u.mbox i).irqen then
         { t with pcie := { t.pcie with irt := Tab.setD t.pcie.irt 0x7DB (Tab.getD t.pcie.irt 0x7DB t.pcie.irtRest ||| 0x8#64) t.pcie.irtRest } }
       else t) := by
  unfold respond
  simp only [run_bind, run_get, Bool.false_or]
  by_cases e : (u.mbox i).irqen = true
  · simp only [e, if_true]; rfl
  · simp only [e, Bool.false_eq_true, if_false]; rfl

/-- A command that keeps the L2 of each pair's leading core as it was disturbs no deferred line (R287). -/
theorem State.disturbed_off {s t : State} (h : ∀ p, (t.core (evenOf p)).l2 = (s.core (evenOf p)).l2) : s.disturbed t = false := by
  unfold State.disturbed
  rw [List.any_eq_false]
  intro p _
  rw [Bool.not_eq_true, List.any_eq_false]
  intro w _
  cases w.line with
  | none => simp
  | some n => simp [h p]

/-- A short command's row: its body answers `r` and leaves `u`, with the L2 of every leading core as it was and no channel waiting. -/
theorem runMail_short {sp : Spec} {s u : State} {i : Fin 64} {body : Cmd → M (Option Resp)} {r : Resp} (h : Rings s i sp.code sp.m sp.modes)
    (hb : body (s.command i) s.belled = (some r, u)) (hc : u.cores = s.cores) (hw : u.chans.any (·.waits) = false) :
    runMail (.chan i) sp body s = .next (respond (.chan i) r false u).2 := by
  have := serve_body (body := body) h
  rw [hb] at this
  unfold runMail
  simp only [h.resetN, h.pwrgood, Bool.and_self, if_true]
  have e : ((mailbox (.chan i) sp body).run s).2 = (respond (.chan i) r false u).2 := congrArg Prod.snd this
  have l : (respond (.chan i) r false u).2.cores = u.cores ∧ (respond (.chan i) r false u).2.chans = u.chans := by
    rw [respond_chan]
    dsimp only
    split <;> exact ⟨rfl, rfl⟩
  have d : s.disturbed (respond (.chan i) r false u).2 = false := State.disturbed_off (fun p => by
    show ((respond (.chan i) r false u).2.cores.get _).l2 = (s.cores.get _).l2
    rw [l.1, hc])
  rw [e]
  unfold State.unlessDeferred
  rw [d, l.2, hw]
  rfl

/-- A command that reports and changes nothing. -/
theorem runMail_report {sp : Spec} {s : State} {i : Fin 64} {body : Cmd → M (Option Resp)} {r : Resp} (h : Rings s i sp.code sp.m sp.modes)
    (hb : body (s.command i) s.belled = (some r, s.belled)) : runMail (.chan i) sp body s = .next (s.replied i r) := by
  rw [runMail_short h hb rfl h.chans, respond_chan]
  rfl

/-- A long command's row. -/
theorem runMail_long {sp : Spec} {s u : State} {i : Fin 64} {body : Cmd → M (Option Resp)} (h : Rings s i sp.code sp.m sp.modes)
    (hb : body (s.command i) s.belled = (none, u)) (hc : ∀ p, (u.core (evenOf p)).l2 = (s.core (evenOf p)).l2)
    (hw : u.chans.any (·.waits) = false) :
    runMail (.chan i) sp body s = .next { u with fisin := { u.fisin with chans := setUnit u.fisin.chans i (u.mbox i).goesOn } } := by
  have := serve_body (body := body) h
  rw [hb] at this
  unfold runMail
  simp only [h.resetN, h.pwrgood, Bool.and_self, if_true]
  have e : ((mailbox (.chan i) sp body).run s).2 = (respondLong (.chan i) u).2 := congrArg Prod.snd this
  have d : s.disturbed (respondLong (.chan i) u).2 = false := State.disturbed_off hc
  have w : (respondLong (.chan i) u).2.chans.any (·.waits) = false := hw
  rw [e]
  unfold State.unlessDeferred
  rw [d, w]
  rfl

end Sys2Proof.Machine
end

