-- ==== Sys2Proof/Laws/Memory.lean ====
section
/-! SUPPORT. Tables and memory: what a lookup after a change gives, and that every memory operation keeps the canonical form. -/

namespace Sys2Proof.Machine

/-! ### Tables -/

@[simp] theorem Tab.look_nil {α : Type} (k : Nat) : Tab.look ([] : Tab α) k = none := rfl

/-- A lookup after a put. -/
@[simp] theorem Tab.look_put {α : Type} (t : Tab α) (k j : Nat) (v : α) :
    Tab.look (Tab.put t k v) j = if k = j then some v else Tab.look t j := by
  induction t with
  | nil => rfl
  | cons e t ih =>
    obtain ⟨k', v'⟩ := e
    unfold Tab.put
    split
    · rfl
    · rename_i h1
      split
      · rename_i h2
        subst h2
        by_cases hj : k' = j <;> simp [Tab.look, hj]
      · rename_i h2
        by_cases hj : k' = j
        · subst hj; simp [Tab.look, Ne.symm h2]
        · simp [Tab.look, hj, ih]

/-- No key below the bound of a rising table is listed. -/
theorem Tab.look_below {α : Type} : ∀ (t : Tab α) (lo k : Nat), Tab.risingFrom lo t = true → k < lo → Tab.look t k = none
  | [], _, _, _, _ => rfl
  | (k', v) :: t, lo, k, h, hk => by
    simp only [Tab.risingFrom, Bool.and_eq_true, decide_eq_true_eq] at h
    have hne : ¬ k' = k := by omega
    simp only [Tab.look, hne, if_false]
    exact Tab.look_below t (k' + 1) k h.2 (by omega)

/-- A lookup after a drop from a rising table. -/
theorem Tab.look_drop {α : Type} : ∀ (t : Tab α) (lo k j : Nat), Tab.risingFrom lo t = true →
    Tab.look (Tab.drop t k) j = if k = j then none else Tab.look t j
  | [], _, k, j, _ => by simp [Tab.drop]
  | (k', v) :: t, lo, k, j, h => by
    simp only [Tab.risingFrom, Bool.and_eq_true, decide_eq_true_eq] at h
    unfold Tab.drop
    by_cases hk : k' = k
    · subst hk
      by_cases hj : k' = j
      · subst hj; simp [Tab.look_below t (k' + 1) k' h.2 (by omega)]
      · simp [Tab.look, hj]
    · by_cases hj : k' = j
      · subst hj; simp [hk, Tab.look, Ne.symm hk]
      · simp [hk, Tab.look, hj, Tab.look_drop t (k' + 1) k j h.2]

theorem Tab.rising_mono {α : Type} : ∀ (t : Tab α) (a b : Nat), b ≤ a → Tab.risingFrom a t = true → Tab.risingFrom b t = true
  | [], _, _, _, _ => rfl
  | (k, v) :: t, a, b, hb, h => by
    simp only [Tab.risingFrom, Bool.and_eq_true, decide_eq_true_eq] at h ⊢
    exact ⟨by omega, h.2⟩

/-- A put keeps the keys rising. -/
theorem Tab.rising_put {α : Type} : ∀ (t : Tab α) (lo k : Nat) (v : α), Tab.risingFrom lo t = true → lo ≤ k → Tab.risingFrom lo (Tab.put t k v) = true
  | [], _, _, _, _, hk => by simp [Tab.put, Tab.risingFrom, hk]
  | (k', v') :: t, lo, k, v, h, hk => by
    simp only [Tab.risingFrom, Bool.and_eq_true, decide_eq_true_eq] at h
    unfold Tab.put
    split
    · simp only [Tab.risingFrom, Bool.and_eq_true, decide_eq_true_eq]; exact ⟨hk, by omega, h.2⟩
    · split
      · rename_i e; subst e; simp only [Tab.risingFrom, Bool.and_eq_true, decide_eq_true_eq]; exact ⟨hk, h.2⟩
      · simp only [Tab.risingFrom, Bool.and_eq_true, decide_eq_true_eq]
        exact ⟨h.1, Tab.rising_put t (k' + 1) k v h.2 (by omega)⟩

/-- A drop keeps the keys rising. -/
theorem Tab.rising_drop {α : Type} : ∀ (t : Tab α) (lo k : Nat), Tab.risingFrom lo t = true → Tab.risingFrom lo (Tab.drop t k) = true
  | [], _, _, _ => rfl
  | (k', v') :: t, lo, k, h => by
    simp only [Tab.risingFrom, Bool.and_eq_true, decide_eq_true_eq] at h
    unfold Tab.drop
    split
    · exact Tab.rising_mono t _ _ (by omega) h.2
    · simp only [Tab.risingFrom, Bool.and_eq_true, decide_eq_true_eq]
      exact ⟨h.1, Tab.rising_drop t (k' + 1) k h.2⟩

theorem Tab.mem_put {α : Type} : ∀ (t : Tab α) (k : Nat) (v : α) (e : Nat × α), e ∈ Tab.put t k v → e = (k, v) ∨ e ∈ t
  | [], _, _, _, h => Or.inl (by simpa [Tab.put] using h)
  | (k', v') :: t, k, v, e, h => by
    unfold Tab.put at h
    split at h
    · simpa using h
    · split at h
      · rcases List.mem_cons.mp h with h | h
        · exact Or.inl h
        · exact Or.inr (List.mem_cons_of_mem _ h)
      · rcases List.mem_cons.mp h with h | h
        · exact Or.inr (by simp [h])
        · rcases Tab.mem_put t k v e h with h | h
          · exact Or.inl h
          · exact Or.inr (List.mem_cons_of_mem _ h)

theorem Tab.mem_drop {α : Type} : ∀ (t : Tab α) (k : Nat) (e : Nat × α), e ∈ Tab.drop t k → e ∈ t
  | [], _, _, h => h
  | (k', v') :: t, k, e, h => by
    unfold Tab.drop at h
    split at h
    · exact List.mem_cons_of_mem _ h
    · rcases List.mem_cons.mp h with h | h
      · simp [h]
      · exact List.mem_cons_of_mem _ (Tab.mem_drop t k e h)

/-- Writing a cell keeps the canonical form. -/
theorem Tab.wf_setD {α : Type} [DecidableEq α] (t : Tab α) (k : Nat) (v d : α) (h : Tab.wf t d = true) : Tab.wf (Tab.setD t k v d) d = true := by
  simp only [Tab.wf, Bool.and_eq_true, List.all_eq_true, decide_eq_true_eq] at h ⊢
  unfold Tab.setD
  split
  · exact ⟨Tab.rising_drop t 0 k h.1, fun e he => h.2 e (Tab.mem_drop t k e he)⟩
  · rename_i hv
    refine ⟨Tab.rising_put t 0 k v h.1 (by omega), fun e he => ?_⟩
    rcases Tab.mem_put t k v e he with rfl | he
    · exact hv
    · exact h.2 e he

/-- A cell read after a write. -/
theorem Tab.getD_setD {α : Type} [DecidableEq α] (t : Tab α) (k j : Nat) (v d : α) (h : Tab.wf t d = true) :
    Tab.getD (Tab.setD t k v d) j d = if k = j then v else Tab.getD t j d := by
  simp only [Tab.wf, Bool.and_eq_true] at h
  unfold Tab.getD Tab.setD
  split
  · rename_i e
    rw [Tab.look_drop t 0 k j h.1]
    split <;> simp [e]
  · rw [Tab.look_put]
    split <;> simp

/-- Leaving cells out keeps the canonical form. -/
theorem Tab.wf_filter {α : Type} [DecidableEq α] (t : Tab α) (d : α) (p : Nat × α → Bool) (h : Tab.wf t d = true) : Tab.wf (t.filter p) d = true := by
  simp only [Tab.wf, Bool.and_eq_true, List.all_eq_true, decide_eq_true_eq] at h ⊢
  refine ⟨?_, fun e he => h.2 e (List.mem_filter.mp he).1⟩
  have go : ∀ (t : Tab α) (lo : Nat), Tab.risingFrom lo t = true → Tab.risingFrom lo (t.filter p) = true := by
    intro t
    induction t with
    | nil => intro _ _; rfl
    | cons e t ih =>
      intro lo hr
      obtain ⟨k, v⟩ := e
      simp only [Tab.risingFrom, Bool.and_eq_true, decide_eq_true_eq] at hr
      rw [List.filter_cons]
      split
      · simp only [Tab.risingFrom, Bool.and_eq_true, decide_eq_true_eq]; exact ⟨hr.1, ih _ hr.2⟩
      · exact ih _ (Tab.rising_mono t (k + 1) lo (by omega) hr.2)
  exact go t 0 h.1

/-! ### Memory -/

theorem Memory.wf_iff (m : Memory) : m.wf = true ↔ Tab.wf m.bytes 0#8 = true ∧ Tab.wf m.tags 0#8 = true := by
  simp [Memory.wf]

theorem Memory.wf_setByte {m : Memory} (h : m.wf = true) (a : Nat) (b : Byte) : (m.setByte a b).wf = true := by
  rw [Memory.wf_iff] at h ⊢
  exact ⟨Tab.wf_setD _ _ _ _ h.1, h.2⟩
theorem Memory.wf_setTag {m : Memory} (h : m.wf = true) (w : Nat) (t : Tag) : (m.setTag w t).wf = true := by
  rw [Memory.wf_iff] at h ⊢
  exact ⟨h.1, Tab.wf_setD _ _ _ _ h.2⟩
theorem Memory.wf_setBytes {m : Memory} (h : m.wf = true) (w : Nat) (v : Word) (l : List Nat) : (m.setBytes w v l).wf = true := by
  induction l generalizing m with
  | nil => exact h
  | cons i t ih => exact ih (Memory.wf_setByte h _ _)
theorem Memory.wf_setWord {m : Memory} (h : m.wf = true) (w : Nat) (x : TW) : (m.setWord w x).wf = true :=
  Memory.wf_setTag (Memory.wf_setBytes h _ _ _) _ _
theorem Memory.wf_setLineWords {m : Memory} (h : m.wf = true) (n : Nat) (l : Line) (is : List (Fin 8)) : (m.setLineWords n l is).wf = true := by
  induction is generalizing m with
  | nil => exact h
  | cons i t ih => exact ih (Memory.wf_setWord h _ _)
/-- Writing a line keeps the canonical form. -/
theorem Memory.wf_setLine {m : Memory} (h : m.wf = true) (n : Nat) (l : Line) : (m.setLine n l).wf = true := Memory.wf_setLineWords h _ _ _
/-- Losing a channel's contents keeps the canonical form. -/
theorem wf_dropChannel {s : State} (h : s.mem.wf = true) (ch : ChanId) : (dropChannel s ch).wf = true := by
  rw [Memory.wf_iff] at h ⊢
  exact ⟨Tab.wf_filter _ _ _ h.1, Tab.wf_filter _ _ _ h.2⟩
/-- Memory after reset is in its canonical form. -/
theorem wf_reset : State.reset.mem.wf = true := rfl

/-- A byte read after a byte is written. -/
theorem Memory.byte_setByte {m : Memory} (h : m.wf = true) (a b : Nat) (v : Byte) : (m.setByte a v).byte b = if a = b then v else m.byte b :=
  Tab.getD_setD _ _ _ _ _ ((Memory.wf_iff m).mp h).1
/-- A tag read after a tag is written. -/
theorem Memory.tag_setTag {m : Memory} (h : m.wf = true) (a b : Nat) (t : Tag) : (m.setTag a t).tag b = if a = b then t else m.tag b :=
  Tab.getD_setD _ _ _ _ _ ((Memory.wf_iff m).mp h).2
@[simp] theorem Memory.byte_setTag (m : Memory) (w b : Nat) (t : Tag) : (m.setTag w t).byte b = m.byte b := rfl
@[simp] theorem Memory.tag_setByte (m : Memory) (a w : Nat) (b : Byte) : (m.setByte a b).tag w = m.tag w := rfl
@[simp] theorem Memory.tag_setBytes (m : Memory) (w j : Nat) (v : Word) (l : List Nat) : (m.setBytes w v l).tag j = m.tag j := by
  induction l generalizing m with
  | nil => rfl
  | cons i t ih => exact (ih _).trans rfl

/-- A byte read after bytes of one word are written. -/
theorem Memory.byte_setBytes {m : Memory} (h : m.wf = true) (w : Nat) (v : Word) (l : List Nat) (b : Nat) :
    (m.setBytes w v l).byte b = if b - 8 * w ∈ l ∧ 8 * w ≤ b then byteOf v (b - 8 * w) else m.byte b := by
  induction l generalizing m with
  | nil => simp [Memory.setBytes]
  | cons i t ih =>
    rw [Memory.setBytes, ih (Memory.wf_setByte h _ _), Memory.byte_setByte h]
    by_cases hb : 8 * w ≤ b
    · by_cases hi : 8 * w + i = b
      · have e : b - 8 * w = i := by omega
        simp [hb, hi, e]
      · have e : ¬ b - 8 * w = i := by omega
        simp [hb, hi, e]
    · have e : ¬ 8 * w + i = b := by omega
      simp [hb, e]

/-- A byte read after a tagged word is written: the word's bytes are `x`'s, every other byte as before. -/
theorem Memory.byte_setWord {m : Memory} (h : m.wf = true) (w b : Nat) (x : TW) :
    (m.setWord w x).byte b = if b / 8 = w then byteOf x.val (b % 8) else m.byte b := by
  rw [Memory.setWord, Memory.byte_setTag, Memory.byte_setBytes h]
  by_cases hw : b / 8 = w
  · have e1 : b - 8 * w = b % 8 := by omega
    have e2 : 8 * w ≤ b := by omega
    simp [hw, e1, e2, Nat.mod_lt]
  · have : ¬ (b - 8 * w ∈ List.range 8 ∧ 8 * w ≤ b) := by simp; omega
    rw [if_neg this, if_neg hw]

/-- A tag read after a tagged word is written. -/
theorem Memory.tag_setWord {m : Memory} (h : m.wf = true) (w j : Nat) (x : TW) : (m.setWord w x).tag j = if w = j then x.tag else m.tag j := by
  rw [Memory.setWord, Memory.tag_setTag (Memory.wf_setBytes h _ _ _), Memory.tag_setBytes]

/-- The eight bytes of a word give the word. -/
theorem ofBytes_byteOf (v : Word) : BitVec.ofNat 64 (ofBytes ((List.range 8).map (fun i => byteOf v i))) = v := by
  simp only [List.range, List.range.loop, List.map, ofBytes, byteOf]
  bv_omega

/-- A word read after a word is written: the same one, or as before. -/
theorem Memory.word_setWord {m : Memory} (h : m.wf = true) (w j : Nat) (x : TW) : (m.setWord w x).word j = if w = j then x else m.word j := by
  have tag := Memory.tag_setWord h w j x
  unfold Memory.word
  rw [tag]
  by_cases e : w = j
  · subst e
    simp only [if_true]
    have hb : (List.range 8).map (fun i => (m.setWord w x).byte (8 * w + i)) = (List.range 8).map (fun i => byteOf x.val i) := by
      refine List.map_congr_left fun i hi => ?_
      have := List.mem_range.mp hi
      rw [Memory.byte_setWord h, if_pos (by omega)]
      congr 1; omega
    rw [hb, ofBytes_byteOf]
  · simp only [e, if_false]
    have hb : (List.range 8).map (fun i => (m.setWord w x).byte (8 * j + i)) = (List.range 8).map (fun i => m.byte (8 * j + i)) := by
      refine List.map_congr_left fun i hi => ?_
      have := List.mem_range.mp hi
      rw [Memory.byte_setWord h, if_neg (by omega)]
    rw [hb]

end Sys2Proof.Machine
end

