-- ==== Sys2Proof/Laws/Operands.lean ====
section
/-! SUPPORT. Operand checks and the register writes of integer instructions: what each shared operation does when its operands are accepted. -/

namespace Sys2Proof.Machine

@[simp] theorem Regs.write_fdq (r : Regs) (f : Reg) (v : TW) : (r.write f v).fdq = r.fdq := by
  unfold Regs.write Regs.setCtx
  dsimp only
  repeat' split
  all_goals rfl
@[simp] theorem Regs.withCc_fdq (r : Regs) (cc : BitVec 2) : (r.withCc cc).fdq = r.fdq := rfl
@[simp] theorem Regs.write_cur (r : Regs) (f : Reg) (v : TW) : (r.write f v).cur = r.cur := by
  unfold Regs.write Regs.setCtx
  dsimp only
  repeat' split
  all_goals rfl

theorem rawTag_good {t : Tag} (h : rawTag t = true) : t ≠ 0x82#8 ∧ t ≠ 0x00#8 := by
  simp only [rawTag, Bool.or_eq_true, decide_eq_true_eq] at h
  rcases h with rfl | rfl <;> decide
theorem valueTag_good {t : Tag} (h : valueTag t = true) : t ≠ 0x82#8 ∧ t ≠ 0x00#8 := by
  simp only [valueTag, Bool.and_eq_true, decide_eq_true_eq] at h
  constructor <;> rintro rfl <;> simp at h

/-- Words that an instruction accepts, which are neither poison nor unset, pass the checks of value positions (R43). -/
theorem on_checkValues {ok : Tag → Bool} (hok : ∀ t, ok t = true → t ≠ 0x82#8 ∧ t ≠ 0x00#8) {ws : List TW}
    (h : ∀ w ∈ ws, ok w.tag = true) (s : State) : (checkValues ok ws).on s = (.ok (), s) := by
  have hp : ws.find? (fun w => decide (w.tag = 0x82#8)) = none := by
    rw [List.find?_eq_none]
    intro w hw
    simpa using (hok _ (h w hw)).1
  have hu : ws.any (fun w => decide (w.tag = 0x00#8)) = false := by
    rw [List.any_eq_false]
    intro w hw
    simpa using (hok _ (h w hw)).2
  have ha : ws.all (fun w => ok w.tag) = true := by simpa using h
  simp only [checkValues, hp, hu, ha, Bool.not_false, on_bind, on_require_true]

/-- Two register operands that the instruction accepts. -/
theorem on_operands2 {ok : Tag → Bool} (hok : ∀ t, ok t = true → t ≠ 0x82#8 ∧ t ≠ 0x00#8) (c : CoreId) (a b : Reg) (s : State)
    (ha : ok ((s.regs c).read a).tag = true) (hb : ok ((s.regs c).read b).tag = true) :
    (operands2 c ok a b).on s = (.ok ((s.regs c).read a, (s.regs c).read b), s) := by
  have h := on_checkValues hok (ws := [(s.regs c).read a, (s.regs c).read b]) (by simp [ha, hb]) s
  simp only [operands2, on_bind, on_lift, run_readReg, h, on_pure]

/-- One register operand that the instruction accepts. -/
theorem on_operand1 {ok : Tag → Bool} (hok : ∀ t, ok t = true → t ≠ 0x82#8 ∧ t ≠ 0x00#8) (c : CoreId) (a : Reg) (s : State)
    (ha : ok ((s.regs c).read a).tag = true) : (operand1 c ok a).on s = (.ok ((s.regs c).read a), s) := by
  have h := on_checkValues hok (ws := [(s.regs c).read a]) (by simp [ha]) s
  simp only [operand1, on_bind, on_lift, run_readReg, h, on_pure]

/-- CSW.CC is the only change of `setCc` outside a checked pair. -/
theorem run_setCc (c : CoreId) (cc : BitVec 2) (s : State) (h : s.leads c = false) :
    setCc c cc s = ((), s.setRegs c ((s.regs c).withCc cc)) := by
  simp only [setCc, run_bind, run_modCtx, countWrite, run_get, State.leads_setRegs, h, Bool.false_eq_true, if_false, run_pure]
  rfl

/-- A result and CSW.CC, outside a checked pair. -/
theorem run_putResult (c : CoreId) (d : Reg) (w : TW) (cc : BitVec 2) (s : State) (h : s.leads c = false) :
    putResult c d w cc s = ((), s.setRegs c (((s.regs c).write d w).withCc cc)) := by
  simp only [putResult, run_bind, run_writeReg c d w s h, run_setCc _ _ _ ((State.leads_setRegs _ _ _ _).trans h), State.regs_setRegs, State.setRegs_setRegs]

/-- A raw instruction on two accepted registers. -/
theorem on_rawOp (c : CoreId) (d a b : Reg) (f : Word → Word → Word × BitVec 2) (s : State) (hl : s.leads c = false)
    (ha : rawTag ((s.regs c).read a).tag = true) (hb : rawTag ((s.regs c).read b).tag = true) :
    (rawOp c d a b f).on s = (.ok (), s.setRegs c (((s.regs c).write d
      ⟨rawResult ((s.regs c).read a).tag ((s.regs c).read b).tag, (f ((s.regs c).read a).val ((s.regs c).read b).val).1⟩).withCc
        (f ((s.regs c).read a).val ((s.regs c).read b).val).2)) := by
  simp only [rawOp, on_bind, on_operands2 (fun _ => rawTag_good) c a b s ha hb, on_lift, run_putResult _ _ _ _ _ hl]

/-- A raw instruction on an accepted register and an immediate. -/
theorem on_rawImm (c : CoreId) (d a : Reg) (imm : Word) (f : Word → Word → Word × BitVec 2) (s : State) (hl : s.leads c = false)
    (ha : rawTag ((s.regs c).read a).tag = true) :
    (rawImm c d a imm f).on s = (.ok (), s.setRegs c (((s.regs c).write d
      ⟨rawResult ((s.regs c).read a).tag ((s.regs c).read a).tag, (f ((s.regs c).read a).val imm).1⟩).withCc
        (f ((s.regs c).read a).val imm).2)) := by
  simp only [rawImm, on_bind, on_operand1 (fun _ => rawTag_good) c a s ha, on_lift, run_putResult _ _ _ _ _ hl]

/-- A division by a divisor that is not zero. -/
theorem on_divOp (c : CoreId) (d a b : Reg) (f : Word → Word → Word × BitVec 2) (s : State) (hl : s.leads c = false)
    (ha : rawTag ((s.regs c).read a).tag = true) (hb : rawTag ((s.regs c).read b).tag = true) (hz : ((s.regs c).read b).val ≠ 0#64) :
    (divOp c d a b f).on s = (.ok (), s.setRegs c (((s.regs c).write d
      ⟨rawResult ((s.regs c).read a).tag ((s.regs c).read b).tag, (f ((s.regs c).read a).val ((s.regs c).read b).val).1⟩).withCc
        (f ((s.regs c).read a).val ((s.regs c).read b).val).2)) := by
  simp only [divOp, on_bind, on_operands2 (fun _ => rawTag_good) c a b s ha hb, decide_eq_false hz, Bool.not_false, on_require_true,
    on_lift, run_putResult _ _ _ _ _ hl]

/-- A division by zero. -/
theorem on_divOp_zero (c : CoreId) (d a b : Reg) (f : Word → Word → Word × BitVec 2) (s : State)
    (ha : rawTag ((s.regs c).read a).tag = true) (hb : rawTag ((s.regs c).read b).tag = true) (hz : ((s.regs c).read b).val = 0#64) :
    (divOp c d a b f).on s = (.error (exc0 0x19#8), s) := by
  simp only [divOp, on_bind, on_operands2 (fun _ => rawTag_good) c a b s ha hb, hz, decide_true, Bool.not_true, on_require_false]

/-- A comparison of two accepted registers. -/
theorem on_compareOp (c : CoreId) (a b : Reg) (f : Word → Int) (s : State) (hl : s.leads c = false)
    (ha : rawTag ((s.regs c).read a).tag = true) (hb : rawTag ((s.regs c).read b).tag = true) :
    (compareOp c a b f).on s = (.ok (), s.setRegs c ((s.regs c).withCc (ccCompare (f ((s.regs c).read a).val) (f ((s.regs c).read b).val)))) := by
  simp only [compareOp, on_bind, on_operands2 (fun _ => rawTag_good) c a b s ha hb, on_lift, run_setCc _ _ _ hl]

/-- A comparison of an accepted register and an immediate. -/
theorem on_compareImm (c : CoreId) (a : Reg) (imm : Word) (f : Word → Int) (s : State) (hl : s.leads c = false)
    (ha : rawTag ((s.regs c).read a).tag = true) :
    (compareImm c a imm f).on s = (.ok (), s.setRegs c ((s.regs c).withCc (ccCompare (f ((s.regs c).read a).val) (f imm)))) := by
  simp only [compareImm, on_bind, on_operand1 (fun _ => rawTag_good) c a s ha, on_lift, run_setCc _ _ _ hl]

/-- MULW and MULWU outside a checked pair: only the pending product changes. -/
theorem on_wideOp (c : CoreId) (a b : Reg) (f : Word → Word → Int) (s : State) (hl : s.leads c = false)
    (ha : rawTag ((s.regs c).read a).tag = true) (hb : rawTag ((s.regs c).read b).tag = true) :
    (wideOp c a b f).on s = (.ok (), s.setRegs c { s.regs c with
      prodNew := some (wideProduct (f ((s.regs c).read a).val ((s.regs c).read b).val)) }) := by
  simp only [wideOp, on_bind, on_operands2 (fun _ => rawTag_good) c a b s ha hb, on_lift, run_modRegs, run_foldEvent,
    State.leads_setRegs, hl]

end Sys2Proof.Machine
end

