-- ==== Sys2Proof/Tests/Slice0.lean ====
section
/-! SUPPORT. Tests: ill-formed terms that WellFormed refuses, decoding of words written out from the spec, single steps with results taken from
the spec, and for every statement a state and operands that meet its hypotheses. -/

open Sys2Proof Sys2Proof.Machine

namespace Sys2Proof.Tests

set_option Elab.async false

/-! ### A small machine: Operational, channel 0 Ready with 1 GiB, core 0 of the split pair 0 running at 0x1000 -/

/-- A Ready channel of 1 GiB at PA 0. -/
def chan0 : Channel :=
  { Reset.channel with st := 3, mode := 0#2, n := 1, pos := 0, base := 0, cap := 1, wm := 262144, agwm := 262144, gib := 1 }

/-- Registers of the running core. -/
def regs0 : Regs := Reset.regs.setCtx { Reset.ctx with pc := 0x1000#64 }

/-- A line whose first words are given, the rest unset. -/
def line (ws : List TW) : Line := Vector.ofFn (fun i => ws.getD i.val ⟨0#8, 0#64⟩)

/-- The machine with core 0 at given registers, the line at its pc in its L2. -/
def at' (r : Regs) : State :=
  let s := State.reset
  { s with
    dev := { s.dev with mode := 2 }, chans := setUnit s.chans 0 chan0
    fisin := { s.fisin with rdy0 := 0xFFFFFFFFFFFFFF#64, rdy1 := 0#64 }
    cores := setUnit s.cores 0 { Reset.core with run := .running, regs := r, l2 := [(0x40, ⟨.e, line [], 0⟩)], l2lru := lruUsed [] 0x40 0 4 }
    dir := [(0x40, .owned 0)] }

/-- The machine with registers written. -/
def with' (l : List (Reg × TW)) : State := at' (l.foldl (fun r e => r.write e.1 e.2) regs0)

/-- The machine with its context changed. -/
def inCtx (f : Ctx → Ctx) (l : List (Reg × TW)) : State := at' ((l.foldl (fun r e => r.write e.1 e.2) regs0).inCtx f)

/-- A fixnum, a raw word. -/
def fx (v : Word) : TW := ⟨0x01#8, v⟩
def rw (v : Word) : TW := ⟨0x05#8, v⟩

/-- What an execution answers, when it does not stop, and the state it leaves. -/
def does {α : Type} (m : Exec α) (s : State) : Option (α × State) :=
  match m.run s with
  | (.ok a, t) => some (a, t)
  | (.error _, _) => none

/-- The state after the words of row `i` are fetched. -/
def fetched (s : State) (c : CoreId) (i : Instr) : State := ((fetchInsn c (lenOf (insnOf i (s.ctx c)).word)).run s).2

/-- No checked pair holds a line until its verdict. -/
def unheld (s : State) : Bool := (List.finRange 24).all (fun p => (s.pair p).windows.all (fun w => decide (w.line = none)))

theorem unheld_sound {s : State} (h : unheld s = true) : ∀ p, ∀ w ∈ (s.pair p).windows, w.line = none := by
  intro p w hw
  have := List.all_eq_true.mp (List.all_eq_true.mp h p (List.mem_finRange p)) w hw
  simpa using this

/-- `State.Steady` as a check. -/
def steady (s : State) : Bool := s.alive && !s.chans.any (·.waits) && unheld s

theorem steady_sound {s : State} (h : steady s = true) : s.Steady := by
  simp only [steady, Bool.and_eq_true, Bool.not_eq_true'] at h
  exact ⟨h.1.1, h.1.2, unheld_sound h.2⟩

/-- `Issues` as a check. -/
def issues (s : State) (c : CoreId) (i : Instr) : Bool :=
  let s1 := fetched s c i
  s.mayIssue c && !s.leads c && !s1.leads c && !(s.pair (pairOf c)).stepping &&
  (s.due c ((s.regs c).holdsLevels (insnOf i (s.ctx c)).word)).isNone && !(s.regs c).deliveryDue i &&
  !(s.regs c).drainDue && (s.debugDue c).isNone && unheld s && (does (fetchInsn c (lenOf (insnOf i (s.ctx c)).word)) s).isSome &&
  !s1.chans.any (·.waits) &&
  decide ((s1.regs c).fdq.length ≤ 4) && i.wellFormed && (!deepReserved i || decide ((s.ctx c).csw.fd ≠ 2#2)) &&
  decide (privNeeded i (s.ctx c) ≤ (s1.ctx c).csw.priv.toNat)

theorem issues_sound {s : State} {c : CoreId} {i : Instr} (h : issues s c i = true) : Issues s c i (fetched s c i) := by
  simp only [issues, Bool.and_eq_true, Bool.not_eq_true', Option.isNone_iff_eq_none, decide_eq_true_eq, Bool.or_eq_true] at h
  obtain ⟨⟨⟨⟨⟨⟨⟨⟨⟨⟨⟨⟨⟨⟨h1, h2⟩, h3⟩, h4⟩, h5⟩, h6⟩, h7⟩, h8⟩, h9⟩, h10⟩, hw⟩, h11⟩, h12⟩, h13⟩, h14⟩ := h
  refine ⟨h1, h2, h3, h4, h5, h6, h7, h8, unheld_sound h9, ?_, hw, h11, h12, fun hd => ?_, h14⟩
  · unfold does at h10
    unfold fetched
    split at h10
    · rename_i e; exact Prod.ext (by simpa using congrArg Prod.fst e) rfl
    · simp at h10
  · simpa [hd] using h13

/-- A row issues, its fetch leaves the registers, and the core goes on alone. -/
def ready (s : State) (i : Instr) : Bool := issues s 0 i && decide ((fetched s 0 i).regs 0 = s.regs 0)

/-- The machine with a line in the L2 of core 0. -/
def holding (s : State) (n : Nat) (st : Mesi) (ws : List TW) : State :=
  { s.setCore 0 { s.core 0 with l2 := (s.core 0).l2.put n ⟨st, line ws, 0⟩, l2lru := lruUsed (s.core 0).l2lru (n % 1024) 0 4 } with dir := s.dir.put n (.owned 0) }

/-- An access translates, and the walk leaves the registers and the store buffer. -/
def translates (s : State) (acc : Acc) (va : Word) (deny : PaKind → MemType → Bool) : Option (Xl × State) :=
  match does (translate 0 acc va deny) s with
  | some (t, u) => if u.regs 0 = s.regs 0 ∧ u.leads 0 = s.leads 0 ∧ (u.core 0).stbuf = (s.core 0).stbuf ∧ u.chans.any (·.waits) = false then some (t, u) else none
  | none => none

/-- The L2 of core 0 holds the line of an access. -/
def hits (s : State) (t : Xl) : Bool :=
  decide (t.mt = .cacheable) && (s.core 0).l2Use && ((s.core 0).l2.look (lineOf t.pa)).isSome &&
  (s.core 0).miss.all (fun m => !decide (m.line = lineOf t.pa)) && !s.deferredFor (lineOf t.pa) 0

/-- `Bare` for core 0 as a check. -/
def bare (s : State) : Bool :=
  !s.leads 0 && !(s.regs 0).s1en && (List.finRange 4).all (fun j => !((s.regs 0).dw.get j).ctl.getLsbD 0)

theorem bare_sound {s : State} (h : bare s = true) : Bare s 0 := by
  simp only [bare, Bool.and_eq_true, Bool.not_eq_true'] at h
  exact ⟨h.1.1, h.1.2, fun j => by simpa using List.all_eq_true.mp h.2 j (List.mem_finRange j)⟩

/-- `InMemory` for core 0 as a check. -/
def inMemory (s : State) (va : Word) : Bool :=
  decide (va >>> 52 = 0#64) && (match s.paKind (toPa va) with | .memory _ => true | _ => false) && s.memReady (toPa va) && s.homeReach 0 (toPa va)

theorem inMemory_sound {s : State} {va : Word} (h : inMemory s va = true) : InMemory s 0 va := by
  simp only [inMemory, Bool.and_eq_true, decide_eq_true_eq] at h
  refine ⟨h.1.1.1, ?_, h.1.2, h.2⟩
  have := h.1.1.2
  split at this
  · rename_i ch e; exact ⟨ch, e⟩
  · cases this

/-- The line that the L2 of core 0, in use, holds of an address. -/
def heldLine (s : State) (pa : Pa) : Option L2Line :=
  if (s.core 0).l2Use && (s.core 0).miss.all (fun m => !decide (m.line = lineOf pa)) && !s.deferredFor (lineOf pa) 0
  then (s.core 0).l2.look (lineOf pa) else none

theorem heldLine_sound {s : State} {pa : Pa} {l : L2Line} (h : heldLine s pa = some l) : Holds s 0 pa l := by
  unfold heldLine at h
  split at h
  · rename_i e
    simp only [Bool.and_eq_true, Bool.not_eq_true'] at e
    exact ⟨e.1.1, h, fun m hm => by simpa using List.all_eq_true.mp e.1.2 m hm, e.2⟩
  · cases h

/-- The word that core 0 finds at an address. -/
def readAt (s : State) (va : Word) : Option TW :=
  if inMemory s va then (heldLine s (toPa va)).map (fun l => s.forward 0 (toPa va) (l.data.get (wordIx (toPa va)))) else none

theorem readAt_sound {s : State} {va : Word} {w : TW} (h : readAt s va = some w) : Reads s 0 va w := by
  unfold readAt at h
  split at h
  · rename_i e
    cases g : heldLine s (toPa va) with
    | none => simp [g] at h
    | some l => simp only [g, Option.map_some, Option.some.injEq] at h; exact ⟨inMemory_sound e, l, heldLine_sound g, h.symm⟩
  · cases h

/-- `Bytes` for core 0 as a check. -/
def bytesAt (s : State) (va : Word) (bs : List Byte) : Bool :=
  (List.range bs.length).all (fun i => match readAt s (va + BitVec.ofNat 64 i) with
    | some w => decide (w.tag ≠ 0x82#8) && decide (w.tag ≠ 0x00#8) && !reservedTag w.tag && decide (bs[i]? = some (byteOf w.val ((va.toNat + i) % 8)))
    | none => false)

theorem bytesAt_sound {s : State} {va : Word} {bs : List Byte} (h : bytesAt s va bs = true) : Bytes s 0 va bs := by
  intro i hi
  have e := List.all_eq_true.mp h i (List.mem_range.mpr hi)
  split at e
  · rename_i w g
    simp only [Bool.and_eq_true, decide_eq_true_eq, Bool.not_eq_true'] at e
    exact ⟨w, readAt_sound g, e.1.1.1, e.1.1.2, e.1.2, e.2⟩
  · cases e

/-- `Writable` for core 0 as a check, in words that are no poison. -/
def writableAt (s : State) (va : Word) (n : Nat) : Bool :=
  (List.range n).all (fun i => (readAt s (va + BitVec.ofNat 64 i)).any (fun w => decide (w.tag ≠ 0x82#8)))

theorem writableAt_sound {s : State} {va : Word} {n : Nat} (h : writableAt s va n = true) : Writable s 0 va n := by
  intro i hi
  have e := List.all_eq_true.mp h i (List.mem_range.mpr hi)
  cases g : readAt s (va + BitVec.ofNat 64 i) with
  | none => simp [g] at e
  | some w => simp only [g, Option.any_some, decide_eq_true_eq] at e; exact ⟨w, readAt_sound g, Or.inl e⟩

/-- A run that `does` reports is that run. -/
theorem does_run {α : Type} {m : Exec α} {s t : State} {a : α} (h : does m s = some (a, t)) : m.run s = (.ok a, t) := by
  unfold does at h
  split at h
  · rename_i e; simp only [Option.some.injEq, Prod.mk.injEq] at h; exact Prod.ext (by simpa [h.1] using congrArg Prod.fst e) (by simp [e, h.2])
  · cases h

/-- `HasWord` for core 0 as a check. -/
def hasWord (s : State) (pa : Pa) (v : Word) : Bool :=
  (match s.paKind pa with | .memory _ => true | _ => false) && s.memReady pa && s.homeReach 0 pa && (s.core 0).l2Use &&
  match (s.core 0).l2.look (lineOf pa) with
  | some l =>
    let w := s.forward 0 pa (l.data.get (wordIx pa))
    decide (lruUsed (s.core 0).l2lru (lineOf pa % 1024) l.way 4 = (s.core 0).l2lru) && decide (w.val = v) && decide (w.tag ≠ 0x82#8)
  | none => false

theorem hasWord_sound {s : State} {pa : Pa} {v : Word} (h : hasWord s pa v = true) : HasWord s 0 pa v := by
  simp only [hasWord, Bool.and_eq_true] at h
  obtain ⟨⟨⟨⟨hk, hm⟩, hr⟩, hu⟩, hl⟩ := h
  refine ⟨?_, hm, hr, ?_⟩
  · split at hk
    · rename_i ch e; exact ⟨ch, e⟩
    · cases hk
  · split at hl
    · rename_i l e
      simp only [Bool.and_eq_true, decide_eq_true_eq] at hl
      exact ⟨l, ⟨hu, e, hl.1.1⟩, hl.1.2, hl.2⟩
    · cases hl

/-- Core 0 finds a descriptor in its L2. -/
def described (s : State) (pa : Pa) (d : Desc) : Bool :=
  hasWord s pa d.w0 && hasWord s (pa + 8#52) d.w1 && hasWord s (pa + 16#52) d.w2 && hasWord s (pa + 24#52) d.w3

theorem described_sound {s : State} {pa : Pa} {d : Desc} (h : described s pa d = true) : readDesc 0 pa s = (.ok d, s) := by
  simp only [described, Bool.and_eq_true] at h
  exact run_readDesc (hasWord_sound h.1.1.1) (hasWord_sound h.1.1.2) (hasWord_sound h.1.2) (hasWord_sound h.2)

/-- The effective address `0(r4)` of an access, r4 a raw word. -/
theorem raw_address {s : State} {v : Word} (n k : Nat) (h : (s.regs 0).read 4#5 = rw v) :
    (effAddr 0 ⟨4#5, 0#2, 0#12⟩ n k).run s = (.ok ⟨v, none⟩, s) := by
  have := on_effAddr_raw (s := s) (c := 0) (m := ⟨4#5, 0#2, 0#12⟩) (scale := n) (adv := k) rfl (by rw [h]; rfl)
  simpa [Exec.on, h, rw] using this

/-- Every row of a list issues. -/
theorem issues_each {s : State} {c : CoreId} {l : List Instr} (h : l.all (issues s c) = true) : ∀ i ∈ l, Issues s c i (fetched s c i) :=
  fun i hi => issues_sound (List.all_eq_true.mp h i hi)

/-! ### What meets the hypotheses of the statements: integer instructions -/

/-- IntegerArithmetic: a fixnum −1 and a raw 0x41, which is a shift of 1. -/
theorem meets_IntegerArithmetic :
    let s := with' [(4#5, fx 0xFFFFFFFFFFFFFFFF#64), (5#5, rw 0x41#64)]
    rawTag ((s.regs 0).read 4#5).tag = true ∧ rawTag ((s.regs 0).read 5#5).tag = true ∧
    [Instr.add 0 4#5 4#5 5#5, .sub 0 0#5 4#5 5#5, .mul 0 31#5 4#5 4#5, .and 0 1#5 4#5 5#5, .or 0 1#5 4#5 5#5, .xor 0 1#5 4#5 5#5,
      .shl 0 1#5 4#5 5#5, .shr 0 1#5 4#5 5#5, .sar 0 1#5 4#5 5#5].all (ready s) = true := by decide +kernel

theorem meets_IntegerImmediate :
    let s := with' [(4#5, fx 0x8000000000000000#64)]
    rawTag ((s.regs 0).read 4#5).tag = true ∧
    [Instr.addi 0 1#5 4#5 0x8000#16, .muli 0 1#5 4#5 0xFFFF#16, .andi 0 1#5 4#5 0xFFFF#16, .ori 0 1#5 4#5 0xFFFF#16, .xori 0 1#5 4#5 1#16,
      .shi 0 1#5 4#5 0#2 63#6, .shi 0 1#5 4#5 1#2 63#6, .shi 0 1#5 4#5 2#2 63#6, .cmpi 0 4#5 0x8000#16, .cmpui 0 4#5 0xFFFF#16].all (ready s)
      = true := by decide +kernel

/-- IntegerDivision: −2^63 by −1, the corner of R60. -/
theorem meets_IntegerDivision :
    let s := with' [(4#5, fx 0x8000000000000000#64), (5#5, fx 0xFFFFFFFFFFFFFFFF#64)]
    rawTag ((s.regs 0).read 4#5).tag = true ∧ ((s.regs 0).read 5#5).val ≠ 0#64 ∧ rawTag ((s.regs 0).read 5#5).tag = true ∧
    [Instr.div 0 1#5 4#5 5#5, .divu 0 1#5 4#5 5#5, .rem 0 1#5 4#5 5#5, .remu 0 1#5 4#5 5#5].all (ready s) = true := by decide +kernel

theorem meets_Compares :
    let s := with' [(4#5, fx 0x8000000000000000#64), (5#5, rw 1#64), (6#5, ⟨0x7F#8, 1#64⟩)]
    rawTag ((s.regs 0).read 4#5).tag = true ∧ rawTag ((s.regs 0).read 5#5).tag = true ∧ valueTag ((s.regs 0).read 6#5).tag = true ∧
    [Instr.cmp 0 4#5 5#5, .cmpu 0 4#5 5#5, .cmpw 0 4#5 6#5].all (ready s) = true := by decide +kernel

theorem meets_MovesAndConstants :
    let s := with' [(4#5, ⟨0x40#8, 0x2000#64⟩), (5#5, rw 1#64)]
    let w := (s.regs 0).read 4#5
    valueTag w.tag = true ∧ rawTag ((s.regs 0).read 5#5).tag = true ∧ reservedTag 0x44#8 = false ∧ payloadOk 0x44#8 w.val = true ∧
    [Instr.mov 0 1#5 4#5, .ldi 0 1#5 0x8000#16, .ldih 0 5#5 3#2 0xFFFF#16, .ldih 0 5#5 0#2 0#16, .tagof 0 1#5 6#5, .tagset 0 1#5 4#5 0x44#8].all
      (ready s) = true := by decide +kernel

theorem meets_WideProducts :
    let s := with' [(4#5, fx 0xFFFFFFFFFFFFFFFF#64), (5#5, rw 0x8000000000000000#64)]
    rawTag ((s.regs 0).read 4#5).tag = true ∧ rawTag ((s.regs 0).read 5#5).tag = true ∧
    [Instr.mulw 0 4#5 5#5, .mulwu 0 4#5 5#5].all (ready s) = true := by decide +kernel

/-! ### Floating point -/

/-- 1.0, 2.0 and a quiet NaN in binary64, and 1.0 in binary32. -/
def fps : List (Reg × TW) := [(4#5, ⟨0x02#8, 0x3FF0000000000000#64⟩), (5#5, ⟨0x02#8, 0x4000000000000000#64⟩),
  (6#5, ⟨0x02#8, 0x7FF8000000000001#64⟩), (7#5, rw 0x3F800000#64), (3#5, fx 0xFFFFFFFFFFFFFFFD#64)]

/-- FloatArithmetic, trap mode: normal operands and results, no enable set. -/
theorem meets_FloatArithmetic :
    let s := with' fps
    let r := s.regs 0
    let d : FpMode := ⟨0#3, false⟩
    let f : FpMode := ⟨4#3, true⟩
    (∀ p ∈ [(Instr.fadd 0 1#5 4#5 5#5 d, false, false, [4#5, 5#5], 0#3, on2 (fpAdd fmtD 0)),
        (.fsub 0 1#5 4#5 5#5 d, false, false, [4#5, 5#5], 0#3, on2 (fpSub fmtD 0)), (.fmul 0 1#5 7#5 7#5 f, true, true, [7#5, 7#5], 4#3, on2 (fpMul fmtF)),
        (.fdiv 0 1#5 4#5 5#5 d, false, false, [4#5, 5#5], 0#3, on2 (fpDiv fmtD)), (.fsqrt 0 1#5 5#5 d, false, false, [5#5], 0#3, on1 (fpSqrt fmtD)),
        (.fmadd 0 1#5 7#5 7#5 7#5 f, true, true, [7#5, 7#5, 7#5], 4#3, on3 (fpFma fmtF 3 false false)),
        (.fmsub 0 1#5 4#5 5#5 5#5 d, false, false, [4#5, 5#5, 5#5], 0#3, on3 (fpFma fmtD 0 true false)),
        (.fnmadd 0 1#5 4#5 5#5 5#5 d, false, false, [4#5, 5#5, 5#5], 0#3, on3 (fpFma fmtD 0 false true)),
        (.fnmsub 0 1#5 4#5 5#5 5#5 d, false, false, [4#5, 5#5, 5#5], 0#3, on3 (fpFma fmtD 0 true true)),
        (.fcvtS 0 1#5 4#5 0#3, false, true, [4#5], 0#3, on1 (fpConvert fmtD fmtF)), (.fcvtD 0 1#5 7#5 0#3, true, false, [7#5], 0#3, on1 (fpConvert fmtF fmtD))],
      let enc := p.2.2.2.1.map (fun q => fpBits p.2.1 (r.read q).val)
      let out := (fmtOf p.2.2.1).round (r.ctx.rounding p.2.2.2.2.1) (p.2.2.2.2.2 (enc.map ((fmtOf p.2.1).decode r.flushes)))
      (∀ q ∈ p.2.2.2.1, fpTag p.2.1 (r.read q).tag = true) ∧ out.tiny = false ∧ (∀ q ∈ enc, (fmtOf p.2.1).subnormal q = false) ∧
      out.flags &&& r.enables = 0#5 ∧ ready s p.1 = true) := by decide +kernel

/-- FloatDeferral: 1.0 + 2^−60 is inexact, and the NX enable is set. -/
theorem meets_FloatDeferral :
    let s := inCtx (fun x => { x with fpctl := 0xF8#64 }) [(4#5, ⟨0x02#8, 0x3FF0000000000000#64⟩), (5#5, ⟨0x02#8, 0x3C30000000000000#64⟩)]
    let r := s.regs 0
    let x := fpBits false (r.read 4#5).val
    let y := fpBits false (r.read 5#5).val
    let out := fmtD.round 0 (fpAdd fmtD 0 (fmtD.decode r.flushes x) (fmtD.decode r.flushes y))
    fpTag false (r.read 4#5).tag = true ∧ fpTag false (r.read 5#5).tag = true ∧ fmtD.subnormal x = false ∧ fmtD.subnormal y = false ∧
    out.tiny = false ∧ out.flags &&& r.enables ≠ 0#5 ∧ r.fdq.length < 4 ∧ ready s (.fadd 0 1#5 4#5 5#5 ⟨0#3, false⟩) = true := by decide +kernel

/-- FloatMoves: 1.0 against a quiet NaN, 1.0 to and from an integer, and a sign. -/
theorem meets_FloatMoves :
    let s := with' fps
    let r := s.regs 0
    let one := fpBits false (r.read 4#5).val
    let nan := fpBits false (r.read 6#5).val
    let d : FpMode := ⟨0#3, false⟩
    (∀ q : Reg, q ∈ [4#5, 6#5] → fpTag false (r.read q).tag = true) ∧ fmtD.subnormal one = false ∧ fmtD.subnormal nan = false ∧
    (fpCompare fmtD (fmtD.decode true one) (fmtD.decode true nan)).2 &&& r.enables = 0#5 ∧
    (fpToInt 0 (fmtD.decode true one)).2 &&& r.enables = 0#5 ∧ rawTag (r.read 3#5).tag = true ∧
    (fmtD.round 0 (fpOfInt (r.read 3#5).val.toInt)).flags &&& r.enables = 0#5 ∧
    [Instr.fcmp 0 4#5 6#5 false, .fneg 0 1#5 6#5 false, .fabs 0 1#5 6#5 false, .fcvtX 0 1#5 4#5 d, .fcvtF 0 1#5 3#5 d].all (ready s) = true := by
  decide +kernel

/-- FloatRounding: the least and the greatest normal binary64 number; the canonical NaN codes 1 and quiet. -/
theorem meets_FloatRounding :
    (0 < 1 ∧ 1 < fmtD.eones ∧ 0 < 2 ^ fmtD.frac) ∧ (0 < fmtD.eones - 1 ∧ fmtD.eones - 1 < fmtD.eones ∧ 2 ^ fmtD.frac - 1 < 2 ^ fmtD.frac) ∧
    fmtD.signalling 1 = true ∧ fmtD.signalling (2 ^ 51 + 1) = false := by decide +kernel

/-! ### Generic arithmetic, control flow and system registers -/

theorem meets_GenericFixnums :
    let s := with' [(4#5, fx 0xFFFFFFFFFFFFFFFA#64), (5#5, fx 2#64)]
    let x := ((s.regs 0).read 4#5).val.toInt
    let y := ((s.regs 0).read 5#5).val.toInt
    ((s.regs 0).read 4#5).tag = 0x01#8 ∧ ((s.regs 0).read 5#5).tag = 0x01#8 ∧ y ≠ 0 ∧ x = -3 * y ∧ (-3 : Int) < 2 ^ 63 ∧ x ≠ -(2 ^ 63) ∧
    (∀ v ∈ [x + y, x - y, x * y], -(2 ^ 63) ≤ v ∧ v < 2 ^ 63) ∧
    [Instr.gadd 0 1#5 4#5 5#5, .gsub 0 1#5 4#5 5#5, .gmul 0 1#5 4#5 5#5, .gdiv 0 1#5 4#5 5#5, .gcmp 0 4#5 5#5, .gneg 0 1#5 4#5].all (ready s)
      = true := by decide +kernel

theorem meets_Branches :
    let s := with' [(4#5, rw 0x2000#64)]
    let w := (s.regs 0).read 4#5
    rawTag w.tag = true ∧ w.val.extractLsb' 0 2 = 0#2 ∧
    [Instr.b 0 0x2000000#26, .call 0 0x1FFFFFF#26, .bc 0 1#4 0x200000#22, .bc 0 0#4 0#22, .jmpr 0 4#5, .callr 0 4#5].all (ready s) = true := by
  decide +kernel

theorem meets_Windows :
    let s := inCtx (fun x => { x with wstat := { x.wstat with ow := 3#5, cw := 31#5 } }) []
    let u := at' ((s.regs 0).write 15#5 (rw 0x2000#64))
    (s.regs 0).s1en = false ∧ (s.ctx 0).csw.fd ≠ 1#2 ∧ ((s.ctx 0).wstat.cw - (s.ctx 0).wstat.ow).toNat + 1 < 30 ∧
    (s.ctx 0).wstat.cw ≠ (s.ctx 0).wstat.ow ∧ rawTag ((u.regs 0).read 15#5).tag = true ∧ ((u.regs 0).read 15#5).val.extractLsb' 0 2 = 0#2 ∧
    [Instr.save 0, .restore 0].all (ready s) = true ∧ ready u (.ret 0) = true := by decide +kernel

theorem meets_Barriers :
    let s := with' []
    (s.core 0).stbuf = [] ∧ ((List.range 8).filter (fun i => ((s.core 0).lockD ||| 0x3F#8).getLsbD i)).length ≤ 6 ∧
    [Instr.fbar 0, .mbar 0, .wunlock 0 true 0xFF#8, .wlock 0 false 0x3F#8].all (ready s) = true := by decide +kernel

/-- SystemReads: every register number, with no interrupt pending. -/
theorem meets_SystemReads :
    let s := with' []
    ([0x000#12, 0x001#12, 0x002#12, 0x003#12, 0x004#12, 0x008#12, 0x009#12, 0x00A#12, 0x00C#12, 0x018#12, 0x019#12, 0x01A#12, 0x030#12, 0x040#12, 0x041#12,
      0x042#12, 0x100#12, 0x13F#12, 0x140#12, 0x141#12, 0x142#12, 0x143#12, 0x144#12, 0x145#12, 0x200#12, 0x201#12, 0x202#12, 0x210#12, 0x211#12, 0x300#12,
      0x301#12, 0x302#12, 0x303#12, 0x304#12, 0x305#12, 0x308#12, 0x30B#12, 0x340#12, 0x35F#12, 0x400#12, 0x401#12, 0x402#12, 0x403#12, 0x404#12, 0x408#12,
      0x420#12, 0x427#12, 0x500#12, 0x501#12, 0x502#12, 0x600#12, 0x601#12, 0x602#12, 0x603#12, 0x700#12, 0x707#12, 0x708#12, 0x70F#12, 0x710#12, 0x740#12,
      0x74F#12].all (fun n => ready s (.mfs 0 4#5 n))) = true ∧
    [Instr.mfp 0 4#5 false, .mfp 0 4#5 true].all (ready s) = true ∧ bestPending (s.core 0).ipend = none := by decide +kernel

/-- SystemReads: the queue's four entries once it is delivered, and a pending interrupt of level 1 that CSW does not admit. -/
theorem meets_SystemReads_held :
    let e : FdqEntry := { iword := 0#32, flags := 1#5, assist := false, repl := false, priv := 3#2, rm := 0#2, cw := 0#5, addr := 0x1000#64, opa := 0#64
                          opb := 0#64, opc := 0#64, result := 0#64, bank := 0 }
    let s := at' { regs0 with fdq := List.replicate 4 e, deliv := true }
    let i := (with' []).setCore 0 { (with' []).core 0 with ipend := [(0x90, 1#4)] }
    [0x220#12, 0x225#12, 0x238#12, 0x23D#12].all (fun n => ready s (.mfs 0 4#5 n)) = true ∧ (s.regs 0).fdq[3]? = some e ∧
    ready i (.mfs 0 4#5 0x008#12) = true ∧ bestPending (i.core 0).ipend = some (0x90, 1#4) := by decide +kernel

theorem meets_SystemWrites :
    let s := with' [(4#5, rw 0xFFFFFFFFFFFFFFFF#64)]
    rawTag ((s.regs 0).read 4#5).tag = true ∧
    ([0x018#12, 0x019#12, 0x030#12, 0x200#12, 0x201#12, 0x300#12, 0x301#12, 0x304#12, 0x400#12, 0x401#12, 0x402#12, 0x403#12, 0x420#12, 0x427#12,
      0x002#12, 0x003#12, 0x004#12, 0x00C#12, 0x142#12, 0x144#12, 0x145#12].all (fun n => ready s (.mts 0 4#5 n))) = true := by decide +kernel

theorem meets_SpecialWrites :
    let s := with' [(4#5, rw 0x3F34#64)]
    let v := ((s.regs 0).read 4#5).val
    rawTag ((s.regs 0).read 4#5).tag = true ∧ v.getLsbD 52 = false ∧ (s.regs 0).prod = none ∧ (s.pair (pairOf 0)).checked = false ∧
    [Instr.cswWrite 0 4#5, .gcctlWrite 0 4#5, .s2rootWrite 0 4#5, .ttinfoWrite 0 4#5, .productRegisterWrite 0 true 4#5,
      .productRegisterWrite 0 false 4#5, .debugSkip 0 4#5, .windowEndRequest 0 4#5, .spanRegisterWrite 0 0 0#2 4#5, .spanRegisterWrite 0 15 1#2 4#5,
      .spanRegisterWrite 0 1 2#2 4#5, .spanRegisterWrite 0 1 3#2 4#5].all (ready s) = true := by decide +kernel

/-! ### Writes with effects, traps and returns -/

/-- A descriptor's words: IP, and valid at Monitor privilege with UOK. -/
def desc (ip : Word) : List TW := [rw ip, rw 0#64, rw 0x30003#64, rw 0#64]

/-- A machine whose HDT at 0x6000 has the descriptor of entry `e` in a line that the L2 of core 0 holds. -/
def handled (s : State) (e : Nat) : State :=
  let s := s.setRegs 0 { s.regs 0 with hdtb := 0x6000#64 }
  holding s (0x180 + e / 2) .e (if e % 2 = 0 then desc 0x3000#64 else (List.replicate 4 (rw 0#64)) ++ desc 0x3000#64)

/-- A resident context in bank 1. -/
def bank1 (r : Regs) : Regs := r.setBank 1 { Reset.ctx with id := 7#16, csa := 0x8000#52, pc := 0x5000#64 }

/-- r4 holds `v`. -/
def r4 (v : Word) : State := with' [(4#5, rw v)]

/-- r4 asks CTXCTL to spill bank 1, whose window stack is at 0x2000, with the oldest window `ow` of window 1. -/
def spilling (ow : BitVec 5) : State :=
  let r := bank1 ((r4 5#64).regs 0)
  at' (r.setBank 1 { r.bank 1 with wsp := 0x2000#64, wstat := { (r.bank 1).wstat with cw := 1#5, ow := ow } })

theorem meets_SpecialWrites2 :
    ready (r4 8#64) (.tlbctlFlush 0 4#5) = true ∧ ready (r4 4#64) (.l2Disable 0 4#5) = true ∧ ready (r4 5#64) (.l2Enable 0 4#5) = true ∧
    ready (r4 6#64) (.l2FlushAndDisable 0 4#5) = true ∧ ready (r4 1#64) (.victimCacheDisable 0 4#5) = true ∧ ((r4 4#64).core 0).l2en = true ∧
    ((r4 4#64).core 0).fdbusy = false ∧ ready (r4 9#64) (.ctxctlDiscard 0 4#5) = true ∧ ready (r4 0xB#64) (.ctxctlDiscard 0 4#5) = true ∧
    rawTag (((r4 9#64).regs 0).read 4#5).tag = true := by decide +kernel

/-- A bank with both its windows in place, and one whose frames are all written. -/
theorem meets_SpecialWrites2_spill : ∀ p ∈ [(0#5, 2), (2#5, 0)],
    let s := spilling p.1
    let s1 := fetched s 0 (.ctxctlSpill 0 4#5)
    let x := (s1.regs 0).bank 1
    (1 : Fin 4) ≠ (s1.regs 0).cur ∧ x.id ≠ 0#16 ∧ (s1.regs 0).s1en = false ∧ (∀ ch, (s1.chan ch).retryact = false) ∧
    (if x.wstat.ow = x.wstat.cw + 1#5 then 0 else x.resident) = p.2 ∧ (s1.core 0).stbuf = [] ∧
    (∀ i < 2 * p.2, inMemory s1 (x.wsp + BitVec.ofNat 64 (64 * i)) = true) ∧
    (∀ i < 32, inMemory s1 (x.csa.setWidth 64 + BitVec.ofNat 64 (64 * i)) = true) ∧ ready s (.ctxctlSpill 0 4#5) = true := by decide +kernel

/-- SpecialWrites2, HDTB: sixteen pinned descriptors in eight lines of the L2. -/
def pinnedLines : State := (List.range 8).foldl (fun s i => holding s (0x1C0 + i) .s (desc 0x3000#64 ++ desc 0x3040#64)) (r4 0x6000#64)

theorem meets_SpecialWrites2_hdtb :
    ready pinnedLines (.hdtbWrite 0 4#5) = true ∧ ∀ i : Fin 16, ∀ j : Fin 4,
      readAt (fetched pinnedLines 0 (.hdtbWrite 0 4#5)) (0x6000#64 + BitVec.ofNat 64 (32 * (0x80 + i.val) + 8 * j.val)) =
        some ((if i.val % 2 = 0 then desc 0x3000#64 else desc 0x3040#64).getD j.val TW.zero) := by decide +kernel

theorem meets_EntryRegisters : regs0.mbank = false ∧ regs0.prod = none ∧ 0xFF < 256 := by decide +kernel

/-- TRAP 63 with its descriptor held. -/
def trapping : State := handled (with' []) 0x7F

/-- The descriptor of the tests. -/
def desc0 : Desc := ⟨0x3000#64, 0#64, 0x30003#64, 0#64⟩

theorem meets_TrapEnters :
    readDesc 0 (toPa ((fetched trapping 0 (.trap 0 63#6)).regs 0).hdtb + BitVec.ofNat 52 (32 * 0x7F)) (fetched trapping 0 (.trap 0 63#6)) =
      (.ok desc0, fetched trapping 0 (.trap 0 63#6)) ∧
    (desc0.invalid = false ∧ (trapping.ctx 0).csw.fd = 0#2 ∧ (trapping.regs 0).spill = [] ∧
      (trapping.ctx 0).wstat.owed = false ∧ ((trapping.ctx 0).wstat.cw + 1#5 - (trapping.ctx 0).wstat.ow).toNat < 30 ∧
      (trapping.regs 0).mbank = false ∧ (fetched trapping 0 (.trap 0 63#6)).goesOn 0 = true ∧ ready trapping (.trap 0 63#6) = true) :=
  ⟨described_sound (by decide +kernel), by decide +kernel⟩

/-- A fixnum 1 and a fixnum 0, with the descriptor of cause 0x19 held. -/
def dividing : State := handled (with' [(4#5, fx 1#64), (5#5, fx 0#64)]) 0x19

theorem meets_DivideByZero :
    readDesc 0 (toPa ((fetched dividing 0 (.div 0 1#5 4#5 5#5)).regs 0).hdtb + BitVec.ofNat 52 (32 * 0x19)) (fetched dividing 0 (.div 0 1#5 4#5 5#5)) =
      (.ok desc0, fetched dividing 0 (.div 0 1#5 4#5 5#5)) ∧
    (rawTag ((dividing.regs 0).read 4#5).tag = true ∧ rawTag ((dividing.regs 0).read 5#5).tag = true ∧ ((dividing.regs 0).read 5#5).val = 0#64 ∧
      (dividing.regs 0).fdq = [] ∧ (dividing.ctx 0).csw.fd = 0#2 ∧ (dividing.regs 0).spill = [] ∧ (dividing.regs 0).mbank = false ∧
      ((fetched dividing 0 (.div 0 1#5 4#5 5#5)).core 0).miss = (dividing.core 0).miss ∧ desc0.invalid = false ∧
      [Instr.div 0 1#5 4#5 5#5, .divu 0 1#5 4#5 5#5, .rem 0 1#5 4#5 5#5, .remu 0 1#5 4#5 5#5].all (ready dividing) = true) :=
  ⟨described_sound (by decide +kernel), by decide +kernel⟩

/-- ReturnFromTrap: one window above the oldest, k7 the return address and k6 a User CSW. -/
theorem meets_ReturnFromTrap :
    let s := inCtx (fun x => { x with wstat := { x.wstat with cw := 1#5 }, csw := { x.csw with fd := 1#2 } }) []
    let s := at' (((s.regs 0).write 23#5 (rw 0x2000#64)).write 22#5 (rw 0x34#64))
    let r := s.regs 0
    rawTag (r.read 23#5).tag = true ∧ rawTag (r.read 22#5).tag = true ∧ (r.read 23#5).val.extractLsb' 0 2 = 0#2 ∧
    (r.read 22#5).val.extractLsb' 0 2 ≠ 2#2 ∧ r.ctx.csw.fd ≠ 2#2 ∧ r.mbank = false ∧ r.deliv = false ∧ r.prod = none ∧
    r.ctx.wstat.cw ≠ r.ctx.wstat.ow ∧ ready s (.rtt 0) = true := by decide +kernel

/-- TagTrapReturns: TTINFO.BUSY set, the trapped instruction a GADD (major 0x0C, function 1). -/
theorem meets_TagTrapReturns :
    let s := inCtx (fun x => { x with wstat := { x.wstat with cw := 1#5, ttv := true, ttw := 1#5 }, ttinfo := 0x10C80#64, ttra := 0x2000#64 }) []
    let x := s.ctx 0
    let fn := x.ttinfo.extractLsb' 16 11
    (s.regs 0).s1en = false ∧ x.ttinfo.getLsbD 7 = true ∧ x.wstat.ttv = true ∧ x.wstat.cw = x.wstat.ttw ∧ x.wstat.cw ≠ x.wstat.ow ∧
    ¬ (x.ttinfo.extractLsb' 8 6 = 0x0E#6 ∧ fn = 4#11) ∧ ¬ (x.ttinfo.extractLsb' 8 6 = 0x0E#6 ∧ fn = 5#11) ∧ x.ttinfo.extractLsb' 0 5 ≠ 12#5 ∧
    [Instr.rttTd 0, .rttTs 0, .rttTr 0].all (ready s) = true := by decide +kernel

/-! ### Memory -/

/-- Registers of the address tests: r4 a base, r6 a pointer, r5 an index; modulo buffer 3 has 2^32 bytes, the largest. -/
def addressing : Regs :=
  (inCtx (fun x => { x with modbase := x.modbase.set 3 0x2000#64, modsize := x.modsize.set 3 0x100000000#64 })
    [(4#5, rw 0x2000#64), (5#5, fx 8#64), (6#5, ⟨0x40#8, 0x2010#64⟩)]).regs 0

/-- EffectiveAddress: each form; form 3 wraps at the buffer's end. -/
theorem meets_EffectiveAddress :
    Addresses addressing ⟨4#5, 0#2, 0xFFF#12⟩ 8 8 ⟨0x1FF8#64, none⟩ ∧ Addresses addressing ⟨6#5, 0#2, 0#12⟩ 8 8 ⟨0x2010#64, none⟩ ∧
    Addresses addressing ⟨4#5, 1#2, 0x2E0#12⟩ 8 8 ⟨0x2040#64, none⟩ ∧ Addresses addressing ⟨5#5, 2#2, 0xC00#12⟩ 8 8 ⟨0x2008#64, none⟩ ∧
    Addresses addressing ⟨5#5, 3#2, 0xC00#12⟩ 8 0xFFFFFFF8 ⟨0x2008#64, some (5#5, fx 0#64)⟩ :=
  ⟨Or.inl ⟨rfl, Or.inl rfl, by decide +kernel⟩, Or.inl ⟨rfl, Or.inr (by decide +kernel), by decide +kernel⟩,
    Or.inr (Or.inl ⟨rfl, Or.inl rfl, by decide +kernel⟩), Or.inr (Or.inr ⟨by decide, by decide +kernel, 3, by decide +kernel⟩),
    Or.inr (Or.inr ⟨by decide, by decide +kernel, 3, by decide +kernel⟩)⟩

/-- The memory operand `0(r4)`. -/
def m4 : MemOp := ⟨4#5, 0#2, 0#12⟩

/-- A machine whose r4 is the base 0x2000, of a line that core 0 holds. -/
def data (st : Mesi) (ws : List TW) (l : List (Reg × TW)) : State := holding (with' ((4#5, rw 0x2000#64) :: l)) 0x80 st ws

/-- r4 names a line that holds a fixnum. -/
def loading : State := data .e [fx 0x8081828384858687#64] [(5#5, fx 1#64)]

theorem meets_Loads :
    (effAddr 0 m4 8 8).run (fetched loading 0 (.ld 0 1#5 3#2 m4)) = (.ok ⟨0x2000#64, none⟩, fetched loading 0 (.ld 0 1#5 3#2 m4)) ∧
    ((translates (fetched loading 0 (.ld 0 1#5 3#2 m4)) .read 0x2000#64 (sizeDeny 8)).any (fun x => hits x.2 x.1 && !x.1.device &&
      (((x.2.core 0).l2.look (lineOf x.1.pa)).any (fun l => decide ((x.2.found 0 x.1 l).tag = 0x01#8)))) = true ∧
    ((loading.regs 0).watchHit false 0x2000#64 8).isNone = true ∧ (loading.ctx 0).gcctl.getLsbD 2 = false ∧
    [Instr.ld 0 1#5 3#2 m4, .ldt 0 1#5 m4, .lds 0 1#5 0#2 m4, .ld 0 1#5 2#2 m4].all (ready loading) = true) :=
  ⟨raw_address _ _ (by decide +kernel), by decide +kernel⟩

theorem meets_Stores :
    (effAddr 0 m4 1 1).run (fetched loading 0 (.st 0 5#5 0#2 m4)) = (.ok ⟨0x2000#64, none⟩, fetched loading 0 (.st 0 5#5 0#2 m4)) ∧
    ((translates (fetched loading 0 (.st 0 5#5 0#2 m4)) .write 0x2000#64 (sizeDeny 1)).any (fun x => hits x.2 x.1 && !x.1.device &&
      decide ((x.2.core 0).stbuf.length < 32)) = true ∧ (loading.ctx 0).gcctl = 0#64 ∧ ((loading.regs 0).watchHit true 0x2000#64 8).isNone = true ∧
    [Instr.st 0 5#5 3#2 m4, .st 0 5#5 0#2 m4].all (ready loading) = true) := ⟨raw_address _ _ (by decide +kernel), by decide +kernel⟩

/-- A store that waits for the line at 0x2000, which core 0 owns. -/
def draining : State :=
  let s := data .e [fx 1#64] []
  s.setCore 0 { s.core 0 with stbuf := [.word 0x2000#52 (fx 2#64) false] }

theorem meets_StoreDrains :
    draining.Steady ∧ (∃ l, Holds draining 0 0x2000#52 l ∧ l.st ≠ .s) ∧ (draining.core 0).stbuf = [.word 0x2000#52 (fx 2#64) false] ∧
    inBoot (lineOf 0x2000#52) = false :=
  ⟨steady_sound (by decide +kernel), ⟨⟨.e, line [fx 1#64], 0⟩, heldLine_sound (by decide +kernel), by decide⟩, by decide +kernel, by decide +kernel⟩

/-- The last byte of a word. -/
theorem meets_StoreDrains_bytes : (0x2007#52).toNat / 8 = (0x2000#52).toNat / 8 ∧ (0x2007#52).toNat % 8 + 1 ≤ 8 ∧ (7 : Nat) < 8 ∧
    (fx 1#64).tag ≠ 0x82#8 ∧ (0x2008#52).toNat / 8 ≠ (0x2000#52).toNat / 8 ∧ lineOf 0x2040#52 ≠ lineOf 0x203F#52 := by decide

theorem meets_CompareAndSwap :
    let s := data .e [fx 1#64] [(5#5, fx 2#64), (1#5, fx 1#64)]
    let s1 := fetched s 0 (.cas 0 1#5 4#5 5#5)
    ((s1.regs 0).read 4#5).tag = 0x05#8 ∧
    (match translates s1 .cas 0x2000#64 onlyCacheable with
      | some (t, s2) => hits s2 t && decide ((s2.core 0).stbuf = []) && !s2.leads 0 && !inBoot (lineOf t.pa)
      | none => false) = true ∧ valueTag ((s1.regs 0).read 1#5).tag = true ∧ (s1.regs 0).ctx.gcctl = 0#64 ∧
    ((s1.regs 0).watchHit false 0x2000#64 8).isNone = true ∧ ((s1.regs 0).watchHit true 0x2000#64 8).isNone = true ∧
    [Instr.cas 0 1#5 4#5 5#5, .cas 0 5#5 4#5 1#5].all (ready s) = true := by decide +kernel

/-- r4 names a cons, r5 a fixnum, and the allocation buffer has room from ALLOCPTR `p` on. -/
def listing (p : Word) : State :=
  holding (inCtx (fun x => { x with allocptr := p, alloclim := 0x2030#64 }) [(4#5, ⟨0x40#8, 0x2000#64⟩), (5#5, fx 3#64)]) 0x80 .e
    [fx 1#64, ⟨0x83#8, 2#64⟩]

/-- Lists: loads of a fixnum and of a shadow-return word. -/
theorem meets_Lists_loads : ∀ p ∈ [(Instr.head 0 1#5 4#5, 0x2000#64, fx 1#64), (.tail 0 1#5 4#5, 0x2008#64, ⟨0x83#8, 2#64⟩)],
    let s1 := fetched (listing 0x2010#64) 0 p.1
    Bare s1 0 ∧ Reads s1 0 p.2.1 p.2.2 ∧ Issues (listing 0x2010#64) 0 p.1 s1 := by
  intro p hp
  have h : ∀ p ∈ [(Instr.head 0 1#5 4#5, 0x2000#64, fx 1#64), (.tail 0 1#5 4#5, 0x2008#64, ⟨0x83#8, 2#64⟩)],
      let s1 := fetched (listing 0x2010#64) 0 p.1
      bare s1 = true ∧ readAt s1 p.2.1 = some p.2.2 ∧ issues (listing 0x2010#64) 0 p.1 = true := by decide +kernel
  exact ⟨bare_sound (h p hp).1, readAt_sound (h p hp).2.1, issues_sound (h p hp).2.2⟩

theorem meets_Lists_stores : ∀ p ∈ [(Instr.seth 0 4#5 5#5, 0x2000#64), (.sett 0 4#5 5#5, 0x2008#64)],
    let s1 := fetched (listing 0x2010#64) 0 p.1
    Bare s1 0 ∧ InMemory s1 0 p.2 ∧ Issues (listing 0x2010#64) 0 p.1 s1 := by
  intro p hp
  have h : ∀ p ∈ [(Instr.seth 0 4#5 5#5, 0x2000#64), (.sett 0 4#5 5#5, 0x2008#64)],
      let s1 := fetched (listing 0x2010#64) 0 p.1
      bare s1 = true ∧ inMemory s1 p.2 = true ∧ issues (listing 0x2010#64) 0 p.1 = true := by decide +kernel
  exact ⟨bare_sound (h p hp).1, inMemory_sound (h p hp).2.1, issues_sound (h p hp).2.2⟩

/-- Lists: CONS at a multiple of 16. -/
theorem meets_Lists_cons :
    let s := listing 0x2010#64
    let s1 := fetched s 0 (.cons 0 1#5 4#5 5#5)
    bare s1 = true ∧ (s1.core 0).stbuf = [] ∧ (0x2010#64 + 15#64 : Word) &&& ~~~15#64 = 0x2010#64 ∧ (0x2010#64 : Word).toNat + 16 ≤ 0x2030 ∧
    inMemory s1 0x2010#64 = true ∧ inMemory s1 0x2018#64 = true ∧ issues s 0 (.cons 0 1#5 4#5 5#5) = true := by decide +kernel

/-- Lists: CONS after a filler. -/
theorem meets_Lists_filler :
    let s := listing 0x2018#64
    let s1 := fetched s 0 (.cons 0 1#5 4#5 5#5)
    bare s1 = true ∧ (s1.core 0).stbuf = [] ∧ (0x2018#64 + 15#64 : Word) &&& ~~~15#64 = 0x2020#64 ∧ (0x2020#64 : Word).toNat + 16 ≤ 0x2030 ∧
    inMemory s1 0x2018#64 = true ∧ inMemory s1 0x2020#64 = true ∧ inMemory s1 0x2028#64 = true ∧
    issues s 0 (.cons 0 1#5 4#5 5#5) = true := by decide +kernel

theorem meets_CacheInstructions_address : Addresses ((data .e [] []).regs 0) m4 8 64 ⟨0x2000#64, none⟩ :=
  Or.inl ⟨rfl, Or.inl (by decide +kernel), by decide +kernel⟩

theorem meets_CacheInstructions : ∀ st ∈ [Mesi.e, .m],
    let s := data st [fx 1#64] []
    ∀ i ∈ [Instr.dzl 0 m4, .cpre 0 m4, .cflush 0 m4, .cinvLine 0 m4, .cinvAll 0],
      let s1 := fetched s 0 i
      ready s i = true ∧ bare s1 = true ∧ inMemory s1 0x2000#64 = true ∧ (s1.core 0).stbuf = [] ∧ s1.deferredFor 0x80 0 = false ∧
      ((s1.core 0).l2.look 0x80).isSome = true ∧ readAt s1 0x2000#64 = some (fx 1#64) := by decide +kernel

/-- CFLUSH of a modified line that its slice holds. -/
theorem meets_CacheInstructions_dirty :
    let s := { data .m [fx 1#64] [] with llc := Tab.put [] 0x80 ⟨false, line [], 3⟩ }
    let s1 := fetched s 0 (.cflush 0 m4)
    unit s1.fabric.llcen (homeDie s1 0x80) = true ∧ inBoot 0x80 = false ∧ (s1.llc.look 0x80).isSome = true ∧ ready s (.cflush 0 m4) = true := by
  decide +kernel

/-- CPRE of a line that the slice alone holds, and of an address that is refused. -/
theorem meets_CacheInstructions_prefetch :
    let s := { with' [(4#5, rw 0x2000#64)] with llc := Tab.put [] 0x80 ⟨false, line [], 3⟩ }
    let s1 := fetched s 0 (.cpre 0 m4)
    let far := with' [(4#5, rw 0x0010000000000000#64)]
    bare s1 = true ∧ inMemory s1 0x2000#64 = true ∧ (s1.core 0).l2Use = true ∧ s1.deferredFor 0x80 0 = false ∧ (s1.llc.look 0x80).isSome = true ∧
    (∀ q ∈ (s1.core 0).l2, q.1 % 1024 ≠ 0x80) ∧ (s1.dir.look 0x80).isNone = true ∧ s1.dir.length < 16 ∧ ready s (.cpre 0 m4) = true ∧
    bare (fetched far 0 (.cpre 0 m4)) = true ∧ (0x0010000000000000#64 : Word) >>> 52 ≠ 0#64 ∧ ready far (.cpre 0 m4) = true := by decide +kernel

/-- The word of `ST r5, r4++` of eight bytes in modulo buffer 1. -/
def stWord : BitVec 32 := wordOf (.st 0 5#5 3#2 ⟨4#5, 3#2, 0x400#12⟩)

/-- r4 the index, modulo buffer 1 two words at 0x2000: every iteration stores at one of them. -/
def repeating (n : Word) : State :=
  inCtx (fun x => { x with loopcnt := n, modbase := x.modbase.set 1 0x2000#64, modsize := x.modsize.set 1 16#64 }) [(4#5, fx 0#64), (5#5, fx 1#64)]

theorem meets_RepeatPrefixes_none : ∀ i ∈ [Instr.rep 0 stWord, .repn 0 stWord], ready (repeating 0#64) i = true ∧ ((repeating 0#64).ctx 0).loopcnt = 0#64 := by
  decide +kernel

/-- RepeatPrefixes: two iterations of REP, and 33 of which REPN makes 32. -/
theorem meets_RepeatPrefixes : ∀ p ∈ [(Instr.rep 0 stWord, 2#64, 2), (.repn 0 stWord, 33#64, 32)],
    let s := repeating p.2.1
    let s1 := fetched s 0 p.1
    let r := s1.regs 0
    majorOf stWord = 0x13 ∧ stWord.extractLsb' 12 2 = 3#2 ∧ (memOpOf stWord).am = 3#2 ∧ ((memOpOf stWord).field.extractLsb' 10 2).toNat = 1 ∧
    rawTag (r.read (memOpOf stWord).rb).tag = true ∧ dstOf stWord ≠ (memOpOf stWord).rb ∧ (r.read (dstOf stWord)).tag ≠ 0x83#8 ∧
    bare s1 = true ∧ (s1.core 0).async = [] ∧ (s1.core 0).ipend = [] ∧ (s1.pair (pairOf 0)).stepping = false ∧ r.posU = 0 ∧
    (s1.core 0).stbuf.length + p.2.2 ≤ 32 ∧ (r.ctx.modsize.get 1).toNat = 16 ∧
    (r.ctx.modbase.get 1) = 0x2000#64 ∧ inMemory s1 0x2000#64 = true ∧ inMemory s1 0x2008#64 = true ∧ ready s p.1 = true := by decide +kernel

/-! ### Translation, contexts and the journal instructions -/

/-- What TlbInvalidate asks of an operand `v` of the form `form`. -/
def invalidates (form : BitVec 4) (v : Word) : Bool :=
  let s := with' [(4#5, fx v)]
  let s1 := fetched s 0 (.tlbi 0 4#5 form)
  rawTag ((s1.regs 0).read 4#5).tag && (s1.core 0).stbuf.isEmpty && decide (s1.dev.mode ≠ 4) && (s1.regs 0).fdq.isEmpty && ready s (.tlbi 0 4#5 form)

/-- TlbInvalidate: each form with the largest operand that it admits. -/
theorem meets_TlbInvalidate :
    invalidates 0#4 0#64 = true ∧ invalidates 1#4 0#64 = true ∧
    invalidates 2#4 0x000FFFFFFFFFF000#64 = true ∧ (0x000FFFFFFFFFF000#64 : Word) &&& ~~~0x000FFFFFFFFFF000#64 = 0#64 ∧
    invalidates 3#4 0xFFFF#64 = true ∧ (0xFFFF#64 : Word) >>> 16 = 0#64 ∧
    invalidates 4#4 0x000FFFFFFFFFF000#64 = true ∧ invalidates 5#4 0#64 = true := by decide +kernel

/-- WaitsAndSwitches: epoch 0 is final at once, the current bank, and bank 1. -/
theorem meets_WaitsAndSwitches :
    let s := with' [(4#5, fx 0#64)]
    let two := at' ((bank1 (regs0.setBank 0 { regs0.ctx with id := 6#16, csa := 0x4000#52 })).write 4#5 (fx 7#64) |>.write 5#5 (rw 0x8000#64) |>.write 6#5
      (fx 6#64) |>.write 7#5 (rw 0x4000#64))
    let r := two.regs 0
    (s.jwaitCc 0#48).isSome = true ∧ s.ready0 50 = true ∧ [Instr.jwait 0 4#5, .jstamp 0 1#5].all (ready s) = true ∧
    ((s.core 0).lastStamp ≤ jtime s) ∧ (r.read 4#5).val = (r.bank 1).id.setWidth 64 ∧ (r.read 5#5).val = (r.bank 1).csa.setWidth 64 ∧
    (r.read 5#5).val.toNat % 2048 = 0 ∧ (r.read 6#5).val = (r.bank 0).id.setWidth 64 ∧ (r.read 7#5).val = (r.bank 0).csa.setWidth 64 ∧
    (∀ j, (r.bank j).id = (r.bank 1).id → j = 1) ∧ (r.bank 1).wstat.ow ≠ (r.bank 1).wstat.cw + 1#5 ∧ r.cur = 0 ∧ r.spill = [] ∧
    [Instr.ctxsw 0 4#5 5#5, .ctxsw 0 6#5 7#5].all (ready two) = true := by decide +kernel

/-! ### The journal, decimal, strings and editing -/

/-- An epoch is open, ring 2 is a configured ring of 4 KiB at 0x3000 in modulo buffer 3 with its control area after it, r4 names a line. -/
def appending : State :=
  let s := holding (holding (holding (inCtx (fun x => { x with
      modbase := x.modbase.set 3 0x3000#64, modsize := x.modsize.set 3 4096#64, jstat := placed 2 48 ||| bitAt true 56 })
    [(4#5, rw 0x2000#64), (5#5, fx 5#64)]) 0x80 .e [fx 0x1122334455667788#64]) 0x100 .e [rw 0#64]) 0x101 .e [rw 0#64]
  { s with jrnl := { s.jrnl with
      epochs := [⟨0#48, .opened, 0#64, 0⟩]
      rings := Tab.put s.jrnl.rings 2 { base := 0x3000#64, log2 := 12#5, en := true, trapfull := true, drained := 0#32, released := 0#32 } } }

/-- The appending machine when its row has been fetched. -/
def appends : State := fetched appending 0 (.jappend 0 4#5 5#5)

theorem meets_JournalAppend :
    let r := appends.regs 0
    let x := r.ctx
    let g := appends.jrnl.ring 2
    (r.read 4#5).tag = 0x05#8 ∧ appends.ready0 50 = true ∧ rawTag (r.read 5#5).tag = true ∧ (r.read 5#5).val = 5#64 ∧ fieldN x.jstat 48 8 = 2 ∧
    x.jstat.getLsbD 56 = true ∧ g.en = true ∧ g.log2.toNat = 12 ∧ x.modbase.get 3 = 0x3000#64 ∧ x.modsize.get 3 = 4096#64 ∧
    appends.jrnl.opened.isSome = true ∧ (appends.core 0).stbuf = [] ∧
    ((recordWords (jtime appends) (appends.core 0).epoch 5 2 [0x88#8, 0x77#8, 0x66#8, 0x55#8, 0x44#8]).length = 3) ∧
    [0x3000#64, 0x3008#64, 0x3010#64].all (inMemory appends) = true := by decide +kernel

theorem meets_JournalAppend_words :
    Bare appends 0 ∧ Bytes appends 0 0x2000#64 [0x88#8, 0x77#8, 0x66#8, 0x55#8, 0x44#8] ∧ Reads appends 0 0x4000#64 (rw 0#64) ∧
    Reads appends 0 0x4040#64 (rw 0#64) ∧ Issues appending 0 (.jappend 0 4#5 5#5) appends :=
  ⟨bare_sound (by decide +kernel), bytesAt_sound (by decide +kernel), readAt_sound (by decide +kernel), readAt_sound (by decide +kernel),
    issues_sound (by decide +kernel)⟩

/-- DecimalFields: one byte holds a packed digit, a zoned digit; 32 bytes 63 packed digits. -/
theorem meets_DecimalFields :
    ((-9 : Int).natAbs < 10 ^ (2 * 1 - 1) ∧ (-9 : Int).natAbs < 10 ^ 1) ∧ (10 ^ 62 : Int).natAbs < 10 ^ (2 * 32 - 1) := by decide +kernel

/-- Fields A at r5 (packed 5), B at r6 (packed 3) and D at r4, one byte each. -/
def decimal (cc : List (Reg × TW)) : State :=
  holding (with' ([(4#5, rw 0x2010#64), (5#5, rw 0x2000#64), (6#5, rw 0x2008#64)] ++ cc)) 0x80 .e [rw 0x5C#64, rw 0x3C#64, rw 0#64]

/-- Lengths of D, A and B, and the low bits. -/
def fields (d a b low : Nat) : BitVec 32 := BitVec.ofNat 32 (d * 2 ^ 26 + a * 2 ^ 20 + b * 2 ^ 14 + low)

/-- The operands of a decimal row. -/
def dec (e : BitVec 32) : XOp := ⟨4#5, 5#5, 6#5, e⟩

/-- A packed field of one byte, as a check of `Field`. -/
def fieldAt (s : State) (f : DecField) (v : Int) (b : Byte) : Bool :=
  decide (((s.regs 0).read f.reg).tag = 0x05#8) && decide (f.len = 1) && !f.zoned && bytesAt s (baseAddr ((s.regs 0).read f.reg)) [b] &&
  (packedBad [b]).isNone && decide (v = packedValue [b])

theorem fieldAt_sound {s : State} {f : DecField} {v : Int} {b : Byte} (h : fieldAt s f v b = true) : Field s 0 f v := by
  simp only [fieldAt, Bool.and_eq_true, decide_eq_true_eq, Bool.not_eq_true', Option.isNone_iff_eq_none] at h
  obtain ⟨⟨⟨⟨⟨h1, h2⟩, h3⟩, h4⟩, h5⟩, h6⟩ := h
  exact ⟨Or.inl h1, [b], h2.symm, bytesAt_sound h4, by simp [h3, h5, h6]⟩

/-- An arithmetic row's sources are valid, its destination can be written, and the row issues. -/
def computes (s : State) (i : Instr) (x : XOp) (fs : List (DecField × Int × Byte)) : Bool :=
  let s1 := fetched s 0 i
  issues s 0 i && bare s1 && fs.all (fun f => fieldAt s1 f.1 f.2.1 f.2.2) && decide (((s1.regs 0).read x.rd).tag = 0x05#8) &&
  writableAt s1 (baseAddr ((s1.regs 0).read x.rd)) (fieldD x).len && (s1.core 0).stbuf.isEmpty && (s1.regs 0).prod.isNone && !x.ovt

/-- Operands of rows with two sources, with one, and with none. -/
def dec2 : XOp := dec (fields 1 1 1 0)
def dec1 (low : Nat) : XOp := ⟨4#5, 5#5, 0#5, fields 1 1 0 low⟩
def dec0 : XOp := ⟨4#5, 0#5, 0#5, fields 1 0 0 0⟩

theorem meets_DecimalInstructions :
    let s := decimal []
    ([Instr.dadd 0 dec2, .dsub 0 dec2, .dmul 0 dec2, .ddiv 0 dec2].all (fun i => computes s i dec2 [(fieldA dec2, 5, 0x5C#8), (fieldB dec2, 3, 0x3C#8)])
      = true) ∧ computes s (.dcvd 0 dec0) dec0 [] = true ∧
    ([Instr.dzad 0 (dec1 0), .dshr 0 (dec1 0)].all (fun i => computes s i (dec1 0) [(fieldA (dec1 0), 5, 0x5C#8)]) = true) ∧ (dec1 0).shift = 0 := by
  decide +kernel

/-- DSHR by one digit to the right under each rounding. -/
theorem meets_DecimalInstructions_shift : ∀ rnd ∈ [0, 1, 2],
    let x := dec1 (8 * 127 + 2 * rnd)
    x.shift = -1 ∧ x.rnd = rnd ∧ computes (decimal []) (.dshr 0 x) x [(fieldA x, 5, 0x5C#8)] = true := by decide +kernel

theorem meets_DecimalInstructions_sources :
    let x : XOp := ⟨0#5, 5#5, 6#5, fields 0 1 1 0⟩
    let y : XOp := ⟨0#5, 5#5, 0#5, fields 0 1 0 0⟩
    let s := decimal []
    let s1 := fetched s 0 (.dcmp 0 x)
    let s2 := fetched s 0 (.dcvb 0 y)
    issues s 0 (.dcmp 0 x) = true ∧ bare s1 = true ∧ fieldAt s1 (fieldA x) 5 0x5C#8 = true ∧ fieldAt s1 (fieldB x) 3 0x3C#8 = true ∧
    issues s 0 (.dcvb 0 y) = true ∧ bare s2 = true ∧ fieldAt s2 (fieldA y) 5 0x5C#8 = true ∧ (s2.regs 0).prod.isNone = true := by decide +kernel

/-- The digits that `late` compares with fit one byte, and do not. -/
theorem meets_DecimalInstructions_digits : ¬ 10 ^ fieldDigits 1 false ≤ (5 + 3 : Int).natAbs ∧ 10 ^ fieldDigits 1 false ≤ (5 * 3 : Int).natAbs := by decide

/-- A of `n` bytes at r5 from 0x5C on, lengths r7 and r9, the table at r8 whose words 0x81 holds. -/
def stringing (n k : Nat) : State :=
  holding (decimal [(7#5, fx (BitVec.ofNat 64 n)), (9#5, fx (BitVec.ofNat 64 k)), (8#5, rw 0x2000#64)]) 0x81 .e (List.replicate 8 (rw 0#64))

/-- The operands of each string row: r7 and r9 the lengths, r8 the table. -/
def mvs : XOp := ⟨4#5, 5#5, 0#5, BitVec.ofNat 32 (7 * 2 ^ 27)⟩
def mvt : XOp := ⟨4#5, 5#5, 0#5, BitVec.ofNat 32 (7 * 2 ^ 27 + 8 * 2 ^ 22)⟩
def cms (b : Reg) : XOp := ⟨4#5, 5#5, b, BitVec.ofNat 32 (7 * 2 ^ 27 + 9 * 2 ^ 22)⟩
def srh (v : Nat) : XOp := ⟨4#5, 5#5, 0#5, BitVec.ofNat 32 (7 * 2 ^ 27 + v * 2 ^ 14)⟩

/-- What every string row needs of its sources. -/
def strings (s : State) (i : Instr) (x : XOp) (as : List Byte) : Bool :=
  let s1 := fetched s 0 i
  let r := s1.regs 0
  issues s 0 i && decide (r.ctx.resumeAt (wordOf i) = 0) && bare s1 && decide ((r.read x.ra).tag = 0x05#8) &&
  bytesAt s1 (baseAddr (r.read x.ra)) as && rawTag (r.read x.rl1).tag && decide ((r.read x.rl1).val.toNat = as.length)

/-- What a row that stores needs of its destination. -/
def targets (s : State) (i : Instr) (x : XOp) (n : Nat) : Bool :=
  let s1 := fetched s 0 i
  let r := s1.regs 0
  decide ((r.read x.rd).tag = 0x05#8) && decide (baseAddr (r.read x.rd) = 0x2010#64) && decide (baseAddr (r.read x.ra) = 0x2000#64) &&
  writableAt s1 0x2010#64 n && (s1.core 0).stbuf.isEmpty

/-- MVST and MVTR of no byte and of one: 0x2000 and the table's 0x205C share no word with 0x2010. -/
theorem meets_ShortStrings_moves : ∀ as ∈ [[], [0x5C#8]],
    let s := stringing as.length 0
    let s1 := fetched s 0 (.mvtr 0 mvt)
    strings s (.mvst 0 mvs) mvs as = true ∧ targets s (.mvst 0 mvs) mvs as.length = true ∧ strings s (.mvtr 0 mvt) mvt as = true ∧
    targets s (.mvtr 0 mvt) mvt as.length = true ∧ ((s1.regs 0).read mvt.rl2).tag = 0x05#8 ∧
    bytesAt s1 (baseAddr ((s1.regs 0).read mvt.rl2) + 0x5C#64) [0#8] = true ∧ 0x2000 / 8 ≠ 0x2010 / 8 ∧ 0x205C / 8 ≠ 0x2010 / 8 := by decide +kernel

/-- CMPS of fields that differ at once (0x5C and 0x3C), of equal ones, and of a field with an empty one. -/
theorem meets_ShortStrings_compares : ∀ p ∈ [(6#5, [0x3C#8]), (5#5, [0x5C#8]), (5#5, [])],
    let s := stringing 1 p.2.length
    let x := cms p.1
    let s1 := fetched s 0 (.cmps 0 x)
    let r := s1.regs 0
    strings s (.cmps 0 x) x [0x5C#8] = true ∧ (r.read x.rc).tag = 0x05#8 ∧ bytesAt s1 (baseAddr (r.read x.rc)) p.2 = true ∧
    rawTag (r.read x.rl2).tag = true ∧ (r.read x.rl2).val.toNat = p.2.length := by decide +kernel

/-- SRCH of a byte that is there, and of one that is not. -/
theorem meets_ShortStrings_searches : ∀ v ∈ [0x5C, 0],
    let x := srh v
    x.byte.toNat = v ∧ x.ne = false ∧ strings (stringing 1 0) (.srch 0 x) x [0x5C#8] = true := by decide +kernel

/-- The picture 0xE0 at r6 (one digit), its source 0x5C, output at r4, filled with blanks. -/
def editing : State := holding (decimal []) 0x80 .e [rw 0x5C#64, rw 0xE0#64, rw 0#64]

/-- The operands of the edit. -/
def edit : XOp := ⟨4#5, 5#5, 6#5, BitVec.ofNat 32 (1 * 2 ^ 24 + 0x20)⟩

theorem meets_EditAndExtension_edit : ∀ p ∈ [(Instr.fmt 0 edit, false), (.fmtf 0 edit, true)],
    let s1 := fetched editing 0 p.1
    let r := s1.regs 0
    ready editing p.1 = true ∧ bare s1 = true ∧ [edit.rd, edit.ra, edit.rc].all (fun f => decide ((r.read f).tag = 0x05#8)) = true ∧ edit.plen = 1 ∧
    bytesAt s1 (baseAddr (r.read edit.rc)) [0xE0#8] = true ∧ picItems p.2 2 0 [0xE0#8] = ([(0, .digit)], none) ∧ edit.fill.toNat < 0xE0 ∧
    bytesAt s1 (baseAddr (r.read edit.ra)) [0x5C#8] = true ∧ packedBad [0x5C#8] = none ∧ writableAt s1 (baseAddr (r.read edit.rd)) 1 = true ∧
    (s1.core 0).stbuf = [] ∧ progMatches r.ctx.proga (wordOf p.1) r.ctx.pc = false ∧ 0x2000 / 8 ≠ 0x2010 / 8 ∧ 0x2008 / 8 ≠ 0x2010 / 8 := by decide +kernel

/-- Extension function 0 ends at once with m16 and m17; function 1 adds them first. -/
def image0 : Image :=
  { pfv := 0#16, xfv := 0#16, stdver := 0#32, xver := 0#32, xkey := 0#8, stepmin := 0#16, part := 0#16, magic := 0#32, std := [], ssig := 0#768
    xsig := 0#768, reservedZero := true
    ext := [(0, 2#32), (1, BitVec.ofNat 32 (0x18 * 2 ^ 27 + 0x2C03)), (2, BitVec.ofNat 32 (0x18 * 2 ^ 27 + 0x2C04)),
      (3, BitVec.ofNat 32 (0x14 * 2 ^ 27 + 16 * 2 ^ 17 + 17 * 2 ^ 12 + 3)), (4, BitVec.ofNat 32 (1 * 2 ^ 27 + 1 * 2 ^ 22 + 16 * 2 ^ 17 + 17 * 2 ^ 12 + 0x101)),
      (5, BitVec.ofNat 32 (0x14 * 2 ^ 27 + 1 * 2 ^ 17 + 1 * 2 ^ 12 + 3))] }

/-- Core 0's cluster has that image. -/
def extended : State :=
  let s := decimal []
  { s with clusters := setUnit s.clusters 0 { unit s.clusters 0 with bankuse := 0#2, bankA := some image0 } }

theorem meets_EditAndExtension_ends :
    let i := Instr.customerExtensionFunction 0 1#5 4#5 5#5 0#11
    let s1 := fetched extended 0 i
    issues extended 0 i = true ∧ s1.imageFor 0 = some image0 ∧ image0.entry 0 = some 0x2C03 ∧ s1.parityBad 0 0x2C03 = false ∧
    (microOf (image0.word 0x2C03)).uop = 0x14 ∧ (microOf (image0.word 0x2C03)).ma = 16#5 ∧ (microOf (image0.word 0x2C03)).mb = 17#5 := by decide +kernel

theorem meets_EditAndExtension_adds :
    let i := Instr.customerExtensionFunction 0 1#5 4#5 5#5 1#11
    let s1 := fetched extended 0 i
    let first := microOf (image0.word 0x2C04)
    let second := microOf (image0.word 0x2C05)
    issues extended 0 i = true ∧ s1.imageFor 0 = some image0 ∧ image0.entry 1 = some 0x2C04 ∧ s1.parityBad 0 0x2C04 = false ∧
    s1.parityBad 0 0x2C05 = false ∧ first.uop = 1 ∧ first.ma = 16#5 ∧ first.mb = 17#5 ∧ second.uop = 0x14 ∧ second.ma = first.md ∧
    second.mb = first.md := by decide +kernel

/-! ### Device Control Space -/

/-- An admitted access, as a check. -/
def reaches (s : State) (off : Nat) (w : Bool) : Bool :=
  decide (off < 2 ^ 28) && decide (off % 8 = 0) && decide ((s.core 0).kept = []) && decide ((s.core 0).used = 0) && !(w && s.debugFull off) && decide ((s.ctx 0).csw.priv ≠ 0#2) && ((s.regs 0).watchHit w (dcsVa off) 8).isNone &&
  decide ((s.core 0).stbuf = [])

/-- A row issues and its access is admitted. -/
def reaching (s : State) (i : Instr) (off : Nat) (w : Bool) : Bool := issues s 0 i && reaches (fetched s 0 i) off w

/-- Pair 1 is attached and unchecked, its cores run or are halted. -/
def debugging (run : RunState) : State :=
  let s := with' []
  { s with
    pairs := setUnit s.pairs 1 { s.pair 1 with attached := true, halted := decide (run = .halted) }
    cores := setUnit (setUnit s.cores 2 { Reset.core with run := run }) 3 { Reset.core with run := run } }

theorem meets_DcsAccesses :
    (reaching (with' []) (.dcsRegisterWrite 0 0xFFFF8#28 5#64) 0xFFFF8 true = true ∧ 0xFFFF8 < 0x100000) ∧
    (∀ n : Fin 2, let off := 0x200000 + 8 * (2047 * n.val)
      reaching (with' []) (.dcsRegisterWrite 0 (BitVec.ofNat 28 off) 0x81#64) off true = true) ∧
    (∀ n : Fin 2, let off := 0x1000018 + 0x10000 * (31 * n.val)
      reaching (with' []) (.rcRegisterRead 0 1#5 (BitVec.ofNat 28 off)) off false = true) ∧
    (with' []).ready0 51 = true ∧ (with' []).ready0 0 = true ∧ (with' []).ready0 1 = true ∧
    [(false, 0x80#64), (true, 0x8F#64)].all (fun q => reaching (with' []) (.level0Doorbell 0 1 q.1 q.2) (pairReg 1 (if q.1 then 0x30 else 0x28)) true) = true ∧
    ((with' []).core (evenOf 1)).run = .stopped ∧ ((with' []).pair 1).checked = false ∧ pairOf 0 ≠ 1 ∧
    reaching (with' []) (.pairStart 0 1 0x100#64) (pairReg 1 0x08) true = true := by decide +kernel

theorem meets_DcsAccesses_debug :
    ((debugging .running).ready0 1 = true ∧ ((debugging .running).pair 1).attached = true ∧ ((debugging .running).pair 1).checked = false ∧ pairOf 0 ≠ 1 ∧
      ((debugging .running).pair 1).dbghalt = false ∧ ((debugging .running).pair 1).heldmis = false ∧ ((debugging .running).core (evenOf 1)).run = .running ∧
      ((debugging .running).core (oddOf 1)).run = .running ∧ ((debugging .running).pair 1).dbgsel.toNat < 32) ∧
    reaching (debugging .running) (.debugHalt 0 1 1#64) (pairReg 1 0x100) true = true ∧
    reaching (debugging .running) (.debugHoldAtMismatch 0 1 4#64) (pairReg 1 0x100) true = true ∧
    reaching (debugging .running) (.debugReplay 0 1 0xC#64) (pairReg 1 0x100) true = true ∧
    reaching (debugging .halted) (.debuggerWrite 0 1 7#64) (pairReg 1 0x118) true = true ∧
    (((debugging .halted).pair 1).halted = true ∧ ((debugging .halted).pair 1).stopDue = none ∧ ((debugging .halted).core (oddOf 1)).run = .halted) ∧
    reaching (debugging .halted) (.debugStep 0 1 2#64) (pairReg 1 0x100) true = true := by decide +kernel

theorem meets_DcsAccesses_units :
    (let s := with' []
     let s := { s with jrnl := { s.jrnl with role := 2, epochs := [⟨0#48, .opened, 0#64, 0⟩] } }
     reaching s (.sealnow 0 1#64) 0x300080 true = true ∧ s.jrnl.opened.isSome = true ∧ s.ready0 50 = true ∧ s.jrnl.detached = false) ∧
    (reaching (with' []) (.iommuInvalidate 0 0x20001#64) 0x3001008 true = true ∧ (with' []).ready0 52 = true) ∧
    (let s := with' []
     let s := { s with volley := { s.volley with ports := setUnit s.volley.ports 3 { s.vport 3 with st := 2 } } }
     reaching s (.volleyPortRetrain 0 3 2#64) 0x4000138 true = true ∧ s.ready0 49 = true ∧ (s.vport 3).st = 2 ∧ (s.vport 3).retrains ≠ 0xFF#8) ∧
    [0x0#64, 0x1F#64].all (fun v => reaching (with' []) (.frequencyRequest 0 11 v) (0x401000 + 16 * 11) true) = true ∧
    reaching (with' []) (.sendQueueTailWrite 0 0x20#64) 0x4001018 true = true := by decide +kernel

/-! ### Mailbox commands -/

/-- A machine in mode `m` whose channel 63 has rung its doorbell with a command of code `code` and the words `ws`, from a Monitor. -/
def rung (s : State) (m : Nat) (code : Nat) (ws : List Word) : State :=
  { s with
    dev := { s.dev with mode := m }
    fisin := { s.fisin with bells := [63], chans := setUnit s.fisin.chans 63 { s.mbox 63 with
      active := true, owner := 3#64, cmd := Vector.ofFn (fun i => if i.val = 0 then BitVec.ofNat 64 code else ws.getD (i.val - 1) 0#64) } } }

/-- `Rings` as a check. -/
def rings (s : State) (code : Nat) (m : Bool) (modes : List Nat) : Bool :=
  s.standby.resetN && s.standby.pwrgood && s.ready0 48 && s.fisin.swapOp.isNone && (s.mbox 63).active && decide (s.fisin.bells.head? = some 63) &&
  decide (fieldN ((s.mbox 63).cmd.get 0) 0 16 = code) && !badWord0 ((s.mbox 63).cmd.get 0) && decide (((s.mbox 63).cmd.get 0).extractLsb' 16 5 = 0#5) &&
  (!m || (s.mbox 63).monitor) && modes.contains s.dev.mode && decide (s.dev.mode ≠ 0 ∧ s.dev.mode ≠ 5) &&
  !s.chans.any (·.waits)

theorem rings_sound {s : State} {code : Nat} {m : Bool} {modes : List Nat} (h : rings s code m modes = true) : Rings s 63 code m modes := by
  simp only [rings, Bool.and_eq_true, Bool.not_eq_true', Option.isNone_iff_eq_none, decide_eq_true_eq, Bool.or_eq_true, List.contains_iff_mem] at h
  obtain ⟨⟨⟨⟨⟨⟨⟨⟨⟨⟨⟨⟨h1, h2⟩, h3⟩, h4⟩, h5⟩, h6⟩, h7⟩, h8⟩, h9⟩, h10⟩, h11⟩, h12⟩, h13⟩ := h
  exact ⟨h1, h2, h3, h4, h5, h6, h7, h8, h9, fun hm => by simpa [hm] using h10, h11, h12, h13⟩

/-- The words of a command on the external channel. -/
def extCmd (code : Nat) : Vector Word 8 := Vector.ofFn (fun i => if i.val = 0 then BitVec.ofNat 64 code else 0#64)

theorem meets_MailboxReports :
    (let r (m code : Nat) (ws : List Word) (modes : List Nat) := rings (rung (with' []) m code ws) code false modes
     r 1 0x0001 [] [1, 2, 3, 4] = true ∧ r 4 0x0010 [] [1, 2, 3, 4] = true ∧ r 2 0x0043 [11#64] [1, 2, 3, 4] = true ∧
     r 2 0x0050 [0#64, 1#64, 0#64] [1, 2, 3, 4] = true ∧ r 2 0x0050 [0xFFFFFFFF#64, 4096#64, 0#64] [1, 2, 3, 4] = true ∧ r 2 0x0060 [] [2, 3, 4] = true ∧
     r 2 0x0061 [11#64] [2, 3, 4] = true ∧ r 2 0x0071 [] [1, 2, 3, 4] = true ∧ r 2 0xFFFF [] [1, 2, 3, 4] = true ∧ 0xFFFF ∉ knownCodes) ∧
    ((rung (with' []) 2 0x0071 []).jrnl.role ≠ 1) ∧
    (let s := rung (with' []) 2 0x0050 [0#64, 1#64, 0#64]
     let s := (fisinLog 1 0 1 0#64 0#64 s).2
     rings s 0x0050 false [1, 2, 3, 4] = true ∧ (s.fisin.logAll.head?.any (fun e => decide ((s.cmdWord 63 1).toNat ≤ e.seq.toNat))) = true) ∧
    (fieldN ((extCmd 0x0001).get 0) 0 16 = 0x0001 ∧ badWord0 ((extCmd 0x0001).get 0) = false ∧ fieldN ((extCmd 0x0010).get 0) 0 16 = 0x0010 ∧
      badWord0 ((extCmd 0x0010).get 0) = false ∧ (with' []).standby.resetN = true ∧ (with' []).standby.pwrgood = true ∧ (with' []).extTakes = true ∧ (with' []).chans.any (·.waits) = false ∧
      ((extCmd 0x0001).get 0).extractLsb' 16 5 = 0#5 ∧ ((extCmd 0x00100001).get 0).extractLsb' 16 5 = 16#5 ∧
      fieldN ((extCmd 0x00100001).get 0) 0 16 = 1 ∧ badWord0 ((extCmd 0x00100001).get 0) = false) := by
  decide +kernel

theorem meets_MailboxOperations :
    let r (m code : Nat) (ws : List Word) (modes : List Nat) := rings (rung (with' []) m code ws) code true modes
    let f := (with' []).fisin
    (f.settled = true ∧ (let g : Fisin := { f with lcount := 1, lmap := setUnit f.lmap 0 0#8 }; g.paircfg.testBit 0 = f.paircfg.testBit 0) ∧ f.role = false ∧
      f.param 7 0 ≠ 1 ∧ (with' []).dev.flags = false) ∧
    r 1 0x0002 [] [1] = true ∧ r 2 0x0041 [0xFFF#64, 10#64] [1, 2, 3, 4] = true ∧ r 2 0x0041 [0xFFF#64, 0x1072760#64] [1, 2, 3, 4] = true ∧
    (0x1072760#64 &&& 0xFFFFFFFFFEF80000#64 = 0#64 ∧ fieldN 0x1072760#64 0 16 = 10080) ∧
    r 2 0x0051 [4#64, 0xFFFF#64, 604800000000#64] [1, 2, 3, 4] = true ∧ r 2 0x0062 [0xFFF#64] [2, 3] = true ∧
    r 1 0x0070 [0x1FFFE#64, 0x03E801F4#64, 0xF#64] [1] = true ∧ r 2 0x0090 [0#64] [2, 3, 4] = true ∧ r 2 0x00F0 [7#64] [2] = true ∧
    (with' []).ready0 0 = true := by decide +kernel

/-- DECLARE_OPERATIONAL: pair 0 is one of those to be checked. -/
theorem meets_MailboxOperations_declare : ((with' []).fisin.paircfg.testBit 0) = true := by decide +kernel

/-- VOLLEY_CONFIG and JOURNAL_CONFIG at the ends of their ranges; INTEGRITY_REGION_SET on empty memory. -/
theorem meets_MailboxOperations_config :
    (let s := rung State.reset 1 0x0070 [0x1FFFE#64, 0x01F4000A#64, 0xF#64]
     s.fisin.role = false ∧ fieldN (s.cmdWord 63 2) 0 16 = 10 ∧ fieldN (s.cmdWord 63 2) 16 16 = 500 ∧ 500 < 10 * 1000 ∧ (s.cmdWord 63 1).getLsbD 0 = false) ∧
    (let s := rung (with' []) 1 0x0080 [0xFFFF0003#64, 10000#64, 0x1000#64, 0x10000#64]
     rings s 0x0080 true [1, 2, 3] = true ∧ s.dev.mode = 1 ∧ s.jrnl.frozen = false ∧ s.jrnl.settime = false ∧ s.jrnl.err = false ∧ s.fisin.role = false ∧
     s.ready0 50 = true ∧ s.jrnl.epochs = [] ∧ s.jrnl.queue = [] ∧ s.jrnl.marks = [] ∧ (s.cmdWord 63 4).toNat = 65536) ∧
    (let s := rung (with' []) 2 0x0040 [0x43F#64, 0#64, 6144#64]
     rings s 0x0040 true [2, 3] = true ∧ s.integ.conv = none ∧ 4 ≤ s.integ.agatemax ∧ s.cmdWord 63 1 &&& 0xFFFFFFFFFFFFF080#64 = 0#64 ∧
       fieldN (s.cmdWord 63 1) 8 4 ∈ [0, 1, 2, 4, 8]) := by decide +kernel

theorem meets_MailboxOperations_empty : ∀ g < 6144, State.reset.locate (BitVec.ofNat 52 (g * oneGiB)) = none := by
  have h : ∀ ch : ChanId, (State.reset.chan ch).mode = 2#2 := by decide +kernel
  intro g _
  simp [State.locate, h]

/-- An image whose part is any. -/
def someImage : Image :=
  { pfv := 5#16, stdver := 0#32, xver := 0#32, xkey := 0#8, stepmin := 0#16, part := 0#16, magic := 0#32, reservedZero := true, ext := [], xfv := 0#16, std := [], ssig := 0#768, xsig := 0#768 }

theorem meets_MailboxLongCommands :
    let r (s : State) (m code : Nat) (ws : List Word) (b : Bool) (modes : List Nat) := rings (rung s m code ws) code b modes
    let s := with' []
    (r s 2 0x0011 [23#64] true [2, 3, 4] = true ∧ s.fisin.namesPair 23 (s.pair 23).rettgt.toNat = false ∧ s.ready0 23 = true ∧ s.fisin.retireOp = none ∧
      (s.pair 23).rescuing = none) ∧
    (r s 1 0x0020 [0xF#64, 0x40#64] true [1, 2, 3] = true ∧ s.fisin.stageOp = none ∧ s.fisin.commitOp = none ∧ s.fisin.verifyFix = none) ∧
    (let s := { s with
       fisin := { s.fisin with staged := some someImage }
       clusters := Vector.replicate 12 { unit s.clusters 0 with bankA := some someImage, bankB := some someImage } }
     r s 2 0x0021 [0xFFF#64] true [2, 3] = true ∧ ∀ c : CluId, s.ready0 (24 + c.val) = true ∧ (unit s.clusters c).pfv = someImage.pfv.toNat) ∧
    (r s 4 0x0022 [0xFFFFFFFF#64] false [1, 2, 3, 4] = true ∧ r s 1 0x0022 [0xFFFFFFFE#64] false [1, 2, 3, 4] = true ∧
      r s 1 0x0022 [0#64] false [1, 2, 3, 4] = true ∧ s.fisin.verifyOp = none ∧ s.fisin.verifyFix = none) ∧
    (r s 1 0x0030 [0#64, 0xFFFFFFFFFFFFF#64, 0xA0#64] true [1, 2, 3] = true ∧ r s 1 0x0030 [2#64, 0#64, 0x40000#64] true [1, 2, 3] = true ∧
      (slotOf 3 false).2 = 0x40000 ∧ s.fisin.fwOp = none) ∧
    (r s 2 0x0031 [] true [2, 3] = true ∧ s.fisin.inProgress (.chan 63) = false ∧ s.dev.flags = false) ∧
    (r s 3 0x0042 [0#64] true [2, 3] = true ∧ (s.chan 0).st = 3 ∧ s.fisin.retrainOp = none) ∧
    (let s := { s with fisin := { s.fisin with retrainOp := some (.chan 63, 1) } }
     r s 3 0x0042 [0#64] true [2, 3] = true ∧ s.fisin.retrainOp ≠ none ∧ (5 : Nat) ∉ [0, 3, 4]) ∧
    (let t := { s with integ := { s.integ with agatemax := 8, defs := 4 } }
     r t 2 0x0040 [0x840#64, 0#64, 6144#64] true [2, 3] = true ∧ t.integ.conv = none ∧ (∀ r : Fin 64, (t.integ.regions.get r).v = false) ∧ t.integ.defs ≠ 8 ∧
       (t.locate (BitVec.ofNat 52 (0 * oneGiB))).isSome = true) := by decide +kernel

/-- FIRMWARE_SWAP: slot B holds an accepted header, when the free outcome of its signature is that it is signed. -/
def swapping : Fisin :=
  let hdr : List Byte := [0x31#8, 0x49#8, 0x53#8, 0x46#8, 1#8, 0#8, 0x30#8, 0x48#8] ++ List.replicate 56 0#8
  { (with' []).fisin with flash := flashWrite [] 0x410000 hdr }

theorem meets_MailboxLongCommands_swap (h : Config.imageSigned swapping.flash 0x410000 = true) :
    imageCheck swapping (fun a n => swapping.flashN (0x410000 + a) n) 1 0x400000 (Config.imageSigned swapping.flash 0x410000) = 0 := by
  rw [h]; decide +kernel

/-! ### Events at a core, coherence and bridges -/

/-- `Enters` for core 0, as a check. -/
def enters (s : State) : Bool :=
  s.mayRun 0 && !s.leads 0 && decide ((s.ctx 0).csw.fd = 0#2) && decide ((s.regs 0).spill = []) && !(s.ctx 0).wstat.owed &&
  decide (((s.ctx 0).wstat.cw + 1#5 - (s.ctx 0).wstat.ow).toNat < 30) && !(s.regs 0).mbank

/-- `Describes` for core 0, as a check. -/
def describes (s : State) (e : Nat) : Bool :=
  match (readDesc 0 (toPa (s.regs 0).hdtb + BitVec.ofNat 52 (32 * e))).run s with
  | (.ok d, u) => !d.invalid && decide (u.regs 0 = s.regs 0) && !u.leads 0 && !u.chans.any (·.waits)
  | (.error _, _) => false

/-- Core 0 changed. -/
def core0 (s : State) (f : Core → Core) : State := s.setCore 0 (f (s.core 0))

/-- An entry of the FDQ. -/
def entry (assist : Bool) : FdqEntry :=
  { iword := 0#32, flags := 1#5, assist := assist, repl := false, priv := 3#2, rm := 0#2, cw := 0#5, addr := 0x1000#64, opa := 0#64, opb := 0#64, opc := 0#64
    result := 0#64, bank := 0 }

/-- A drain fault. -/
def drained : DrainFault := { bank := 0, info := 2#64, faddr := 0x2000#64, fstat := none }

/-- A level-15 interrupt waits at core 0, a level-0 one, an asynchronous exception `e`, and a queue of deferred results. -/
def interrupted : State :=
  core0 (handled (inCtx (fun x => { x with csw := { x.csw with ilm := 15#4 } }) []) 0xFF) (fun k => { k with ipend := Tab.put [] 0xFF 15#4 })
def urgent : State :=
  core0 (at' { regs0 with pinned := setUnit regs0.pinned 15 ⟨0x3000#64, 0#64, 0x30003#64, 0#64⟩ }) (fun k => { k with ipend := Tab.put [] 0x8F 0#4 })
def checking (e : Nat) : State := core0 (handled (with' []) e) (fun k => { k with async := [⟨BitVec.ofNat 8 e, 7#64, 0#64⟩] })
def queueing (p : Bool × Nat) : State := handled (at' { regs0 with fdq := [entry p.1] }) p.2

theorem meets_CoreEvents_interrupts :
    (let s := interrupted
     steady s = true ∧ enters s = true ∧ (s.core 0).async = [] ∧ bestPending (s.core 0).ipend = some (0xFF, 15#4) ∧ (s.ctx 0).csw.ilm = 15#4 ∧
       (s.ctx 0).proga.getLsbD 4 = false ∧ describes ((s.setCore 0 { s.core 0 with ipend := Tab.drop (s.core 0).ipend 0xFF }).yields 0) 0xFF = true) ∧
    (let s := urgent
     steady s = true ∧ enters s = true ∧ (s.core 0).async = [] ∧ bestPending (s.core 0).ipend = some (0x8F, 0#4) ∧ (s.ctx 0).csw.ublk = false ∧
       ((s.regs 0).pinned.get ⟨0x8F % 16, by decide⟩).invalid = false) := by decide +kernel

theorem meets_CoreEvents_traps :
    (∀ e ∈ [0x20, 0x1F], let s := checking e
     steady s = true ∧ enters s = true ∧ describes ((s.setCore 0 { s.core 0 with async := [] }).yields 0) e = true) ∧
    (∀ p ∈ [(true, 0x18), (false, 0x17)], let s := queueing p
     steady s = true ∧ enters s = true ∧ (s.core 0).async = [] ∧ (s.core 0).ipend = [] ∧ (s.regs 0).deliv = false ∧
       (s.regs 0).deliveryDue (.fbar 0) = true ∧ (decodeInsn 0 (wordOf (.fbar 0)) 0#32 = some (.fbar 0)) ∧ describes (s.unwaited 0) p.2 = true) := by
  decide +kernel

/-- A frame that waits to be spilled to 0x2080, whose lines core 0 holds. -/
def spillingFrame : State :=
  let sl : SpillSlot := { bank := 0, win := 0#5, frame := Vector.replicate 16 (rw 0#64) }
  at' { (regs0.inCtx (fun x => { x with wsp := 0x2080#64 })) with spill := [sl] }

theorem meets_CoreEvents_frames :
    (let s := handled (at' { regs0 with drainFault := some drained }) 0x11
     steady s = true ∧ enters s = true ∧ (s.core 0).async = [] ∧ (s.core 0).ipend = [] ∧ (s.regs 0).fdq = [] ∧ drained.bank = (s.regs 0).cur ∧
       describes ((s.unwaited 0).setRegs 0 { s.regs 0 with drainFault := none, drainHeld := true }) 0x11 = true) ∧
    (let s := spillingFrame
     steady s = true ∧ s.mayRun 0 = true ∧ bare s = true ∧ (s.regs 0).drainFault.isNone = true ∧ (s.regs 0).drainHeld = false ∧
       inMemory s 0x2080#64 = true ∧ inMemory s 0x20C0#64 = true ∧ (s.core 0).stbuf = []) ∧
    (let s := inCtx (fun x => { x with wstat := { x.wstat with cw := 30#5, owed := true } }) []
     steady s = true ∧ s.mayRun 0 = true ∧ (s.ctx 0).wstat.owed = true ∧ (s.ctx 0).csw.fd = 0#2 ∧ (s.regs 0).spill.length < 2) := by decide +kernel

theorem meets_CoreEvents_waits :
    (let w : TlbiWait := { form := 0#4, operand := 0#64, vmid := 0#16, left := [0, 48] }
     let s := (with' []).setCore 1 { Reset.core with tlbi := some w }
     steady s = true ∧ (s.core 1).tlbi = some w ∧ w.left.contains 0 = true ∧ w.left.contains 48 = true ∧ s.leads 0 = false ∧ (s.core 0).stbuf = []) ∧
    (let w : TlbiWait := { form := 0#4, operand := 0#64, vmid := 0#16, left := [] }
     let s := core0 (with' []) (fun k => { k with tlbi := some w, jwait := some 0#64 })
     steady s = true ∧ s.mayRun 0 = true ∧ s.leads 0 = false ∧ (s.pair (pairOf 0)).stepping = false ∧ (s.jwaitCc 0#48).isSome = true) ∧
    (let s := core0 (with' []) (fun k => { k with stbuf := [.notice 2#8 0#48 24 24#32] })
     steady s = true ∧ s.jrnl.epochs = [] ∧ s.jrnl.tgtsize = 0) := by decide +kernel

theorem meets_CoreEvents_reserved :
    let s := handled (with' []) 0x01
    let w : BitVec 32 := 0xFC000000#32
    decodeInsn 0 w 0#32 = none ∧ steady s = true ∧ enters s = true ∧ s.mayIssue 0 = true ∧ (s.core 0).async = [] ∧ (s.core 0).ipend = [] ∧
    (s.regs 0).fdq = [] ∧ (s.regs 0).drainFault.isNone = true ∧ ((s.regs 0).breakpoint (s.ctx 0).pc).isNone = true ∧ (s.regs 0).stepDue.isNone = true ∧
    (does (fetchInsn 0 (lenOf w)) s).any (fun p => decide (p.2.regs 0 = s.regs 0) && !p.2.leads 0 && describes p.2 0x01 &&
      decide ((p.2.core 0).miss = (s.core 0).miss)) = true := by decide +kernel

/-- A lane in state `st`. -/
def laneIn (st : BitVec 2) : BridgeLane := { st := st, crc := 0xFFFF#16, crcTimes := [], retrainTimes := [] }

/-- The fabric with group 3 and hub 1 in state `st`. -/
def bridged (st : BitVec 2) : State :=
  let s := with' []
  { s with fabric := { s.fabric with groups := setUnit s.fabric.groups 3 (laneIn st), hubs := setUnit s.fabric.hubs 1 (laneIn st) } }

/-- The lane of `l`'s state with CRC errors and retrains up to one below, and at, the thresholds. -/
def worn (st : BitVec 2) (n : Nat) : State :=
  let s := bridged st
  { s with fabric := { s.fabric with groups := setUnit s.fabric.groups 3 { laneIn st with crcTimes := List.replicate n 0, retrainTimes := List.replicate n 0 } } }

theorem meets_BridgeRows :
    (∀ n : Fin 3, (bridged (BitVec.ofNat 2 n.val)).alive = true ∧ ((bridged (BitVec.ofNat 2 n.val)).group 3).st = BitVec.ofNat 2 n.val ∧
      ((bridged (BitVec.ofNat 2 n.val)).hub 1).st = BitVec.ofNat 2 n.val) ∧
    (let s := bridged 0#2
     (s.fisin.rules.get 2).1 = 64 ∧ (s.fisin.rules.get 3).1 = 4 ∧ ((s.group 3).recent s).length + 1 < 4 ∧
     (∃ o : GroupId, o ≠ 3 ∧ (s.group o).st = 0#2) ∧ s.fisin.swapOp.isNone = true) ∧
    (let s := bridged 0#2
     let s := { s with fabric := { s.fabric with detour := true } }
     s.fabric.detour = true ∧ 0 < s.fabric.groupsUp ∧ s.dev.mode = 2 ∧ s.fabric.carries = true ∧ ∀ o : DieId, (s.hub o).st ≠ 3#2) ∧
    (let s := with' []
     let s := { s with dev := { s.dev with mode := 1 }, fisin := { s.fisin with rdy0 := 0#64 } }
     s.alive = true ∧ s.ready0 53 = false ∧ s.fisin.fail0.getLsbD 53 = false) := by decide +kernel

/-- The 64th CRC error within 1 ms in each state, and the 4th retrain within 1 min. -/
theorem meets_BridgeRows_worn :
    (∀ st ∈ [0#2, 1#2], ∀ n ∈ [62, 63], let l := (worn st n).group 3
      l.st = st ∧ (l.crcTimes.filter (fun t => decide ((worn st n).now ≤ t + ((worn st n).fisin.rules.get 2).2))).length = n) ∧
    (∀ n ∈ [3, 4], ((worn 2#2 n).group 3).st = 2#2 ∧ ((worn 2#2 n).group 3).retrainTimes.length = n) := by decide +kernel

/-- A fill of line 0x80 that its slice holds, with CSW.QUIET as given. -/
def filling (quiet : Bool) : State :=
  { inCtx (fun x => { x with csw := { x.csw with quiet := quiet } }) [] with llc := Tab.put [] 0x80 ⟨false, line [], 3⟩ }

theorem meets_CoherenceRows_fills : ∀ quiet ∈ [false, true],
    let s := filling quiet
    let pa : Pa := 0x2000#52
    steady s = true ∧ s.paKind pa = .memory 0 ∧ s.memReady pa = true ∧ s.dieLost (homeDie s (lineOf pa)) = false ∧
    ((s.core 0).l2.look (lineOf pa)).isNone = true ∧ (s.core 0).miss = [] ∧ (s.dir.look (lineOf pa)).isNone = true ∧ s.dir.length < 16 ∧
    (s.llc.look (lineOf pa)).isSome = true ∧ (s.ctx 0).csw.quiet = quiet := by decide +kernel

theorem meets_CoherenceRows :
    (let s := data .e [] []
     steady s = true ∧ heldLine s 0x2000#52 = some ⟨.e, line [], 0⟩ ∧ (s.core 0).l2Coherent = true ∧ s.dir.look 0x80 = some (.owned 0) ∧
       s.paKind 0x2000#52 = .memory 0 ∧ s.memReady 0x2000#52 = true ∧ s.dieLost (homeDie s 0x80) = false ∧ (s.core 0).miss = []) ∧
    ((((with' []).core 0).l2.look 0x80).isNone = true ∧ ((with' []).core 0).miss = []) ∧
    (let s := core0 (with' []) (fun k => { k with fdbusy := true, l2 := [] })
     steady s = true ∧ (s.core 0).fdbusy = true ∧ (s.core 0).l2 = []) ∧
    (let s := core0 (filling false) (fun k => { k with fdbusy := true, l2 := [(0x80, ⟨.m, line [], 0⟩)] })
     steady s = true ∧ (s.core 0).fdbusy = true ∧ (s.llc.look 0x80).isSome = true ∧ unit s.fabric.llcen (homeDie s 0x80) = true ∧ inBoot 0x80 = false) ∧
    (let s := (with' []).setCore 47 { Reset.core with run := .running }
     steady s = true ∧ s.paKind 0x2000#52 = .memory 0 ∧ (s.core 47).async = [] ∧ (∀ g : GroupId, (s.group g).st ≠ 1#2) ∧
       homeDie s (lineOf 0x2000#52) ≠ dieOf 47 ∧ (s.core 47).takes = true) := by decide +kernel

/-! ### Checked pairs, microcode and firmware -/

/-- The open window of the tests' checked pair. -/
def win0 : Window :=
  { startN := 0#48, startU := 255, checkpoint := regs0, sig := 5#64, gate := [], loads := [], logged := 0, writes := 0, retired := 0, ended := none
    access := false, line := none, goal := none, events := []
    side := { slip := 128#10, winlen := 256#11, l2en := true, vcen := true, lockD := 0#8, lockI := 0#8, pmctl := Vector.replicate 8 0#64 } }

/-- Pair 0 checked with the window `w`. -/
def checkedPair (w : Window) (f : Pair → Pair) : State :=
  let s := data .e [fx 1#64] []
  { s with pairs := setUnit s.pairs 0 (f { s.pair 0 with checked := true, windows := [w] }) }

/-- What every clause asks of a pair. -/
def paired (s : State) : Bool :=
  s.alive && !s.chans.any (·.waits) && (s.pair 0).checked && decide ((s.pair 0).windows.length = 1) && !(s.pair 0).heldmis

theorem meets_PairRows :
    (let s := checkedPair win0 id
     paired s = true ∧ (s.pair 0).windows = [win0] ∧ win0.startU < 256 ∧ win0.ended = none ∧ win0.goal = none) ∧
    (let w := { win0 with ended := some (7#48, (255#8).toNat) }
     let s := checkedPair w id
     paired s = true ∧ w.sig = 5#64 ∧ w.gate = [] ∧ (s.pair 0).dlog = [] ∧ (s.pair 0).stopDue = none ∧ (s.core 0).run = .running ∧
       (s.pair 0).holdmis = false ∧ (s.pair 0).mismatched ≠ some (w.startN, w.startU) ∧
       (ruleCount (s.fisin.rules.get 4) s.now (s.pair 0).rallyTimes).2 = false) ∧
    (let s := checkedPair { win0 with ended := some (7#48, 255), line := some 0x80 } (fun q => { q with mismatched := some (0#48, 255) })
     paired s = true ∧ (s.pair 0).mismatched = some (win0.startN, win0.startU) ∧ (s.pair 0).holdmis = false) ∧
    (let s := checkedPair win0 (fun q => { q with retryHold := true })
     let s := core0 s (fun k => { k with run := .rallying })
     paired s = true ∧ (s.pair 0).retryHold = true ∧ (s.core 0).run = .rallying) ∧
    (let w := { win0 with retired := 1 }
     let s := checkedPair w id
     paired s = true ∧ (s.pair 0).retryHold = false ∧ (s.pair 0).halted = false ∧ (s.core 0).run = .running ∧ 0 < w.retired) ∧
    (let s := checkedPair win0 (fun q => { q with rescuing := some (3#2, 1#4) })
     paired s = true ∧ (s.pair 0).rescuing = some (3#2, 1#4) ∧ (s.pair 0).rescue.getLsbD 0 = false) := by decide +kernel

/-- A verdict that releases a gated store into a line that the leading core owns. -/
theorem meets_PairRows_gate :
    let s := checkedPair { win0 with ended := some (7#48, 255), gate := [.word 0x2000#52 (fx 2#64) false] } id
    paired s = true ∧ Holds s 0 0x2000#52 ⟨.e, line [fx 1#64], 0⟩ ∧ inBoot (lineOf 0x2000#52) = false :=
  ⟨by decide +kernel, heldLine_sound (by decide +kernel), by decide +kernel⟩

/-- Calm, where the journal has no epoch and no target. -/
theorem meets_PairRows_calm : (with' []).jrnl.Calm := ⟨fun _ h => absurd h (by simp [with', at', State.reset, Reset.journal]), Or.inr (Or.inl rfl)⟩

/-- Flash with a microcode image 0 that names extension key 1. -/
def imaged (s : State) : State :=
  let hdr : List Byte := [0x31#8, 0x53#8, 0x43#8, 0x4D#8] ++ List.replicate 12 0#8 ++ [0x30#8, 0x48#8, 0#8, 0#8, 1#8] ++ List.replicate 43 0#8
  { s with fisin := { s.fisin with flash := flashWrite [] 0x810000 hdr } }

/-- In Staging, before the first load. -/
def loading0 : State :=
  let s := imaged (with' [])
  { s with dev := { s.dev with mode := 1 }, fisin := { s.fisin with rdy0 := 0x1000000000000#64 } }

theorem meets_MicrocodeRows_load :
    let s := loading0
    steady s = true ∧ s.dev.mode = 1 ∧ s.ready0 48 = true ∧ (∀ j : CluId, s.ready0 (24 + j.val) = false ∧ s.fisin.fail0.getLsbD (24 + j.val) = false) ∧
    (s.fisin.recordOk && s.fisin.ucimage) = false ∧ imageVerdict s.fisin (s.fisin.flashImage false) ⟨true, true⟩ = 0 ∧
    imageVerdict s.fisin (s.fisin.flashImage false) ⟨false, true⟩ ≠ 0 ∧ imageVerdict s.fisin (s.fisin.flashImage true) ⟨true, true⟩ ≠ 0 ∧
    (bankBit 0xFFFFFF#24 0 0 || bankBit 0xFFFFFF#24 0 1) = true := by decide +kernel

/-- A load from the alternate image. -/
theorem meets_MicrocodeRows_alternate :
    let s := { loading0 with fisin := { loading0.fisin with recordOk := true, ucimage := true } }
    (s.fisin.recordOk && s.fisin.ucimage) = true ∧ imageVerdict s.fisin (s.fisin.flashImage true) ⟨true, true⟩ ≠ 0 ∧
    imageVerdict s.fisin (s.fisin.flashImage false) ⟨true, true⟩ = 0 := by decide +kernel

/-- A commit that has reached step `n` of its last cluster, and a verify pass at step `n` of a rewrite of its bank B. -/
def committing (n : Nat) : State :=
  let s := with' []
  { s with fisin := { s.fisin with commitOp := some ⟨.chan 63, [11], 0#12, 0#12⟩, staged := some someImage }
           clusters := setUnit s.clusters 11 { unit s.clusters 11 with phase := BitVec.ofNat 3 n } }
def verifying (n : Nat) : State :=
  let s := with' []
  { s with fisin := { s.fisin with
             verifyOp := some (.chan 63), verifyFix := some { sigOk := true, mismatch := 0x800000#24, fixed := 0#24, left := [(11, true, some someImage)] } }
           clusters := setUnit s.clusters 11 { unit s.clusters 11 with phase := BitVec.ofNat 3 n } }

theorem meets_MicrocodeRows_steps :
    (∀ n ∈ [1, 2, 3, 4, 5], let s := committing n
     steady s = true ∧ (s.fisin.commitOp.any (fun k => decide (k.left = [11]) && decide (k.reply = .chan 63))) = true ∧
       (∀ p ∈ pairsOf 11, (s.pair p).checked = false ∧ (s.pair p).bank = none) ∧ (unit s.clusters 11).phase = BitVec.ofNat 3 n) ∧
    (∀ n ∈ [1, 2, 5], let s := verifying n
     steady s = true ∧ s.fisin.verifyOp = some (.chan 63) ∧ s.fisin.commitOp = none ∧ s.fisin.verifyFix.isSome = true ∧
       (unit s.clusters 11).phase = BitVec.ofNat 3 n) := by decide +kernel

theorem meets_MicrocodeRows :
    (let s := with' []
     steady s = true ∧ s.readsB 0 = false ∧ s.fetches 0 = true ∧ clusterOf 0 = 0 ∧ (unit s.clusters 0).abad = false ∧
       (unit s.clusters 0).bbad = false ∧ s.fisin.verifyFix = none ∧ s.fisin.commitOp = none) ∧
    (let f := { (with' []).fisin with stageOp := some (.chan 63, 4#64, 0#52), verifyOp := some (.chan 63), swapOp := some (.chan 63), verifyPeriod := 3600 }
     f.stageOp = some (.chan 63, 4#64, 0#52) ∧ f.verifyOp = some (.chan 63) ∧ f.swapOp = some (.chan 63) ∧ f.verifyPeriod ≠ 0) ∧
    (let s := with' []
     let l : LogEntry := ⟨0#64, 0#32, 4, 0, 1, 0#64, 0#64⟩
     let f := { s.fisin with swapOp := some (.chan 63), events := [FwEvent.log l] }
     f.events = [.log l] ∧ f.eventsOver = false ∧ ({ s with fisin := f } : State).handover = true ∧ f.events.length < 256) := by decide +kernel

/-- `HubBytes` as a check. -/
def hubBytes (s : State) (pa : Pa) (bs : List Byte) : Bool :=
  decide (pa.toNat + bs.length ≤ 2 ^ 52) && (List.range bs.length).all (fun i =>
    let a : Pa := BitVec.ofNat 52 (pa.toNat + i)
    s.hubReach a && unit s.fabric.llcen (homeDie s (lineOf a)) && !inBoot (lineOf a) &&
    s.dir.all (fun e => !decide (e.1 = lineOf a)) &&
    (match s.llc.look (lineOf a) with
     | some v => (List.finRange 8).all (fun j => decide ((v.data.get j).tag ≠ 0x82#8)) &&
       decide (bs[i]? = some (byteOf (v.data.get (wordIx a)).val ((pa.toNat + i) % 8)))
     | none => false))

theorem hubBytes_sound {s : State} {pa : Pa} {bs : List Byte} (h : hubBytes s pa bs = true) : HubBytes s pa bs := by
  simp only [hubBytes, Bool.and_eq_true, decide_eq_true_eq, List.all_eq_true, List.mem_range] at h
  refine ⟨h.1, fun i hi => ?_⟩
  obtain ⟨⟨⟨⟨h1, h2⟩, h3⟩, h4⟩, h5⟩ := h.2 i hi
  split at h5
  · rename_i v e
    simp only [Bool.and_eq_true, List.all_eq_true, decide_eq_true_eq] at h5
    exact ⟨h1, v.data, ⟨⟨h2, by simpa using h3⟩, fun d hd hn => by simpa [hn] using h4 d hd, by simp [e]⟩, fun j => h5.1 j (List.mem_finRange j), h5.2⟩
  · cases h5

/-- A clean line that its slice holds. -/
def slice (ws : List TW) : LlcLine := ⟨false, line ws, 0⟩

/-- A firmware image of 0xA0 bytes in lines that the LLC holds. -/
def firmware : State :=
  let s := with' []
  { s with
    llc := [(0x80, slice (rw 0x4830000146534931#64 :: List.replicate 7 (rw 0#64))), (0x81, slice (List.replicate 8 (rw 0#64))), (0x82, slice (List.replicate 8 (rw 0#64)))]
    fisin := { s.fisin with fwOp := some (.chan 63, 1, 0x2000#52, 0xA0) } }

/-- Its bytes. -/
def firmwareBytes : List Byte := [0x31#8, 0x49#8, 0x53#8, 0x46#8, 1#8, 0#8, 0x30#8, 0x48#8] ++ List.replicate 152 0#8

theorem meets_MicrocodeRows_firmware :
    steady firmware = true ∧ firmware.fisin.fwOp = some (.chan 63, 1, 0x2000#52, firmwareBytes.length) ∧ hubBytes firmware 0x2000#52 firmwareBytes = true ∧
    (∀ sig ∈ [true, false], (imageCheck firmware.fisin (fun o n => ofBytes ((List.range n).map (fun j => firmwareBytes.getD (o + j) 0#8))) 1 0xA0 sig = 0
      ↔ sig = true)) := by decide +kernel

/-! ### Memory channels -/

/-- Channel 0 changed. -/
def channed (f : Channel → Channel) : State :=
  let s := with' []
  { s with chans := setUnit s.chans 0 (f (s.chan 0)) }

/-- Five errors in five devices. -/
def five : List SymErr := (List.range 5).map (fun i => ⟨8 * i, 1#8⟩)

theorem meets_MemoryRows :
    (∀ n ∈ [2, 3, 5], let s := channed (fun k => { k with st := n })
      (s.chan 0).st = n ∧ steady s = true ∧ (s.chan 0).retrain = false ∧ (s.chan 0).retryact = false ∧ (s.chan 0).swen = true ∧
      s.dieLost (dieOfChan 0) = false) ∧
    (let s := channed (fun k => { k with st := 2, retrain := true })
     let s := { s with fisin := { s.fisin with retrainOp := some (.chan 63, 0) } }
     steady s = true ∧ s.fisin.retrainOp = some (.chan 63, 0) ∧ (s.chan 0).retrain = true) ∧
    (∀ w ∈ [false, true], let s := channed (fun k => { k with retryact := true, retryWcrc := w })
     steady s = true ∧ (s.chan 0).retryact = true ∧ (s.chan 0).retryWcrc = w ∧ (s.chan 0).retrain = false) ∧
    (let s := channed (fun k => { k with wm := 0 })
     steady s = true ∧ (s.chan 0).st = 3 ∧ (s.chan 0).wm < (s.chan 0).frames s.integ.agatemax) ∧
    (let s := with' []
     s.locate 0x2000#52 = some (0, 0x2000) ∧ (s.core 0).async = [] ∧ (s.core 0).takes = true ∧ s.memReady 0x2000#52 = true ∧
       s.locate (linePa (lineOf 0x2000#52)) = some (0, 0x2000) ∧ 0x2000 < parityBase ∧ (∀ e, ((s.chan 0).remap.get e).copying = false)) := by decide +kernel

theorem meets_MemoryRows_decode :
    let s := with' []
    let k := s.chan 0
    let ag := s.integ.agatemax
    let g := (k.spot ag 0x2000).g
    let es (l : List SymErr) := addErrs (k.errAt ag 0x2000) l
    k.decode g (es []) = .clean ∧ k.decode g (es [⟨79, 0x80#8⟩]) = .corrected ∧ k.decode g (es five) = .failed := by decide +kernel

/-- Rebuilding: strength 1 to 8 in the frame, and nothing wrong in its other lines. -/
theorem meets_MemoryRows_rebuild : ∀ S ∈ [1, 8],
    let s := channed (fun k => { k with agwm := 262144 })
    let s := { s with integ := { s.integ with defs := S, agatemax := 8 } }
    s.strength 0 2 = S ∧ (s.chan 0).x8 = false ∧ (s.chan 0).errs = [] ∧ (s.chan 0).pdiff = [] := by decide +kernel

theorem meets_MemoryRows_others :
    (let s := with' []
     let s := { s with integ := { s.integ with defs := 0 } }
     s.strength 0 2 = 0) ∧
    (let s := { with' [] with llc := Tab.put [] 0x80 { slice [] with dirty := true } }
     (s.llc.look 0x80).any (·.dirty) = true ∧ inBoot 0x80 = false ∧ (s.chan 0).errAt s.integ.agatemax 0x2000 = [] ∧
       (∀ j < 8, (s.chan 0).errAt s.integ.agatemax (blockAddr 2 (64 + j)) = [])) ∧
    (let s := channed (fun k => { k with remap := setUnit k.remap 31 { unit k.remap 31 with v := true, copying := true } })
     steady s = true ∧ ((s.chan 0).remap.get 31).v = true ∧ ((s.chan 0).remap.get 31).copying = true) ∧
    (let s := with' []
     let x : Convert := { region := 63, old := s.integ.regions.get 63, reply := .chan 63 }
     let s := { s with integ := { s.integ with conv := some x } }
     s.integ.conv = some x ∧ steady s = true) := by decide +kernel

/-! ### The journal -/

/-- The journal changed, in a device of a given role whose ports are Up. -/
def journal (role : Bool) (f : Journal → Journal) : State :=
  let s := with' []
  { s with jrnl := f s.jrnl, fisin := { s.fisin with role := role }
           volley := { s.volley with ports := s.volley.ports.map (fun p => { p with st := 2, miswire := 0#3 }) } }

/-- A port that is open: Up, well wired, with nothing waiting. -/
def portOpen (p : VPort) : Bool := decide (p.st = 2) && decide (p.miswire = 0#3) && p.waitq.isEmpty && p.replay.isEmpty

theorem portOpen_sound {p : VPort} (h : portOpen p = true) : p.open := by
  simp only [portOpen, Bool.and_eq_true, decide_eq_true_eq, List.isEmpty_iff] at h
  obtain ⟨⟨⟨h1, h2⟩, h3⟩, h4⟩ := h
  refine ⟨h1, h2, h3, by simp [h4], fun k => ?_⟩
  simp only [VPort.credit, h4, List.filter_nil, List.length_nil, decide_eq_true_eq]
  unfold credits
  split <;> decide

/-- An epoch in a state. -/
def epoch (n : BitVec 48) (st : EpochSt) : Epoch := ⟨n, st, 0#64, 0⟩

theorem meets_JournalRows :
    (∀ r ∈ [0, 1], let s := journal false (fun j => { j with epochs := [epoch 1#48 .opened], first := 2#48, role := r })
     let s := { s with volley := { s.volley with present := 0x1FFFF#17 } }
     steady s = true ∧ s.ready0 50 = true ∧ s.jrnl.tgtsize = 0 ∧ s.jrnl.rejoins = [] ∧ s.jrnl.first ≠ 0#48 ∧ s.volley.present.getLsbD 16 = true ∧ (s.vport (s.volley.route 16)).receives = true) ∧
    (let s := journal false (fun j => { j with epochs := [epoch 1#48 .committing], first := 2#48 })
     s.jrnl.role = 0 ∧ s.jrnl.err = false ∧ s.jrnl.kept = [] ∧ s.jrnl.queue = [] ∧ s.jrnl.marks = [] ∧ s.jrnl.awaited = some 1#48) ∧
    (let s := journal true (fun j => { j with role := 2 })
     s.fisin.role = true ∧ s.jrnl.detached = false ∧ s.jrnl.epochs = [] ∧ s.jrnl.tgtsize = 0 ∧ (s.vport (s.volley.route 0)).receives = true ∧
       (s.vport (s.volley.route 16)).receives = true) ∧
    (let s := journal true (fun j => { j with role := 2, epochs := [epoch 1#48 .reported] })
     s.jrnl.kept = [] ∧ (epoch 1#48 .reported).st = .reported ∧ (epoch 1#48 .reported).n ≤ 1#48) ∧
    (let s := journal true (fun j => { j with role := 2, epochs := [epoch 1#48 .opened] })
     s.jrnl.opened.isSome = true ∧ ∀ x ∈ s.jrnl.epochs, x.st ≠ .sealing ∧ x.st ≠ .draining) ∧
    (let s := journal false (fun j => { j with role := 1 })
     (Tab.getD s.jrnl.durableOf 16 0#48).toNat < (1#48).toNat ∧ s.jrnl.epochs = [] ∧ s.jrnl.role = 1 ∧ s.volley.present.getLsbD 16 = false ∧
       (s.vport (s.volley.route 16)).receives = true) ∧
    (let s := journal true (fun j => { j with detached := true })
     s.jrnl.detached = true ∧ s.jrnl.queue = [] ∧ s.jrnl.kept = [] ∧ s.jrnl.tgtsize = 0 ∧ s.jrnl.role ≠ 1 ∧ (s.vport (s.volley.route 0)).receives = true ∧
       portOpen (s.vport (s.volley.route 0)) = true) ∧
    (let s := journal false (fun j => { j with role := 1 })
     let s := { s with volley := { s.volley with expect := 0x10000#17 } }
     steady s = true ∧ s.volley.everyWorker = [16] ∧ portOpen (s.vport (s.volley.route 16)) = true) ∧
    (let s := journal true (fun j => { j with sync := some (1#64, 2#64, 3#64) })
     s.jrnl.sync = some (1#64, 2#64, 3#64) ∧ s.jrnl.stepped = false ∧ s.jrnl.frozen = false ∧ (s.vport 0).receives = true) := by decide +kernel

/-- A ring at 0x2000 whose one record of 24 bytes is notified, and a target window. -/
def ringDraining : State :=
  let g : Ring := { base := 0x2000#64, log2 := 12#5, en := true, trapfull := true, drained := 0#32, released := 0#32 }
  let s := journal false (fun j => { j with tgtsize := 65536, queue := [⟨2#8, 1#48, 24, 24#32⟩], rings := Tab.put [] 2 g })
  { s with llc := [(0x80, slice [rw 1#64, rw 2#64, rw 3#64])] }

/-- `HubReads` as a check. -/
def hubReads (s : State) (pa : Pa) (w : TW) : Bool :=
  s.hubReach pa && unit s.fabric.llcen (homeDie s (lineOf pa)) && !inBoot (lineOf pa) && s.dir.all (fun e => !decide (e.1 = lineOf pa)) &&
  (s.llc.look (lineOf pa)).any (fun v => decide (v.data.get (wordIx pa) = w))

theorem hubReads_sound {s : State} {pa : Pa} {w : TW} (h : hubReads s pa w = true) : HubReads s pa w := by
  simp only [hubReads, Bool.and_eq_true, List.all_eq_true] at h
  obtain ⟨⟨⟨⟨h1, h2⟩, h3⟩, h4⟩, h5⟩ := h
  cases e : s.llc.look (lineOf pa) with
  | none => simp [e] at h5
  | some v =>
    simp only [e, Option.any_some, decide_eq_true_eq] at h5
    exact ⟨h1, v.data, ⟨⟨h2, by simpa using h3⟩, fun d hd hn => by simpa [hn] using h4 d hd, by simp [e]⟩, h5.symm⟩

theorem meets_JournalRows_drain :
    let j := ringDraining.jrnl
    let g := j.ring 2
    steady ringDraining = true ∧ ringDraining.ready0 50 = true ∧ j.err = false ∧ 0 < j.tgtsize ∧ j.marks = [] ∧ j.voided = [] ∧ 24 ≤ j.space ∧
    j.tgthead.toNat % j.tgtsize + 24 ≤ j.tgtsize ∧ j.epochs = [] ∧ ((24#32).toNat + 2 ^ 32 - 24) % 2 ^ 32 = 0 ∧
    ∀ k < 3, hubReads ringDraining (toPa (g.base + BitVec.ofNat 64 ((8 * k) % 2 ^ g.log2.toNat))) (rw (BitVec.ofNat 64 (k + 1))) = true := by decide +kernel

/-- A worker whose port 0 to its manager is open, and a manager whose port 3 is. -/
def worker : State :=
  let s := journal true (fun j => { j with role := 2 })
  { s with volley := { s.volley with node := 1#5, ports := setUnit s.volley.ports 0 { s.vport 0 with st := 2, miswire := 0#3 } } }
def managing : State :=
  let s := with' []
  { s with volley := { s.volley with ports := setUnit s.volley.ports 3 { s.vport 3 with st := 2, miswire := 0#3 } } }

theorem meets_JournalRows_links :
    steady worker = true ∧ worker.ready0 50 = true ∧ worker.volley.route 0 = 0 ∧ portOpen (worker.vport 0) = true ∧ worker.jrnl.role ≠ 1 ∧
    worker.fisin.role = true ∧ steady managing = true ∧ portOpen (managing.vport 3) = true ∧ managing.fisin.role = false := by decide +kernel

/-! ### Volley, PCIe, reset and power -/

/-- The Volley block changed. -/
def vol (f : Volley → Volley) : State :=
  let s := with' []
  { s with volley := f s.volley }

/-- Port 3 in state `st`. -/
def port3 (st : Nat) (f : VPort → VPort) : State := vol (fun v => { v with ports := setUnit v.ports 3 (f { unit v.ports 3 with st := st, miswire := 0#3 }) })

/-- A message with no body. -/
def flit0 : Flit := ⟨5, 1, 16#5, 0#5, 7, []⟩

/-- Port 3 in Replay with NAKs and flits still unacknowledged; in state Up with a flit that waits for room; and in training. -/
def replaying : State := port3 3 (fun p => { p with naks := 7, replay := [(1023, flit0), (0, flit0)] })
def waiting : State := port3 2 (fun p => { p with waitq := [flit0], replay := [(0, flit0)] })
def joining : State :=
  let s := port3 1 (fun p => { p with peer := 13#5 })
  { s with volley := { s.volley with present := 0x1FFFF#17 }, jrnl := { s.jrnl with epochs := [epoch 1#48 .opened] } }
def rejoining : State :=
  let s := journal true (fun j => { j with detached := true })
  { s with volley := { s.volley with node := 1#5, ports := setUnit s.volley.ports 0 { s.vport 0 with st := 1, miswire := 0#3 } } }

theorem meets_VolleyRows_ports :
    (∀ n ∈ [0, 1, 2, 3, 4], ((port3 n id).vport 3).st = n ∧ steady (port3 n id) = true ∧ ((port3 n id).vport 3).miswire = 0#3 ∧
      ((port3 n id).vport 3).waitq = []) ∧
    ((replaying.vport 3).replay = [(1023, flit0)] ++ (0, flit0) :: [] ∧ (1023 : Nat) ≠ 0 ∧ 7 ≤ (replaying.vport 3).naks ∧ ((port3 3 id).vport 3).naks < 7) ∧
    ((waiting.vport 3).replay = [] ++ (0, flit0) :: [] ∧ (waiting.vport 3).waitq = [flit0] ∧ 1 ≤ flit0.cls ∧ flit0.cls ≤ 5 ∧
      ({ waiting.vport 3 with replay := [] } : VPort).credit flit0.cls = true) ∧
    (let s := port3 0 (fun p => { p with en := true })
     (s.vport 3).en = true ∧ s.ready0 49 = true ∧ s.fisin.role = false) ∧
    (joining.volley.node = 0#5 ∧ (joining.vport 3).peer = BitVec.ofNat 5 (1 + 4 * 3) ∧ joining.volley.present.getLsbD (joining.vport 3).peer.toNat = true ∧
      joining.jrnl.opened.isSome = true ∧ (joining.vport 3).waitq = [] ∧ (joining.vport 3).replay = []) ∧
    (rejoining.fisin.role = true ∧ rejoining.jrnl.detached = true ∧ (rejoining.vport 0).st = 1 ∧ rejoining.volley.node.toNat % 4 = 1) := by decide +kernel

/-- A relay: the next hop to node 16 is port 3, this device is node 0. -/
theorem meets_VolleyRows_forwards :
    let s := port3 2 id
    s.volley.route 16 = 3 ∧ portOpen (s.vport 3) = true ∧ (16#5 : BitVec 5) ≠ s.volley.node ∧ steady s = true ∧ (s.vport 3).receives = true := by decide +kernel

/-- A descriptor whose first WRITE flit waits at port 3 for room, with a word of 0x2048 left to send to node 16. -/
def continuing : State :=
  let f : Flit := ⟨5, 0, 0#5, 16#5, 9, []⟩
  { port3 2 (fun p => { p with waitq := [f], replay := [(0, flit0)] }) with
    volley := { (port3 2 (fun p => { p with waitq := [f], replay := [(0, flit0)] })).volley with
      descs := [⟨0, 0x2040#64, 0x10000002#64, 0#64, 0, 1, false, 0, false, [(9, 1)]⟩] }
    llc := [(0x81, slice [fx 3#64, fx 4#64])] }

theorem meets_VolleyRows_continues :
    steady continuing = true ∧ hubReads continuing 0x2048#52 (fx 4#64) = true ∧ continuing.volley.route 16 = 3 ∧
    (continuing.volley.descs.all (fun d => !d.done && decide (d.words = d.sent + 1) && !d.w1.getLsbD 47)) = true ∧
    (let t := (continuing.volley, ((bulkRun.run { continuing with volley := { continuing.volley with
        ports := setUnit continuing.volley.ports 3 { unit continuing.volley.ports 3 with waitq := [] } } }).2).volley)
     t.2.sent.map (fun x => (x.1, x.2.body)) = [(3, [writeHead 0 1 1, fx 4#64])] ∧ t.2.descs.map (·.sent) = [2]) := by decide +kernel

/-- The ports hold their own link, or not. -/
theorem meets_VolleyRows_hold :
    (let s := port3 4 (fun p => { p with hold := true })
     s.volley.link 3 = 13 ∧ (s.vport 3).hold = true ∧ ∀ o : VPortId, s.volley.link o = 1 → (s.vport o).hold = false) := by decide +kernel

/-- A message of descriptor 0 of the send ring, or of mailbox channel 63. -/
def msg (desc : Option Nat) (chan : Option (Fin 64)) : VMsg := { msgid := 65535, dst := 16#5, desc := desc, chan := chan, frozen := [] }

/-- A descriptor in flight. -/
def sendDesc (off : Nat) (ids : List (Nat × Nat)) : VDesc := ⟨off, 0#64, 1#64, 0x8000000000000#64, 0, 1, false, 0, false, ids⟩

/-- A ring at 0x2000, descriptor 0 in flight. -/
def inFlight : State :=
  { vol (fun v => { v with sqbase := 0x2000#52, sqsize := 12#5, descs := [sendDesc 0 [(65535, 1)]] }) with llc := Tab.put [] 0x80 (slice [rw 1#64, rw 2#64, rw 3#64, rw 4#64]) }

theorem meets_VolleyRows_messages :
    (∀ m ∈ [msg none (some 63), { msg none (some 63) with frozen := [3] }, msg (some 32) none],
      (vol (fun v => { v with msgs := [m] })).volley.msgs.find? (fun o => decide (o.msgid = 65535)) = some m) ∧
    (let first := sendDesc 0 [(7, 1)]
     let d := sendDesc 32 [(65535, 1)]
     first.done = false ∧ first.allSent = true ∧ first.msgids ≠ [] ∧ first.off ≠ d.off ∧ d.done = false) ∧
    (let m := msg none none
     m.frozen = [] ∧ m.desc = none ∧ m.chan = none) ∧
    (let s := port3 2 id
     (s.vport (s.volley.route 16)).receives = true ∧ ((port3 4 id).vport 3).receives = false) ∧
    (∀ ids ∈ [[(65535, 1)], [(65535, 1), (0, 1)]], (vol (fun v => { v with descs := [sendDesc 0 ids] })).volley.descs = [sendDesc 0 ids]) ∧
    steady inFlight = true ∧ hubReads inFlight (inFlight.volley.descPa 0 + 24#52) (rw 4#64) = true ∧
    Tab.wf inFlight.pcie.irt inFlight.pcie.irtRest = true := by decide +kernel

/-- A ring at 0x2000 whose first descriptor sends one word of 0x2040 to node 16. -/
def ringing : State :=
  { port3 2 id with
    volley := { (port3 2 id).volley with sqbase := 0x2000#52, sqsize := 12#5, sqtail := 1#15 }
    llc := [(0x80, slice [rw 0x2040#64, rw 0x10000001#64, rw 0#64, rw 0#64]), (0x81, slice [fx 3#64])] }

theorem meets_VolleyRows_send :
    let v := ringing.volley
    steady ringing = true ∧ v.descPa 0 = 0x2000#52 ∧ ringing.hubReach 0x2000#52 = true ∧ v.descs.length < 8 ∧ 0 ≠ v.sqtail.toNat % (2 ^ v.sqsize.toNat / 32) ∧
    [(0, 0x2040#64), (1, 0x10000001#64), (2, 0#64), (3, 0#64)].all (fun p => hubReads ringing (0x2000#52 + BitVec.ofNat 52 (8 * p.1)) (rw p.2)) = true ∧
    descOk 0x2040#64 0x10000001#64 0#64 0#64 = true ∧ ((0x10000001#64).extractLsb' 24 5).toNat = 16 ∧ v.route 16 = 3 ∧ portOpen (ringing.vport 3) = true ∧
    (descOk 0#64 0x800010000000#64 0#64 0#64 = true ∧ ((0x800010000000#64).extractLsb' 24 5).toNat = 16 ∧ fieldN 0x800010000000#64 0 24 = 0 ∧
      (0x800010000000#64).getLsbD 47 = true) ∧
    fieldN 0x10000001#64 0 24 = 1 ∧ (0x10000001#64).getLsbD 47 = false ∧ hubReads ringing 0x2040#52 (fx 3#64) = true ∧ (vol id).volley.sqtail = 0#15 := by
  decide +kernel

/-- Window 15 open to every node: one frame at 0x2000. -/
def landing : State :=
  let s := port3 2 id
  { s with volley := { s.volley with wins := setUnit s.volley.wins 15 ⟨0x2000#52, 1, true, 0x1FFFF#17, 0#32⟩ }
           llc := [(0x80, slice []), (0xBF, slice [])] }

theorem meets_VolleyRows_landing :
    let w := unit landing.volley.wins 15
    steady landing = true ∧ portOpen (landing.vport (landing.volley.route 16)) = true ∧ w.en = true ∧ w.srcmask.getLsbD 16 = true ∧
    8 * 511 + 8 * [fx 1#64].length ≤ w.frames * 4096 ∧ hubReads landing 0x2000#52 ⟨0#8, 0#64⟩ = true ∧ hubReads landing 0x2FF8#52 ⟨0#8, 0#64⟩ = true ∧
    landing.volley.raises = [] ∧ (unit landing.volley.wins 0).en = false ∧ Tab.getD landing.volley.landedFrom 16 0 < 1 ∧
    0 ≤ Tab.getD landing.volley.landedFrom 16 0 ∧ (landing.pcie.entry (0x7FF % 2048)).getLsbD 2 = false := by decide +kernel

theorem meets_VolleyRows_mailbox :
    (let s := journal true id
     let s := { s with volley := { s.volley with node := 1#5, ports := setUnit s.volley.ports 1 { s.vport 1 with st := 2, miswire := 0#3 } } }
     portOpen (s.vport (s.volley.route 2)) = true ∧ s.fisin.role = decide ((2#5 : BitVec 5) ≠ 0#5)) ∧
    (let s := landing
     s.ready0 48 = true ∧ badWord0 (extCmd 0x0001 |>.get 0) = false ∧ badWord0 0xFFFFFFFFFFFFFFFF#64 = true ∧ fieldN ((extCmd 0x0001).get 0) 0 16 ∈ knownCodes ∧
       s.fisin.role = false ∧ (s.fisin.role ≠ decide ((16#5 : BitVec 5) ≠ 0#5))) ∧
    (let s := rung (with' []) 2 0xFF100001 []
     let s := { s with fisin := { s.fisin with bells := [], chans := setUnit s.fisin.chans 63 { s.mbox 63 with irqen := true } } }
     s.remoteChan 0xFF#8 16#5 = some 63 ∧ (s.mbox 63).irqen = true) ∧
    (let s := { port3 2 id with fisin := { (port3 2 id).fisin with ext := { (port3 2 id).fisin.ext with active := true, cmd := extCmd 0xFF100001 } } }
     s.remoteChan 0xFF#8 16#5 = none ∧ s.remoteExt 0xFF#8 16#5 = true) ∧
    (let s := { port3 2 id with fisin := { (port3 2 id).fisin with swapOp := some (.chan 63) } }
     s.handover = true ∧ steady s = true) := by decide +kernel

/-- Port 15 trained, and a bypassed requester; the words at 0x2000 and 0x2040, which is poison. -/
def peripheral (ctx : List IoCtx) : State :=
  let s := with' []
  { s with pcie := { s.pcie with ports := setUnit s.pcie.ports 15 { unit s.pcie.ports 15 with present := true, l0 := true }, ctxs := ctx }
           llc := [(0x80, slice [rw 0x1122#64]), (0x81, slice [⟨0x82#8, 0#64⟩])] }

/-- The requester of the tests. -/
def bypass : State := peripheral [⟨0xFFFF#16, 2, false, 0#16, 0#52⟩]

theorem meets_PcieRows :
    (let s := bypass
     steady s = true ∧ (s.pcie.ports.get 15).l0 = true ∧ ((with' []).pcie.ports.get 15).l0 = false ∧
       (s.pcie.ctxs.find? (fun o => decide (o.rid = 0xFFFF#16))).any (fun x => decide (x.mode = 2)) = true ∧ (0x2000#64).toNat < 2 ^ 52 ∧
       s.memReady 0x2000#52 = true ∧ s.memReady 0x2040#52 = true ∧ s.dieLost (homeDie s 0x80) = false ∧ s.dieLost (homeDie s 0x81) = false ∧
       0x2000 / 4096 ≠ 0xFEF00 ∧ 0x2040 / 2 ^ 20 ≠ 0xFEE ∧ (0x2000#52).toNat % 8 = 0 ∧ 0x7BF < 0x7C0 ∧ (s.pcie.entry 0x7BF).getLsbD 2 = false ∧
       hubBytes s 0x2000#52 [0x22#8, 0x11#8] = true ∧ hubReads s 0x2000#52 (rw 0x1122#64) = true ∧ hubReads s 0x2040#52 ⟨0x82#8, 0#64⟩ = true ∧
       (∀ o : CoreId, (s.core o).pcie = []) ∧ s.ready0 52 = true ∧ Tab.wf s.pcie.irt s.pcie.irtRest = true) ∧
    (let io := (with' []).pcie
     2 ^ 52 ≤ (0x10000000000000#64).toNat ∧ ({ io with fltsize := 12#5, flthead := 255#16 } : Pcie).flthead.toNat + 1 = 256 ∧
       (255 + 1) % (2 ^ 12 / 16) = (0#16).toNat % (2 ^ 12 / 16)) ∧
    (let w : Word := bitAt true 3 ||| bitAt true 0 ||| placed 1 8 ||| placed 0x90 12
     let s := with' []
     let s := { s with fisin := { s.fisin with lmap := setUnit s.fisin.lmap 0 0x80#8 } }
     w.getLsbD 3 = true ∧ w.getLsbD 0 = true ∧ w.getLsbD 1 = false ∧ irtErr w = false ∧ s.fisin.logical (fieldN w 20 6) = some 0 ∧ (s.core 0).takes = true) ∧
    (let s := peripheral []
     let s := { s with pcie := { s.pcie with ports := setUnit s.pcie.ports 15 { unit s.pcie.ports 15 with l0 := false } } }
     (s.pcie.ports.get 15).present = true ∧ (s.pcie.ports.get 15).l0 = false ∧ s.ready0 52 = true) := by decide +kernel

/-- A core that waits for a PCIe read of port 15. -/
theorem meets_PcieRows_wait :
    let q : PcieWait := { pa := 0x2000#52, n := 8, done := none }
    let s := core0 (with' []) (fun k => { k with pcie := [q] })
    steady s = true ∧ (s.core 0).pcie = [q] ∧ (s.core 0).async = [] := by decide +kernel

theorem meets_ResetRows :
    (with' []).standby.pwrgood = true ∧
    (∀ a ∈ [true, false], let b : Standby := { (with' []).standby with armed := a, vstby := true, pwrgood := false }
     let s := { with' [] with standby := b, dev := { (with' []).dev with mode := 0 } }
     s.dev.mode = 0 ∧ s.standby.armed = a ∧ s.standby.vstby = true ∧ s.standby.pwrgood = false) ∧
    (let s := with' []
     s.dev.mode ≠ 0 ∧ ({ s.standby with armed := true } : Standby).armed = true ∧ ({ s.standby with vstby := false } : Standby).vstby = false) ∧
    (let s := with' []
     let s := { s with fisin := { s.fisin with dormantOp := some 7#64 } }
     steady s = true ∧ s.dev.mode = 2 ∧ s.fisin.dormantOp = some 7#64 ∧ s.standby.wakePending = false) := by decide +kernel

theorem meets_PowerRows :
    (let s := with' []
     steady s = true ∧ s.power.hot.get 0 = false ∧ s.power.hot.get 1 = false ∧ s.power.pfail.get 1 = false ∧ 12 ≤ (s.clock 11).thermcap ∧ (s.clock 11).thermcap ≤ 30 ∧
       s.dev.mode ≠ 1 ∧ ({ s.fisin with params := Tab.put [] 8 0#64 } : Fisin).param 8 1 = 0 ∧
       s.fisin.flashlog.length + (s.fisin.sram.length - s.fisin.flushed) ≤ 262144) ∧
    (∀ x ∈ [none, some (10, 30)], let s := with' []
     let k := { s.clock 11 with busy := true, waiting := none, applying := x }
     let s := { s with power := { s.power with hot := setUnit s.power.hot 1 true, clocks := setUnit s.power.clocks 11 k } }
     s.power.hot.get 1 = true ∧ (s.clock 11).busy = true ∧ (s.clock 11).waiting = none ∧ (s.clock 11).planWait = false ∧ (s.clock 11).applying = x) ∧
    (steady State.reset = true ∧ State.reset.dev.mode = 1 ∧ State.reset.ready0 48 = false ∧ State.reset.ready0 49 = false ∧ State.reset.fisin.role = false ∧
      State.reset.jrnl.role = 0 ∧ State.reset.jrnl.epochs = [] ∧ State.reset.jrnl.first ≠ 0#48 ∧ State.reset.jrnl.rejoins = []) ∧
    (let s := { State.reset with fisin := { State.reset.fisin with rdy0 := 0x1FFF000000#64 ||| 0x1000000000000#64 } }
     steady s = true ∧ s.ready0 24 = true ∧ s.ready0 48 = true ∧ s.ready0 49 = false ∧ (∀ i < 12, s.ready0 (24 + i) = true) ∧ s.fisin.paircfg = 0xFFFFFF ∧
       ({ s.fisin with params := Tab.put [] 1 0#64 } : Fisin).paircfg = 0 ∧ s.fisin.lvalid = false ∧ s.fisin.bootmap = false ∧ (s.core 0).run = .stopped ∧
       (∀ p : PairId, (s.pair p).failed = false ∧ s.fisin.fail0.getLsbD p.val = false ∧ (s.core (evenOf p)).run ≠ .retired)) := by decide +kernel

/-- The header of an image of a kind, its body `n` bytes, under a key (Table 17-3). -/
def header (kind n key : Nat) : List Byte :=
  [0x31#8, 0x49#8, 0x53#8, 0x46#8, BitVec.ofNat 8 kind, 0#8, 0x30#8, 0x48#8] ++ List.replicate 8 0#8 ++ [BitVec.ofNat 8 n, 0#8, 0#8, 0#8] ++ List.replicate 4 0#8 ++
  [BitVec.ofNat 8 key] ++ List.replicate 39 0#8

/-- Flash with Fisin firmware and boot firmware in slot A and a configuration block that gives AGATEMAX 8. -/
def flashed : Fisin :=
  let cells := flashWrite [] 0x2850000 (header 3 8 1 ++ [4#8, 0#8, 8#8, 0#8, 0#8, 0#8, 0#8, 0#8])
  { State.reset.fisin with flash := flashWrite (flashWrite cells 0x850000 (header 2 0 1)) 0x10000 (header 1 0 0) }

/-- A start from slot A, none from an empty flash, one over the UART; and the same for boot firmware. -/
theorem meets_PowerRows_images :
    flashed.judge 1 false true = 0 ∧ flashed.judge 1 true true ≠ 0 ∧ flashed.judge 1 false false ≠ 0 ∧ flashed.judge 2 false true = 0 ∧
    flashed.judge 2 true true ≠ 0 ∧ flashed.judge 3 false true = 0 ∧ flashed.judge 3 false false ≠ 0 ∧ flashed.flashN (0x2850000 + 0x10) 4 = 8 ∧
    flashed.flashN (0x2850000 + 0x40) 2 = 4 ∧ Tab.risingFrom 0 flashed.params = true ∧ State.reset.fisin.judge 1 false true ≠ 0 ∧
    State.reset.fisin.judge 2 false true ≠ 0 ∧
    (let uart := header 1 0 0 ++ List.replicate 96 0#8
     let rd (o n : Nat) : Nat := ofBytes ((List.range n).map (fun i => uart.getD (o + i) 0#8))
     imageCheck State.reset.fisin rd 1 (min (slotOf 1 false).2 uart.length) true = 0 ∧ imageCheck State.reset.fisin rd 1 (min (slotOf 1 false).2 uart.length) false ≠ 0) := by
  decide +kernel

/-! ### The machine as a whole -/

theorem meets_ModeTransitions : State.reset.dev.Legal := ⟨by decide, by decide⟩
theorem meets_MemoryInvariant : State.reset.mem.wf = true ∧ State.reset.chans.any (·.waits) = false := by decide +kernel
theorem meets_StepRunsFront :
    ({ State.reset with pending := [.pfailRelease 1] } : State).pending = .pfailRelease 1 :: [] ∧ State.reset.pending = [] ∧
    State.reset.ready0 50 = false ∧ (with' []).pending = [] ∧ (with' []).ready0 50 = true ∧ (with' []).jrnl.slew = 0 ∧ (with' []).integ.conv = none ∧
    ((with' []).chan 0).st = 3 ∧ ((with' []).chan 0).retryact = false ∧ (with' []).dieLost (dieOfChan 0) = false ∧
    (let s := channed (fun k => { k with wm := 5 })
     (s.chan 0).wm < (s.chan 0).frames s.integ.agatemax) := by decide +kernel
/-- Slewing either way at the 10,000th nanosecond. -/
theorem meets_StepRunsFront_slew : ∀ x ∈ [(-3 : Int), 3],
    let s := { journal false (fun j => { j with slew := x }) with now := 9999 }
    s.pending = [] ∧ s.ready0 50 = true ∧ (s.now + 1) % 10000 = 0 ∧ s.jrnl.slew ≠ 0 := by decide +kernel
theorem meets_DecodeEncode : encodeInsn (.add 0 1#5 2#5 3#5) ≠ none ∧ (Instr.add 0 1#5 2#5 3#5).wellFormed = true := by decide +kernel

/-! ### Ill-formed terms: one for each check of WellFormed -/

/-- An operand of a decimal or string row. -/
def xop (rd ra rc : Reg) (e : BitVec 32) : XOp := ⟨rd, ra, rc, e⟩

theorem test_refused_integer : (Instr.shi 0 1#5 2#5 3#2 0#6).wellFormed = false := by decide
theorem test_refused_float : (Instr.fadd 0 1#5 2#5 3#5 ⟨5#3, false⟩).wellFormed = false ∧ (Instr.fcvtS 0 1#5 2#5 7#3).wellFormed = false := by decide
theorem test_refused_memory :
    (Instr.ld 0 1#5 3#2 ⟨2#5, 1#2, 0x01F#12⟩).wellFormed = false ∧ (Instr.ld 0 2#5 3#2 ⟨2#5, 3#2, 0#12⟩).wellFormed = false ∧
    (Instr.lds 0 1#5 3#2 ⟨2#5, 0#2, 0#12⟩).wellFormed = false ∧ (Instr.st 0 1#5 3#2 ⟨2#5, 2#2, 1#12⟩).wellFormed = false ∧
    (Instr.dzl 0 ⟨2#5, 2#2, 0x200#12⟩).wellFormed = false := by decide
theorem test_refused_prefix : (Instr.rep 0 0x04411800#32).wellFormed = false ∧ (Instr.repn 0 0x44403000#32).wellFormed = false := by decide
theorem test_refused_system : (Instr.tlbi 0 1#5 6#4).wellFormed = false ∧ (Instr.mfs 0 1#5 0xFFF#12).wellFormed = false ∧
    (Instr.mts 0 1#5 0xFFF#12).wellFormed = false := by decide
theorem test_refused_decimal :
    (Instr.dadd 0 (xop 1#5 2#5 3#5 (fields 0 1 1 0))).wellFormed = false ∧ (Instr.dadd 0 (xop 1#5 2#5 3#5 (fields 33 1 1 0))).wellFormed = false ∧
    (Instr.dcmp 0 (xop 1#5 2#5 3#5 (fields 0 1 1 0))).wellFormed = false ∧ (Instr.dadd 0 (xop 1#5 2#5 3#5 (fields 1 1 1 8))).wellFormed = false ∧
    (Instr.dshr 0 (xop 1#5 2#5 0#5 (fields 1 1 0 2))).wellFormed = false ∧ (Instr.dadd 0 (xop 1#5 2#5 3#5 (fields 1 1 1 1))).wellFormed = false ∧
    (Instr.dcmp 0 (xop 0#5 2#5 3#5 (fields 0 1 1 1024))).wellFormed = false := by decide
theorem test_refused_string :
    (Instr.mvst 0 (xop 1#5 2#5 3#5 0#32)).wellFormed = false ∧ (Instr.mvst 0 (xop 1#5 2#5 0#5 0x00400000#32)).wellFormed = false ∧
    (Instr.mvst 0 (xop 1#5 2#5 0#5 0x00004000#32)).wellFormed = false ∧ (Instr.mvst 0 (xop 1#5 2#5 0#5 0x00002000#32)).wellFormed = false ∧
    (Instr.srch 0 (xop 1#5 2#5 0#5 1#32)).wellFormed = false := by decide
theorem test_refused_reserved : (Instr.reservedOpcode 0 0#32 0#32).wellFormed = false := by decide

/-! ### Decoding: words that the spec writes out, and words put together from Tables 2-2 and 2-3 -/

/-- The words of the examples of 02, 03, 04 and 05. -/
theorem test_decode_examples :
    decodeInsn 0 0x4E55FC00#32 0#32 = some (.st 0 18#5 3#2 ⟨21#5, 3#2, 0xC00#12⟩) ∧
    decodeInsn 0 0x5C000000#32 0x4E55FC00#32 = some (.rep 0 0x4E55FC00#32) ∧
    decodeInsn 0 0x3A719000#32 0#32 = some (.gadd 0 19#5 17#5 18#5) ∧
    decodeInsn 0 0x32119003#32 0#32 = some (.fdiv 0 16#5 17#5 18#5 ⟨0#3, false⟩) ∧
    decodeInsn 0 0x3274A800#32 0#32 = some (.fadd 0 19#5 20#5 21#5 ⟨0#3, false⟩) ∧
    decodeInsn 0 0x30309802#32 0#32 = some (.fmul 0 1#5 16#5 19#5 ⟨0#3, false⟩) ∧
    decodeInsn 0 0x8A119001#32 0x122D0020#32 = some (.fmtf 0 (xop 16#5 17#5 18#5 0x122D0020#32)) ∧
    decodeInsn 0 0x8E110000#32 0x90000000#32 = some (.mvst 0 (xop 16#5 17#5 0#5 0x90000000#32)) := by decide +kernel

theorem test_decode_integer :
    decodeInsn 0 0b000001_00001_00010_00011_00000001011#32 0#32 = some (.div 0 1#5 2#5 3#5) ∧
    decodeInsn 0 0b000010_00001_00010_1111111111111111#32 0#32 = some (.addi 0 1#5 2#5 0xFFFF#16) ∧
    decodeInsn 0 0b000110_00001_00010_00000000_10_111111#32 0#32 = some (.shi 0 1#5 2#5 2#2 63#6) ∧
    decodeInsn 0 0b001011_00001_000_11_0000000000000001#32 0#32 = some (.ldih 0 1#5 3#2 1#16) ∧
    decodeInsn 0 0b000001_00001_00010_00011_00000001111#32 0#32 = none := by decide +kernel
theorem test_decode_generic :
    decodeInsn 0 0b001110_00000_00010_00011_00000000100#32 0#32 = some (.gcmp 0 2#5 3#5) ∧
    decodeInsn 0 0b001111_00001_00010_00011_00000000010#32 0#32 = some (.cons 0 1#5 2#5 3#5) ∧
    decodeInsn 0 0b010000_00001_00010_01000000_00000001#32 0#32 = some (.tagset 0 1#5 2#5 0x40#8) := by decide +kernel
theorem test_decode_memory :
    decodeInsn 0 0b010001_00001_00010_00_10_111111111111#32 0#32 = some (.ld 0 1#5 2#2 ⟨2#5, 0#2, 0xFFF#12⟩) ∧
    decodeInsn 0 0b010010_00001_00010_01_01_00011_11_00000#32 0#32 = some (.lds 0 1#5 1#2 ⟨2#5, 1#2, 0x1E0#12⟩) ∧
    decodeInsn 0 0b010101_00001_00010_00011_00000000000#32 0#32 = some (.cas 0 1#5 2#5 3#5) ∧
    decodeInsn 0 0b010110_00010_00010_00_11_000000000000#32 0#32 = some (.cflush 0 ⟨2#5, 0#2, 0#12⟩) ∧
    decodeInsn 0 0b010010_00001_00010_00_11_000000000000#32 0#32 = none := by decide +kernel
theorem test_decode_branch :
    decodeInsn 0 0b011000_11111111111111111111111111#32 0#32 = some (.b 0 0x3FFFFFF#26) ∧
    decodeInsn 0 0b011010_1010_0000000000000000000001#32 0#32 = some (.bc 0 10#4 1#22) ∧
    decodeInsn 0 0b011011_00000_00000_00000_00000000010#32 0#32 = some (.ret 0) := by decide +kernel
theorem test_decode_system :
    decodeInsn 0 0b011100_00000_00010_00011_00000000010#32 0#32 = some (.ctxsw 0 2#5 3#5) ∧
    decodeInsn 0 0b011101_00000_00000_000000111111_0000#32 0#32 = some (.trap 0 63#6) ∧
    decodeInsn 0 0b011101_00001_00000_000000000001_0111#32 0#32 = some (.mfp 0 1#5 true) ∧
    decodeInsn 0 0b011110_00001_00000_00000_00000000010#32 0#32 = some (.jstamp 0 1#5) ∧
    decodeInsn 0 0b111110_00001_00010_00011_11111111111#32 0#32 = some (.customerExtensionFunction 0 1#5 2#5 3#5 0x7FF#11) ∧
    decodeInsn 0 0#32 0#32 = none ∧ decodeInsn 0 0xFFFFFFFF#32 0#32 = none := by decide +kernel
theorem test_decode_decimal :
    decodeInsn 0 0b100000_00001_00010_00011_00000000001#32 0b000001_000010_000011_1_1_1_1_0000000_00_0#32 =
      some (.dsub 0 (xop 1#5 2#5 3#5 0x0420FC00#32)) ∧
    decodeInsn 0 0b100011_00001_00010_00000_00000000011#32 0b00100_00000_11111111_1_0000000000000#32 =
      some (.srch 0 (xop 1#5 2#5 0#5 0x203FE000#32)) := by decide +kernel

/-! ### Single steps and worked examples of the spec -/

/-- The state that a row's execution leaves. -/
def next (i : Instr) (s : State) : State :=
  match exec i s with
  | .next t => t
  | _ => s

/-- A register of core 0 after a row. -/
def after (i : Instr) (s : State) (f : Reg) : TW := ((next i s).regs 0).read f

/-- R59, R60: −2^63 divided by −1 is −2^63 with CC 3; an overflowing sum sets CC 3. -/
theorem test_div_overflow :
    let s := with' [(4#5, fx 0x8000000000000000#64), (5#5, fx 0xFFFFFFFFFFFFFFFF#64)]
    (after (.div 0 1#5 4#5 5#5) s 1#5 = fx 0x8000000000000000#64 ∧ ((next (.div 0 1#5 4#5 5#5) s).ctx 0).csw.cc = 3#2) ∧
    after (.rem 0 1#5 4#5 5#5) s 1#5 = fx 0#64 := by decide +kernel
/-- R65: a branch of offset −1 goes to the word before. -/
theorem test_branch_back : ((next (.b 0 0x3FFFFFF#26) (with' [])).ctx 0).pc = 0x0FFC#64 := by decide +kernel

/-- Example of 02: the stores of a ring of 64 KiB at 0x2000 (the example's ring moved to the test's memory), X from 0x2FFF0. -/
def ring3 (v : Word) : State :=
  holding (inCtx (fun x => { x with modbase := x.modbase.set 3 0x2000#64, modsize := x.modsize.set 3 0x10000#64 }) [(21#5, rw v), (18#5, fx 7#64)]) 0x47F .m []
theorem test_modulo_store :
    let i := Instr.st 0 18#5 3#2 ⟨21#5, 3#2, 0xC00#12⟩
    after i (ring3 0x2FFF0#64) 21#5 = rw 0xFFF8#64 ∧ ((next i (ring3 0x2FFF0#64)).core 0).stbuf = [.word 0x11FF0#52 (fx 7#64) false] ∧
    after i (ring3 0xFFF8#64) 21#5 = rw 0#64 := by decide +kernel

/-- Example of 04: FDIV of the largest finite value by the smallest subnormal queues an assist and delivers +0 for now. -/
theorem test_assist :
    let s := with' [(17#5, ⟨0x02#8, 0x7FEFFFFFFFFFFFFF#64⟩), (18#5, ⟨0x02#8, 1#64⟩)]
    let i := Instr.fdiv 0 16#5 17#5 18#5 ⟨0#3, false⟩
    after i s 16#5 = ⟨0x02#8, 0#64⟩ ∧ ((next i s).regs 0).fdq.map (fun e => (e.assist, e.addr, e.opa, e.opb)) =
      [(true, 0x1000#64, 0x7FEFFFFFFFFFFFFF#64, 1#64)] := by decide +kernel
/-- The example's last instruction reads the pending destination: the queue is delivered first, through entry 0x18. -/
theorem test_delivery :
    let s := handled (with' [(17#5, ⟨0x02#8, 0x7FEFFFFFFFFFFFFF#64⟩), (18#5, ⟨0x02#8, 1#64⟩)]) 0x18
    let t := next (.fmul 0 1#5 16#5 19#5 ⟨0#3, false⟩) (next (.fdiv 0 16#5 17#5 18#5 ⟨0#3, false⟩) s)
    (t.ctx 0).pc = 0x3000#64 ∧ (t.regs 0).fdqra = 0x1004#64 ∧ (t.regs 0).deliv = true := by decide +kernel

/-- Example of 03: a boxed total of 12,345,678,901,234,567,890,123 in k1, a debit of 4,250 in k2, the buffer at `at_`. -/
def ledger (at_ : Word) : State :=
  let s := inCtx (fun x => { x with allocptr := at_, alloclim := 0x3000#64, tttb := 0x2200#64 }) [(17#5, ⟨0x43#8, 0x2000#64⟩), (18#5, fx (0#64 - 4250#64))]
  let box : List TW := [⟨0x80#8, 0x0043000C00000002#64⟩, rw 0x5634129078563412#64, rw 0x3C129078#64]
  holding (holding (holding s 0x80 .e box) 0xBC .m []) 0x89 .e [rw 0x4000#64]
/-- The sum's box takes 24 bytes and CSW.CC is 2; its header and digits wait in the store buffer. -/
theorem test_decimal_sum :
    let t := next (.gadd 0 19#5 17#5 18#5) (ledger 0x2F00#64)
    (t.regs 0).read 19#5 = ⟨0x43#8, 0x2F00#64⟩ ∧ (t.ctx 0).allocptr = 0x2F18#64 ∧ (t.ctx 0).csw.cc = 2#2 ∧
    (t.core 0).stbuf = [.word 0x2F00#52 ⟨0x80#8, 0x0043000C00000002#64⟩ false, .word 0x2F08#52 (rw 0x5634129078563412#64) false,
      .word 0x2F10#52 (rw 0x3C878578#64) false] := by decide +kernel
/-- With the buffer at its end the class 8 tag trap is taken, and TTINFO reads as the example says. -/
theorem test_tag_trap :
    let t := next (.gadd 0 19#5 17#5 18#5) (ledger 0x2FF0#64)
    (t.ctx 0).ttinfo = 0x0143025198000E88#64 ∧ (t.ctx 0).ttra = 0x1000#64 ∧ (t.ctx 0).pc = 0x4000#64 ∧ (t.ctx 0).wstat.cw = 1#5 := by decide +kernel

/-- Example of 05: the values of the picture's two sources, and of a packed field. -/
theorem test_packed : packedValue [0x00#8, 0x12#8, 0x34#8, 0x56#8, 0x78#8, 0x9D#8] = -123456789 ∧ packedValue [0x00#8, 0x5C#8] = 5 ∧
    packedBytes 6 (-123456789) = [0x00#8, 0x12#8, 0x34#8, 0x56#8, 0x78#8, 0x9D#8] := by decide +kernel

/-- Example of 05: the picture at 0x2100, its source at 0x2140, the destination at 0x2200. -/
def printing (src : Word) : State :=
  let s := with' [(16#5, rw 0x2200#64), (17#5, rw 0x2140#64), (18#5, rw 0x2100#64)]
  holding (holding (holding s 0x84 .e [rw 0xE1E12CE4E1E124E7#64, rw 0xE02EE0E1E12CE4E1#64, rw 0xE3E0#64]) 0x85 .e [rw src]) 0x88 .m (List.replicate 8 (rw 0#64))

/-- The 14 bytes that lie at the destination after the stores, and CSW.CC. -/
def printed (src : Word) : List Word × BitVec 2 :=
  let t := next (.fmtf 0 (xop 16#5 17#5 18#5 0x122D0020#32)) (printing src)
  ((t.core 0).stbuf.foldl (fun l o => match o with
    | .part pa _ v _ => l.set (pa.toNat - 0x2200) v
    | _ => l) (List.replicate 14 0#64), (t.ctx 0).csw.cc)
/-- "$1,234,567.89-" with CC 1, and "        $0.05 " with CC 2. -/
theorem test_print_negative : printed 0x9D7856341200#64 =
    ([0x24#64, 0x31#64, 0x2C#64, 0x32#64, 0x33#64, 0x34#64, 0x2C#64, 0x35#64, 0x36#64, 0x37#64, 0x2E#64, 0x38#64, 0x39#64, 0x2D#64], 1#2) := by decide +kernel
theorem test_print_small : printed 0x5C0000000000#64 =
    (List.replicate 8 0x20#64 ++ [0x24#64, 0x30#64, 0x2E#64, 0x30#64, 0x35#64, 0x20#64], 2#2) := by decide +kernel

/-! ### Memory channels and the identity of cores -/

/-- R2 and its example: core 37 is the trailing core of pair 18, in cluster 3 of East. -/
theorem test_core_37 : pairOf 37 = 18 ∧ oddOf 18 = 37 ∧ dieOf 37 = 1 ∧ (clusterOf 37).val = 6 + 3 ∧ pairReg 18 0 = 0x8240000 := by decide +kernel

/-- Example of 12: six channels of 240 GiB on each die. -/
def twelve : State :=
  { State.reset with chans := Vector.ofFn (fun i => { Reset.channel with
      st := 3, mode := 0#2, n := 6, pos := i.val % 6, base := if i.val < 6 then 0 else 1440, cap := 240, wm := 0x4000000, agwm := 0x4000000, gib := 256 }) }
theorem test_locate :
    twelve.locate 0x0000880001F00#52 = some (5, 0x16AAAAF00) ∧ twelve.locate 0x0016800025A10#52 = some (7, 0x6A10) := by decide +kernel

/-- Example of 13: a lap of a 256 GiB channel. -/
theorem test_quota : { Reset.channel with gib := 256, lapmin := 1440 }.quota = 50 ∧ { Reset.channel with gib := 256, lapmin := 60 }.quota = 1194 ∧
    { Reset.channel with gib := 256, lapmin := 1440, boost := 4 }.quota = 50 := by decide +kernel

/-- R427: an event of a swap waits in the FIFO, a full FIFO overflows, and the drain logs what waited. -/
theorem test_swap_fifo :
    (let s := with' []
     let s := { s with fisin := { s.fisin with swapOp := some (.chan 63), events := List.replicate 255 (.row 0 64 0) } }
     let a := (fisinLog 4 0 1 0#64 0#64 s).2
     let b := (fisinLog 4 0 2 0#64 0#64 a).2
     let d := (drainEvents { a with fisin := { a.fisin with swapOp := none, events := a.fisin.events.drop 255 } }).2
     a.fisin.sram = s.fisin.sram ∧ a.fisin.events.length = 256 ∧ a.fisin.eventsOver = false ∧ b.fisin.events = a.fisin.events ∧
     b.fisin.eventsOver = true ∧ d.fisin.events = [] ∧ d.lastLog = some (4, 0, 1)) := by decide +kernel

/-- R378: the CRC-32 of IEEE 802.3 of the nine digits, as the standard's check value has it. -/
theorem test_crc : crc32 ((List.range 9).map (fun i => BitVec.ofNat 8 (0x31 + i))) = 0xCBF43926#32 := by decide +kernel

end Sys2Proof.Tests
end

section
/-! The operating mode (00, R5): a rising RESET_N whose boot ROM fails its self-check is the reset into Staging and the entry to Halted in one
step of the model, whatever mode the device was in. -/

namespace Sys2Proof.Machine

/-! ### What a failed boot leaves in DEVMODE -/

/-- The state after two steps is the one that the second leaves. -/
theorem snd_run_bind {α β : Type} (m : M α) (f : α → M β) (s : State) : ((m >>= f) s).2 = (f (m s).1 (m s).2).2 := rfl

/-- R412: a reset leaves DEVMODE at its reset value. -/
@[simp] theorem State.afterReset_dev (s : State) : s.afterReset.dev = Reset.dev := rfl

@[simp] theorem State.afterReset_pwrgood (s : State) : s.afterReset.standby.pwrgood = s.standby.pwrgood := rfl

/-- R412, R434: with PWRGOOD high a rise of RESET_N is a reset. -/
theorem dev_riseReset (role bootsrc pairsafe record : Bool) (s : State) (h : s.standby.pwrgood = true) :
    (riseReset role bootsrc pairsafe record s).2.dev = Reset.dev := by
  simp [riseReset, h]

theorem pwrgood_riseReset (role bootsrc pairsafe record : Bool) (s : State) :
    (riseReset role bootsrc pairsafe record s).2.standby.pwrgood = s.standby.pwrgood := by
  cases h : s.standby.pwrgood <;> simp [riseReset, h]

/-- R417: every mode but Dormant enters Halted. -/
theorem mode_enterHalted (s : State) (h : s.dev.mode ≠ 0) : (enterHalted s).2.dev.mode = 5 := by
  rw [enterHalted, snd_run_bind, run_get, run_ite, if_pos h]
  rfl

/-- R393, R396: with PWRGOOD high, a boot ROM that fails its self-check leaves the device Halted, whatever mode it was in. -/
theorem mode_bootRises_of_failed (role bootsrc pairsafe record : Bool) (s : State) (h : s.standby.pwrgood = true) :
    (bootRises role bootsrc pairsafe record false s).2.dev.mode = 5 := by
  have hdev := dev_riseReset role bootsrc pairsafe record s h
  have hp := (pwrgood_riseReset role bootsrc pairsafe record s).trans h
  rw [bootRises, snd_run_bind, snd_run_bind, run_get, run_ite, if_pos (by simp [hp])]
  exact mode_enterHalted _ (by simp [hdev, Reset.dev])

/-! ### A device that wakes and fails -/

/-- RESET_N rises, the boot record reads well, and the boot ROM fails its self-check. -/
noncomputable abbrev failedRise : Instr := .resetNRise ⟨false, false, false⟩ true false

/-- An Operational device at the end of its Dormant entry (R421), and the commands that come. -/
def fallingAsleep (commands : List Instr) : State :=
  { State.reset with
    dev := { Reset.dev with mode := 2 }
    fisin := { Reset.fisin with dormantOp := some 0#64 }
    pending := commands }

/-- A device in Dormant with its WAKE_N detector armed. -/
def dormant (commands : List Instr) : State :=
  { State.reset with
    dev := { Reset.dev with mode := 0 }
    standby := { Reset.standby with valid := true, armed := true, pwrReq := false, resetN := false, pwrgood := false }
    pending := commands }

/-- A device in Dormant, woken (REASON 1) and with PWRGOOD high again; RESET_N has yet to rise (R422). -/
def wokenDormant (commands : List Instr) : State :=
  { State.reset with
    dev := { Reset.dev with mode := 0 }
    standby := { Reset.standby with valid := true, reason := 1#3, resetN := false }
    pending := commands }

theorem step_fallingAsleep : step (fallingAsleep [.dormantEntryComplete, .wakeNEdge, .pwrgoodRiseInDormant, failedRise]) =
    .next (dormant [.wakeNEdge, .pwrgoodRiseInDormant, failedRise]) := by
  obtain ⟨t, hstep, rfl⟩ : ∃ t, step (fallingAsleep [.dormantEntryComplete, .wakeNEdge, .pwrgoodRiseInDormant, failedRise]) = .next t ∧
      t = dormant [.wakeNEdge, .pwrgoodRiseInDormant, failedRise] := ⟨_, rfl, by decide +kernel⟩
  exact hstep

theorem run_dormant_wakes (commands : List Instr) :
    Sys2Proof.core.run 2 (dormant (.wakeNEdge :: .pwrgoodRiseInDormant :: commands)) = .next (wokenDormant commands) := rfl

theorem run_succ_of_step {M : Host.Core} {k : Nat} {s t : M.State} (h : M.step s = .next t) : M.run (k + 1) s = M.run k t := by
  rw [Host.Core.run, h]

/-- Dormant with PWRGOOD high is where an Operational device stands once its Dormant entry has completed, WAKE_N has fallen and PWRGOOD has
risen. -/
theorem run_fallingAsleep :
    Sys2Proof.core.run 3 (fallingAsleep [.dormantEntryComplete, .wakeNEdge, .pwrgoodRiseInDormant, failedRise]) =
      .next (wokenDormant [failedRise]) :=
  (run_succ_of_step step_fallingAsleep).trans (run_dormant_wakes [failedRise])

theorem wokenDormant_legal (commands : List Instr) : (wokenDormant commands).dev.Legal :=
  ⟨by simp [wokenDormant], by simp [wokenDormant, Reset.dev, Dev.flags]⟩

/-- The step in which RESET_N rises for the woken device takes its mode from Dormant to Halted. -/
theorem step_wokenDormant : ∃ t, step (wokenDormant [failedRise]) = .next t ∧ t.dev.mode = 5 :=
  ⟨_, rfl, mode_bootRises_of_failed false false false true (wokenDormant []) rfl⟩

/-- Refutes O42: RESET_N rises in Dormant with PWRGOOD high and the boot ROM fails its self-check (R396, R393). The model takes the reset into
Staging and the entry to Halted in one step, so the mode goes from 0 to 5, a pair that the list leaves out. -/
theorem not_modeTransitions : ¬ Obligations.ModeTransitions := by
  rintro ⟨hkept, -⟩
  obtain ⟨t, ht, hmode⟩ := step_wokenDormant
  have hfrom : (wokenDormant [failedRise]).dev.mode = 0 := rfl
  obtain ⟨-, hmoves⟩ := hkept _ t (wokenDormant_legal _) ht
  rw [hfrom, hmode] at hmoves
  exact absurd hmoves (by decide)

end Sys2Proof.Machine
end

section
/-! The decoder reads every bit of an instruction word (02, R46–R48). Each part of the decoder names a row whose words are the fields it read,
joined in the format of its major opcode; and the fields of a word, joined again, are the word. -/

namespace Sys2Proof.Machine

/-! ### A word is the join of its fields (Table 2-2)

The fields of a format are adjacent, so their join is the extract of all 32 bits. -/

theorem major_of_op {w : BitVec 32} {n : Nat} (h : (fieldsOf w).op = n) : w.extractLsb' 26 6 = BitVec.ofNat 6 n := by
  simp only [← h, fieldsOf, BitVec.ofNat_toNat, BitVec.setWidth_eq]

theorem fmtA_fieldsOf {w : BitVec 32} {n : Nat} (h : (fieldsOf w).op = n) :
    fmtA (BitVec.ofNat 6 n) (fieldsOf w).d (fieldsOf w).a (fieldsOf w).b (w.extractLsb' 0 11) = w := by
  simp (disch := rfl) only [fmtA, fieldsOf, ← major_of_op h, BitVec.extractLsb'_append_extractLsb'_eq_extractLsb']
  exact BitVec.extractLsb'_eq_self

theorem fmtQ_fieldsOf {w : BitVec 32} {n : Nat} (h : (fieldsOf w).op = n) :
    fmtQ (BitVec.ofNat 6 n) (fieldsOf w).d (fieldsOf w).a (fieldsOf w).b (w.extractLsb' 6 5) (w.extractLsb' 0 6) = w := by
  simp (disch := rfl) only [fmtQ, fieldsOf, ← major_of_op h, BitVec.extractLsb'_append_extractLsb'_eq_extractLsb']
  exact BitVec.extractLsb'_eq_self

theorem fmtI_fieldsOf {w : BitVec 32} {n : Nat} (h : (fieldsOf w).op = n) :
    fmtI (BitVec.ofNat 6 n) (fieldsOf w).d (fieldsOf w).a (fieldsOf w).imm = w := by
  simp (disch := rfl) only [fmtI, fieldsOf, ← major_of_op h, BitVec.extractLsb'_append_extractLsb'_eq_extractLsb']
  exact BitVec.extractLsb'_eq_self

theorem fmtM_fieldsOf {w : BitVec 32} {n : Nat} (h : (fieldsOf w).op = n) :
    fmtM (BitVec.ofNat 6 n) (fieldsOf w).d (w.extractLsb' 12 2) (memOpOf w) = w := by
  simp (disch := rfl) only [fmtM, memOpOf, fieldsOf, ← major_of_op h, BitVec.extractLsb'_append_extractLsb'_eq_extractLsb']
  exact BitVec.extractLsb'_eq_self

theorem fmtS_fieldsOf {w : BitVec 32} (h : (fieldsOf w).op = 0x1D) :
    fmtS (fieldsOf w).d (fieldsOf w).a (w.extractLsb' 4 12) (w.extractLsb' 0 4) = w := by
  simp (disch := rfl) only [fmtS, fieldsOf, ← major_of_op h, BitVec.extractLsb'_append_extractLsb'_eq_extractLsb']
  exact BitVec.extractLsb'_eq_self

theorem major_append_offset {w : BitVec 32} {n : Nat} (h : (fieldsOf w).op = n) : BitVec.ofNat 6 n ++ w.extractLsb' 0 26 = w := by
  simp (disch := rfl) only [← major_of_op h, BitVec.extractLsb'_append_extractLsb'_eq_extractLsb']
  exact BitVec.extractLsb'_eq_self

theorem major_append_mask_offset {w : BitVec 32} {n : Nat} (h : (fieldsOf w).op = n) :
    BitVec.ofNat 6 n ++ w.extractLsb' 22 4 ++ w.extractLsb' 0 22 = w := by
  simp (disch := rfl) only [← major_of_op h, BitVec.extractLsb'_append_extractLsb'_eq_extractLsb']
  exact BitVec.extractLsb'_eq_self

/-! ### Subfields of fn, imm and the memory operand -/

theorem ofBool_getLsbD (w : BitVec 32) (n : Nat) : BitVec.ofBool (w.getLsbD n) = w.extractLsb' n 1 :=
  BitVec.eq_of_getLsbD_eq fun i hi => by simp [show i = 0 by omega]

theorem ofNat_fn (w : BitVec 32) : BitVec.ofNat 11 (fieldsOf w).fn = w.extractLsb' 0 11 := by
  simp only [fieldsOf, BitVec.ofNat_toNat, BitVec.setWidth_eq]

theorem ofNat_d (w : BitVec 32) : BitVec.ofNat 5 (w.extractLsb' 21 5).toNat = (fieldsOf w).d := by
  simp only [fieldsOf, BitVec.ofNat_toNat, BitVec.setWidth_eq]

theorem ofNat_fn_mod (w : BitVec 32) : BitVec.ofNat 6 ((fieldsOf w).fn % 64) = w.extractLsb' 0 6 := by
  apply BitVec.eq_of_toNat_eq
  simp [fieldsOf]

theorem ofNat_fn_form (w : BitVec 32) : BitVec.ofNat 2 ((fieldsOf w).fn / 2 % 4) = w.extractLsb' 1 2 := by
  apply BitVec.eq_of_toNat_eq
  simp [fieldsOf, Nat.shiftRight_eq_div_pow]
  omega

theorem ofNat_imm_mod (w : BitVec 32) : BitVec.ofNat 4 ((fieldsOf w).imm.toNat % 16) = w.extractLsb' 0 4 := by
  apply BitVec.eq_of_toNat_eq
  simp [fieldsOf]

/-- R102: bit 10 of major opcode 0x0C is zero; RMS, P and the operation fill the rest of fn. -/
theorem fpFn_fpModeOf {w : BitVec 32} (h : w.getLsbD 10 = false) :
    fpFn (fpModeOf w) (BitVec.ofNat 6 ((fieldsOf w).fn % 64)) = w.extractLsb' 0 11 := by
  have htop : 0#1 = w.extractLsb' 10 1 := by rw [← ofBool_getLsbD, h]; rfl
  simp (disch := rfl) only [fpFn, fpModeOf, htop, ofNat_fn_mod, ofBool_getLsbD, BitVec.extractLsb'_append_extractLsb'_eq_extractLsb']

theorem fmaFn_fmaModeOf (w : BitVec 32) : fmaFn (fmaModeOf w) (BitVec.ofNat 2 ((fieldsOf w).fn / 2 % 4)) = w.extractLsb' 0 6 := by
  simp (disch := rfl) only [fmaFn, fmaModeOf, ofNat_fn_form, ofBool_getLsbD, BitVec.extractLsb'_append_extractLsb'_eq_extractLsb']

/-- A field whose value fits its low m bits is those bits under zeros. -/
theorem zero_append_setWidth {n m : Nat} {x : BitVec (n + m)} (h : x.toNat < 2 ^ m) : 0#n ++ x.setWidth m = x := by
  apply BitVec.eq_of_toNat_eq
  simp [BitVec.toNat_append, Nat.mod_eq_of_lt h]

/-- The halves of an immediate. -/
theorem append_imm (x : BitVec 16) : x.extractLsb' 8 8 ++ x.extractLsb' 0 8 = x := by
  simp (disch := rfl) only [BitVec.extractLsb'_append_extractLsb'_eq_extractLsb']
  exact BitVec.extractLsb'_eq_self

/-- The immediate of a shift: a byte, the kind and the count. -/
theorem imm_of_shift (x : BitVec 16) : x.extractLsb' 8 8 ++ x.extractLsb' 6 2 ++ x.extractLsb' 0 6 = x := by
  simp (disch := rfl) only [BitVec.extractLsb'_append_extractLsb'_eq_extractLsb']
  exact BitVec.extractLsb'_eq_self

/-- R71: with base register, addressing mode and bits [10:8] zero, a memory operand holds what WLOCK and WUNLOCK name and nothing else. -/
theorem memOpOf_eq_noAddr {w : BitVec 32} (hrb : (memOpOf w).rb = 0#5) (ham : (memOpOf w).am = 0#2)
    (hmid : (memOpOf w).field.extractLsb' 8 3 = 0#3) : memOpOf w = noAddr (lockField (w.getLsbD 11) (w.extractLsb' 0 8)) := by
  have hmid' : 0#3 = w.extractLsb' 8 3 := by rw [← hmid, memOpOf, BitVec.extractLsb'_extractLsb'_of_le (by omega)]
  have hfield : (memOpOf w).field = lockField (w.getLsbD 11) (w.extractLsb' 0 8) := by
    simp (disch := rfl) only [lockField, memOpOf, hmid', ofBool_getLsbD, BitVec.extractLsb'_append_extractLsb'_eq_extractLsb']
  rw [noAddr, ← hrb, ← ham, ← hfield]

/-! ### What each part of the decoder finds is written back as the fields it was found in

A field that a row does not carry is one that the decoder has found zero (R47). -/

theorem encodeInsn_of_decodeAlu {c : CoreId} {f : Fields} {i : Instr} (h : decodeAlu c f = some i) :
    encodeInsn i = some (fmtA 0x01#6 f.d f.a f.b (BitVec.ofNat 11 f.fn), 0#32) := by
  unfold decodeAlu at h
  split at h <;> rename_i hfn
  case h_20 => cases h
  -- products and compares write no register; MOV has one source
  case h_10 | h_11 | h_16 | h_17 | h_18 => obtain ⟨hd, ⟨⟩⟩ := Option.ite_none_right_eq_some.mp h; rw [hfn, hd]; rfl
  case h_19 => obtain ⟨hb, ⟨⟩⟩ := Option.ite_none_right_eq_some.mp h; rw [hfn, hb]; rfl
  all_goals cases h; rw [hfn]; rfl

theorem encodeInsn_of_decodeFp {c : CoreId} {w : BitVec 32} {f : Fields} {i : Instr} (h : decodeFp c w f = some i) :
    w.getLsbD 10 = false ∧
    encodeInsn i = some (fmtA 0x0C#6 f.d f.a f.b (fpFn (fpModeOf w) (BitVec.ofNat 6 (f.fn % 64))), 0#32) := by
  unfold decodeFp at h
  generalize fpModeOf w = m at h ⊢
  obtain ⟨rms, p⟩ := m
  dsimp only at h
  split at h
  case isTrue => cases h
  next htop =>
  refine ⟨eq_false_of_ne_true htop, ?_⟩
  split at h <;> rename_i hfn
  case h_13 => cases h
  -- FSQRT and conversions have one source; FCMP, FNEG and FABS have no rounding; FCVT.S and FCVT.D fix P
  case h_5 | h_11 | h_12 => obtain ⟨hb, ⟨⟩⟩ := Option.ite_none_right_eq_some.mp h; rw [hfn, hb]; rfl
  case h_6 => obtain ⟨⟨hd, hr⟩, ⟨⟩⟩ := Option.ite_none_right_eq_some.mp h; rw [hfn, hd, hr]; rfl
  case h_7 | h_8 | h_9 | h_10 => obtain ⟨⟨hb, hm⟩, ⟨⟩⟩ := Option.ite_none_right_eq_some.mp h; rw [hfn, hb, hm]; rfl
  all_goals cases h; rw [hfn]; rfl

theorem encodeInsn_of_decodeFma {c : CoreId} {w : BitVec 32} {f : Fields} {i : Instr} (h : decodeFma c w f = some i) :
    encodeInsn i =
      some (fmtQ 0x0D#6 f.d f.a f.b (w.extractLsb' 6 5) (fmaFn (fmaModeOf w) (BitVec.ofNat 2 (f.fn / 2 % 4))), 0#32) := by
  unfold decodeFma at h
  dsimp only at h
  split at h
  case h_4 h0 h1 h2 =>
    have hform : f.fn / 2 % 4 = 3 := by
      simp only [imp_false] at h0 h1 h2
      omega
    cases h; rw [hform]; rfl
  all_goals next hform => cases h; rw [hform]; rfl

theorem encodeInsn_of_decodeGeneric {c : CoreId} {f : Fields} {i : Instr} (h : decodeGeneric c f = some i) :
    encodeInsn i = some (fmtA 0x0E#6 f.d f.a f.b (BitVec.ofNat 11 f.fn), 0#32) := by
  unfold decodeGeneric at h
  split at h <;> rename_i hfn
  case h_5 => obtain ⟨hd, ⟨⟩⟩ := Option.ite_none_right_eq_some.mp h; rw [hfn, hd]; rfl
  case h_6 => obtain ⟨hb, ⟨⟩⟩ := Option.ite_none_right_eq_some.mp h; rw [hfn, hb]; rfl
  case h_7 => cases h
  all_goals cases h; rw [hfn]; rfl

theorem encodeInsn_of_decodeList {c : CoreId} {f : Fields} {i : Instr} (h : decodeList c f = some i) :
    encodeInsn i = some (fmtA 0x0F#6 f.d f.a f.b (BitVec.ofNat 11 f.fn), 0#32) := by
  unfold decodeList at h
  split at h <;> rename_i hfn
  case h_1 | h_2 => obtain ⟨hb, ⟨⟩⟩ := Option.ite_none_right_eq_some.mp h; rw [hfn, hb]; rfl
  case h_3 => cases h; rw [hfn]; rfl
  case h_4 | h_5 => obtain ⟨hd, ⟨⟩⟩ := Option.ite_none_right_eq_some.mp h; rw [hfn, hd]; rfl
  case h_6 => cases h

theorem encodeInsn_of_decodeTag {c : CoreId} {f : Fields} {i : Instr} (h : decodeTag c f = some i) :
    encodeInsn i = some (fmtI 0x10#6 f.d f.a f.imm, 0#32) := by
  unfold decodeTag at h
  split at h
  case isTrue himm => cases h; rw [himm]; rfl
  case isFalse =>
    obtain ⟨hlow, ⟨⟩⟩ := Option.ite_none_right_eq_some.mp h
    rw [encodeInsn, ← hlow, append_imm]

theorem encodeInsn_of_decodeCache {c : CoreId} {w : BitVec 32} {i : Instr} (h : decodeCache c w = some i) :
    encodeInsn i = some (fmtM 0x16#6 (BitVec.ofNat 5 (w.extractLsb' 21 5).toNat) (w.extractLsb' 12 2) (memOpOf w), 0#32) := by
  unfold decodeCache at h
  simp only [Bool.and_eq_true, decide_eq_true_eq, and_assoc] at h
  split at h
  case isTrue => cases h
  next hsz =>
  rw [Decidable.not_not.mp hsz]
  split at h <;> rename_i hrt
  -- CINV.ALL has no operand; WLOCK and WUNLOCK have a lock field
  case h_5 => obtain ⟨hm, ⟨⟩⟩ := Option.ite_none_right_eq_some.mp h; rw [hrt, hm]; rfl
  case h_6 | h_7 =>
    obtain ⟨⟨hrb, ham, hmid⟩, ⟨⟩⟩ := Option.ite_none_right_eq_some.mp h
    rw [hrt, memOpOf_eq_noAddr hrb ham hmid]; rfl
  case h_8 => cases h
  all_goals cases h; rw [hrt]; rfl

theorem encodeInsn_of_decodeFlow {c : CoreId} {f : Fields} {i : Instr} (h : decodeFlow c f = some i) :
    encodeInsn i = some (fmtA (BitVec.ofNat 6 f.op) f.d f.a f.b (BitVec.ofNat 11 f.fn), 0#32) := by
  unfold decodeFlow at h
  split at h <;> rename_i hop hfn
  case h_1 | h_2 | h_8 => obtain ⟨⟨hd, hb⟩, ⟨⟩⟩ := Option.ite_none_right_eq_some.mp h; rw [hop, hfn, hd, hb]; rfl
  case h_3 | h_4 | h_5 => obtain ⟨⟨hd, ha, hb⟩, ⟨⟩⟩ := Option.ite_none_right_eq_some.mp h; rw [hop, hfn, hd, ha, hb]; rfl
  case h_6 | h_7 => obtain ⟨hd, ⟨⟩⟩ := Option.ite_none_right_eq_some.mp h; rw [hop, hfn, hd]; rfl
  case h_9 => obtain ⟨⟨ha, hb⟩, ⟨⟩⟩ := Option.ite_none_right_eq_some.mp h; rw [hop, hfn, ha, hb]; rfl
  case h_10 => cases h

theorem encodeInsn_of_decodeSystem {c : CoreId} {w : BitVec 32} {f : Fields} {i : Instr} (h : decodeSystem c w f = some i) :
    encodeInsn i = some (fmtS f.d f.a (w.extractLsb' 4 12) (BitVec.ofNat 4 (f.imm.toNat % 16)), 0#32) := by
  unfold decodeSystem at h
  generalize w.extractLsb' 4 12 = arg at h ⊢
  simp only [Bool.and_eq_true, decide_eq_true_eq, and_assoc] at h
  split at h <;> rename_i hfn
  case h_9 => cases h
  all_goals rw [hfn]
  case h_1 =>
    obtain ⟨⟨hd, ha, hn⟩, ⟨⟩⟩ := Option.ite_none_right_eq_some.mp h
    rw [encodeInsn, hd, ha, zero_append_setWidth (n := 6) hn]
  case h_2 =>
    split at h
    case isFalse => cases h
    next hda =>
    obtain ⟨hd, ha⟩ := hda
    have hself : arg = BitVec.ofNat 12 arg.toNat := by simp
    split at h <;> rename_i harg
    case h_5 => cases h
    all_goals cases h; rw [hd, ha, hself, harg]; rfl
  case h_3 | h_4 => obtain ⟨⟨hd, ha, harg⟩, ⟨⟩⟩ := Option.ite_none_right_eq_some.mp h; rw [hd, ha, harg]; rfl
  case h_5 =>
    obtain ⟨⟨hd, hn⟩, ⟨⟩⟩ := Option.ite_none_right_eq_some.mp h
    rw [encodeInsn, hd, zero_append_setWidth (n := 8) hn]
  case h_6 => obtain ⟨ha, ⟨⟩⟩ := Option.ite_none_right_eq_some.mp h; rw [ha]; rfl
  case h_7 => obtain ⟨hd, ⟨⟩⟩ := Option.ite_none_right_eq_some.mp h; rw [hd]; rfl
  case h_8 =>
    obtain ⟨⟨ha, hn⟩, ⟨⟩⟩ := Option.ite_none_right_eq_some.mp h
    rw [encodeInsn, ha, ← BitVec.setWidth_one, zero_append_setWidth (n := 11) hn]

theorem encodeInsn_of_decodeDse {c : CoreId} {f : Fields} {e : BitVec 32} {i : Instr} (h : decodeDse c f e = some i) :
    encodeInsn i = some (fmtA (BitVec.ofNat 6 f.op) f.d f.a f.b (BitVec.ofNat 11 f.fn), e) := by
  unfold decodeDse at h
  dsimp only at h
  split at h
  case h_16 => cases h
  all_goals next hop hfn => cases h; rw [hop, hfn]; rfl

/-! ### How long an instruction is -/

theorem op_fieldsOf (w : BitVec 32) : (fieldsOf w).op = majorOf w := by
  simp [fieldsOf, majorOf, Nat.shiftRight_eq_div_pow]
  omega

/-- R66: REP and REPN are words of major opcode 0x17. -/
theorem op_of_isPrefix {w : BitVec 32} (h : isPrefix w = true) : (fieldsOf w).op = 0x17 := by
  simp only [isPrefix, Bool.or_eq_true, decide_eq_true_eq] at h
  obtain rfl | rfl := h <;> rfl

/-- R46, R66: an instruction has a second word where it is a prefix or has an extension word. -/
theorem lenOf_eq_eight_iff (w : BitVec 32) : lenOf w = 8 ↔ isPrefix w = true ∨ (0x20 ≤ (fieldsOf w).op ∧ (fieldsOf w).op ≤ 0x23) := by
  rw [op_fieldsOf, lenOf]
  split <;> simp_all

/-! ### The decoder as a whole -/

theorem encodeInsn_of_decodeRaw_prefix {c : CoreId} {w e : BitVec 32} {i : Instr} (hop : (fieldsOf w).op = 0x17)
    (h : decodeRaw c w e = some i) : isPrefix w = true ∧ encodeInsn i = some (w, e) := by
  simp only [decodeRaw, hop] at h
  split at h
  case isTrue hw => cases h; exact ⟨by simp [isPrefix, hw], hw ▸ rfl⟩
  case isFalse => obtain ⟨hw, ⟨⟩⟩ := Option.ite_none_right_eq_some.mp h; exact ⟨by simp [isPrefix, hw], hw ▸ rfl⟩

theorem decodeRaw_of_dse {c : CoreId} {w e : BitVec 32} (hx : 0x20 ≤ (fieldsOf w).op ∧ (fieldsOf w).op ≤ 0x23) :
    decodeRaw c w e = decodeDse c (fieldsOf w) e := by
  have hop : (fieldsOf w).op = 0x20 ∨ (fieldsOf w).op = 0x21 ∨ (fieldsOf w).op = 0x22 ∨ (fieldsOf w).op = 0x23 := by omega
  obtain hop | hop | hop | hop := hop <;> simp [decodeRaw, hop]

theorem encodeInsn_of_decodeRaw_dse {c : CoreId} {w e : BitVec 32} {i : Instr} (hx : 0x20 ≤ (fieldsOf w).op ∧ (fieldsOf w).op ≤ 0x23)
    (h : decodeRaw c w e = some i) : encodeInsn i = some (w, e) := by
  rw [decodeRaw_of_dse hx] at h
  rw [encodeInsn_of_decodeDse h, ofNat_fn, fmtA_fieldsOf rfl]

/-- Every other row that the decoder finds is one word long. -/
theorem encodeInsn_of_decodeRaw_word {c : CoreId} {w e : BitVec 32} {i : Instr} (hp : (fieldsOf w).op ≠ 0x17)
    (hx : ¬ (0x20 ≤ (fieldsOf w).op ∧ (fieldsOf w).op ≤ 0x23)) (h : decodeRaw c w e = some i) : encodeInsn i = some (w, 0#32) := by
  unfold decodeRaw at h
  dsimp only at h
  split at h <;> rename_i hop
  case h_1 => rw [encodeInsn_of_decodeAlu h, ofNat_fn, fmtA_fieldsOf hop]
  -- immediates (0x02–0x0B)
  case h_2 | h_3 | h_4 | h_5 | h_7 => cases h; rw [encodeInsn, fmtI_fieldsOf hop]
  case h_6 =>
    obtain ⟨hz, ⟨⟩⟩ := Option.ite_none_right_eq_some.mp h
    rw [encodeInsn, ← hz, imm_of_shift, fmtI_fieldsOf hop]
  case h_8 | h_9 => obtain ⟨hd, ⟨⟩⟩ := Option.ite_none_right_eq_some.mp h; rw [encodeInsn, ← hd, fmtI_fieldsOf hop]
  case h_10 => obtain ⟨ha, ⟨⟩⟩ := Option.ite_none_right_eq_some.mp h; rw [encodeInsn, ← ha, fmtI_fieldsOf hop]
  case h_11 =>
    obtain ⟨ha, ⟨⟩⟩ := Option.ite_none_right_eq_some.mp h
    rw [encodeInsn, zero_append_setWidth (n := 3) ha, fmtI_fieldsOf hop]
  -- floating point, generic arithmetic, lists and tags (0x0C–0x10)
  case h_12 =>
    obtain ⟨htop, henc⟩ := encodeInsn_of_decodeFp h
    rw [henc, fpFn_fpModeOf htop, fmtA_fieldsOf hop]
  case h_13 => rw [encodeInsn_of_decodeFma h, fmaFn_fmaModeOf, fmtQ_fieldsOf hop]
  case h_14 => rw [encodeInsn_of_decodeGeneric h, ofNat_fn, fmtA_fieldsOf hop]
  case h_15 => rw [encodeInsn_of_decodeList h, ofNat_fn, fmtA_fieldsOf hop]
  case h_16 => rw [encodeInsn_of_decodeTag h, fmtI_fieldsOf hop]
  -- memory (0x11–0x16)
  case h_17 | h_18 | h_19 => cases h; rw [encodeInsn, fmtM_fieldsOf hop]
  case h_20 => obtain ⟨hsz, ⟨⟩⟩ := Option.ite_none_right_eq_some.mp h; rw [encodeInsn, ← hsz, fmtM_fieldsOf hop]
  case h_21 =>
    obtain ⟨hfn, ⟨⟩⟩ := Option.ite_none_right_eq_some.mp h
    have hz : 0#11 = w.extractLsb' 0 11 := by rw [← ofNat_fn, hfn]
    rw [encodeInsn, hz, fmtA_fieldsOf hop]
  case h_22 => rw [encodeInsn_of_decodeCache h, ofNat_d, fmtM_fieldsOf hop]
  -- prefixes (0x17), which the hypothesis leaves out, and branches (0x18–0x1A)
  case h_23 => exact absurd hop hp
  case h_24 | h_25 => cases h; rw [encodeInsn, major_append_offset hop]
  case h_26 => cases h; rw [encodeInsn, major_append_mask_offset hop]
  -- system (0x1D), extension functions (0x3E), and jumps, windows and the journal (0x1B, 0x1C, 0x1E)
  case h_27 => rw [encodeInsn_of_decodeSystem h, ofNat_imm_mod, fmtS_fieldsOf hop]
  case h_28 => cases h; rw [encodeInsn, fmtA_fieldsOf hop]
  case h_29 =>
    rw [if_neg hx] at h
    rw [encodeInsn_of_decodeFlow h, ofNat_fn, fmtA_fieldsOf rfl]

/-- The decoder reads every bit of the words of an instruction: of a second word only where there is one. -/
theorem encodeInsn_of_decodeRaw {c : CoreId} {w e : BitVec 32} {i : Instr} (h : decodeRaw c w e = some i) :
    encodeInsn i = some (w, if lenOf w = 8 then e else 0#32) := by
  by_cases hp : (fieldsOf w).op = 0x17
  · obtain ⟨hpre, henc⟩ := encodeInsn_of_decodeRaw_prefix hp h
    rw [if_pos ((lenOf_eq_eight_iff w).mpr (.inl hpre)), henc]
  by_cases hx : 0x20 ≤ (fieldsOf w).op ∧ (fieldsOf w).op ≤ 0x23
  · rw [if_pos ((lenOf_eq_eight_iff w).mpr (.inr hx)), encodeInsn_of_decodeRaw_dse hx h]
  · have hlen : lenOf w ≠ 8 := fun h8 => ((lenOf_eq_eight_iff w).mp h8).elim (fun hpre => hp (op_of_isPrefix hpre)) hx
    rw [if_neg hlen, encodeInsn_of_decodeRaw_word hp hx h]

/-- R48: what the decoder finds is an instruction only where it is well formed. -/
theorem decodeRaw_of_decodeInsn {c : CoreId} {w e : BitVec 32} {i : Instr} (h : decodeInsn c w e = some i) :
    decodeRaw c w e = some i ∧ i.wellFormed = true := by
  unfold decodeInsn at h
  split at h
  case h_1 j hj => obtain ⟨hwf, ⟨⟩⟩ := Option.ite_none_right_eq_some.mp h; exact ⟨hj, hwf⟩
  case h_2 => cases h

/-- Settles O45: the major opcode of `w` names the format, and the row that the decoder finds is written back as the fields of `w` in that
format (R46–R48). -/
theorem decodeReadsAll : Obligations.DecodeReadsAll := by
  intro c w e i h
  obtain ⟨hraw, hwf⟩ := decodeRaw_of_decodeInsn h
  exact ⟨hwf, encodeInsn_of_decodeRaw hraw⟩

end Sys2Proof.Machine
end
